-- ==== Sys2Proof/Word.lean ====
section
/-! DEFINITION. The machine's words: bytes, 16-bit, 32-bit and 64-bit values. -/
namespace Sys2Proof

/-- A byte. -/
abbrev Byte := BitVec 8
/-- A 16-bit word: selectors, table limits, far-pointer selectors. -/
abbrev Half := BitVec 16
/-- A 32-bit doubleword: general registers, linear addresses, offsets (R6). -/
abbrev Word := BitVec 32
/-- A 64-bit quadword: MSRs, PAE page entries, descriptors. -/
abbrev Quad := BitVec 64

end Sys2Proof
end

