-- ==== Sys2Proof/Syntax.lean ====
section
/-! DEFINITION. The instructions: one constructor of `Instr` for each row of the opcode table, with its operands
as data (registers, memory operand forms, immediates). Nothing here says what an instruction does. -/
namespace Sys2Proof

/-- The eight general registers, in encoding order (R22, R203). -/
inductive Reg where
  | eax | ecx | edx | ebx | esp | ebp | esi | edi
  deriving DecidableEq, Repr

/-- The eight byte registers, in encoding order (R22, R601). -/
inductive Reg8 where
  | al | cl | dl | bl | ah | ch | dh | bh
  deriving DecidableEq, Repr

/-- The six segment registers, in encoding order (R30). -/
inductive Seg where
  | es | cs | ss | ds | fs | gs
  deriving DecidableEq, Repr

/-- The control registers an encoding can name (R35 to R39, R203; CR1 is #UD, R36). -/
inductive CrN where
  | cr0 | cr2 | cr3 | cr4
  deriving DecidableEq, Repr

/-- The debug register numbers (R40, R236). -/
inductive DrN where
  | dr0 | dr1 | dr2 | dr3 | dr4 | dr5 | dr6 | dr7
  deriving DecidableEq, Repr

/-- The scale of an index register (R204). -/
inductive Scale where
  | x1 | x2 | x4 | x8
  deriving DecidableEq, Repr

/-- A scaled index register (R204). -/
structure Index where
  reg : Reg
  scale : Scale
  deriving DecidableEq, Repr

/-- The displacement of a 32-bit address (R203). -/
inductive Disp32 where
  | none
  | d8 (v : Byte)
  | d32 (v : Word)
  deriving DecidableEq, Repr

/-- The displacement of a 16-bit address (R206). -/
inductive Disp16 where
  | none
  | d8 (v : Byte)
  | d16 (v : Half)
  deriving DecidableEq, Repr

/-- The eight base forms of 16-bit addressing (R206). -/
inductive Base16 where
  | bxsi | bxdi | bpsi | bpdi | si | di | bp | bx
  deriving DecidableEq, Repr

/-- A memory operand: the rows of R203, R204 (32-bit addressing) and R206 (16-bit addressing). -/
inductive Mem where
  /-- disp32 alone (mod = 00, rm = 5) -/
  | abs32 (disp : Word)
  /-- register plus displacement, without a SIB byte -/
  | base32 (base : Reg) (disp : Disp32)
  /-- SIB byte with a base register -/
  | sib (base : Reg) (index : Option Index) (disp : Disp32)
  /-- SIB byte without a base register -/
  | sibAbs (index : Option Index) (disp : Word)
  /-- disp16 alone -/
  | abs16 (disp : Half)
  /-- 16-bit base form plus displacement -/
  | base16 (base : Base16) (disp : Disp16)
  deriving DecidableEq, Repr

/-- An r/m operand: a register or a memory operand (R203). -/
inductive RM (ρ : Type) where
  | reg (r : ρ)
  | mem (m : Mem)
  deriving DecidableEq, Repr

/-- The two repeat prefixes (R201). -/
inductive RepKind where
  | repne | rep
  deriving DecidableEq, Repr

/-- The prefixes read so far for the instruction in progress (R201). -/
structure Pfx where
  lock : Bool
  rep : Option RepKind
  seg : Option Seg
  opsize : Bool
  addrsize : Bool
  deriving DecidableEq, Repr

/-- No prefix. -/
def Pfx.none : Pfx := ⟨false, Option.none, Option.none, false, false⟩

/-- What besides the bytes decides how they decode (R207): the D flag of the code segment and the prefixes. -/
structure DecodeCtx where
  d32 : Bool
  pfx : Pfx
  deriving DecidableEq, Repr

/-- The instructions, one constructor a row of spec/opcode_table.json, the rows with operands first and the rows without after
them, each group in the table's order. Immediates of
operand size, 32-bit relative displacements, far-pointer offsets and moffs offsets are held as 32-bit words
whose upper half is 0 in the 16-bit forms (WellFormed). -/
inductive Instr where
  /-- SLDT (R226) -/
  | sldt (rm : RM Reg)
  /-- STR (R228) -/
  | str (rm : RM Reg)
  /-- LLDT (R225) -/
  | lldt (rm : RM Reg)
  /-- LTR (R227) -/
  | ltr (rm : RM Reg)
  /-- VERR (R263) -/
  | verr (rm : RM Reg)
  /-- VERW (R263) -/
  | verw (rm : RM Reg)
  /-- SGDT (R222) -/
  | sgdt (m : Mem)
  /-- SIDT (R224) -/
  | sidt (m : Mem)
  /-- LGDT (R221) -/
  | lgdt (m : Mem)
  /-- LIDT (R223) -/
  | lidt (m : Mem)
  /-- SMSW (R234) -/
  | smsw (rm : RM Reg)
  /-- LMSW (R233) -/
  | lmsw (rm : RM Reg)
  /-- INVLPG (R365) -/
  | invlpg (m : Mem)
  /-- FXSAVE (R212) -/
  | fxsave (m : Mem)
  /-- FXRSTOR (R212) -/
  | fxrstor (m : Mem)
  /-- LDMXCSR (R212) -/
  | ldmxcsr (m : Mem)
  /-- STMXCSR (R212) -/
  | stmxcsr (m : Mem)
  /-- CLFLUSH (R368) -/
  | clflush (m : Mem)
  /-- CMPXCHG8B (R622) -/
  | cmpxchg8b (m : Mem)
  /-- BT r/m, imm8 (R623) -/
  | btRmImm8 (rm : RM Reg) (imm : Byte)
  /-- BTS r/m, imm8 (R623) -/
  | btsRmImm8 (rm : RM Reg) (imm : Byte)
  /-- BTR r/m, imm8 (R623) -/
  | btrRmImm8 (rm : RM Reg) (imm : Byte)
  /-- BTC r/m, imm8 (R623) -/
  | btcRmImm8 (rm : RM Reg) (imm : Byte)
  /-- LAR (R262) -/
  | lar (r : Reg) (src : RM Reg)
  /-- LSL (R264) -/
  | lsl (r : Reg) (src : RM Reg)
  /-- MOV r32, CRn (R230) -/
  | movR32Crn (r : Reg) (c : CrN)
  /-- MOV r32, DRn (R236) -/
  | movR32Drn (r : Reg) (d : DrN)
  /-- MOV CRn, r32 (R232) -/
  | movCrnR32 (c : CrN) (r : Reg)
  /-- MOV DRn, r32 (R236) -/
  | movDrnR32 (d : DrN) (r : Reg)
  /-- MOVNTI (R604) -/
  | movnti (m : Mem) (r : Reg)
  /-- XADD r/m8, r8 (R620) -/
  | xaddRm8R8 (dst : RM Reg8) (r : Reg8)
  /-- XADD r/m, r (R620) -/
  | xaddRmR (dst : RM Reg) (r : Reg)
  /-- CMPXCHG r/m8, r8 (R621) -/
  | cmpxchgRm8R8 (dst : RM Reg8) (r : Reg8)
  /-- CMPXCHG r/m, r (R621) -/
  | cmpxchgRmR (dst : RM Reg) (r : Reg)
  /-- BT r/m, r (R623) -/
  | btRmR (dst : RM Reg) (r : Reg)
  /-- BTS r/m, r (R623) -/
  | btsRmR (dst : RM Reg) (r : Reg)
  /-- BTR r/m, r (R623) -/
  | btrRmR (dst : RM Reg) (r : Reg)
  /-- BTC r/m, r (R623) -/
  | btcRmR (dst : RM Reg) (r : Reg)
  /-- JO rel32 (R631) -/
  | joRel32 (rel : Word)
  /-- JNO rel32 (R631) -/
  | jnoRel32 (rel : Word)
  /-- JB rel32 (R631) -/
  | jbRel32 (rel : Word)
  /-- JAE rel32 (R631) -/
  | jaeRel32 (rel : Word)
  /-- JE rel32 (R631) -/
  | jeRel32 (rel : Word)
  /-- JNE rel32 (R631) -/
  | jneRel32 (rel : Word)
  /-- JBE rel32 (R631) -/
  | jbeRel32 (rel : Word)
  /-- JA rel32 (R631) -/
  | jaRel32 (rel : Word)
  /-- JS rel32 (R631) -/
  | jsRel32 (rel : Word)
  /-- JNS rel32 (R631) -/
  | jnsRel32 (rel : Word)
  /-- JP rel32 (R631) -/
  | jpRel32 (rel : Word)
  /-- JNP rel32 (R631) -/
  | jnpRel32 (rel : Word)
  /-- JL rel32 (R631) -/
  | jlRel32 (rel : Word)
  /-- JGE rel32 (R631) -/
  | jgeRel32 (rel : Word)
  /-- JLE rel32 (R631) -/
  | jleRel32 (rel : Word)
  /-- JG rel32 (R631) -/
  | jgRel32 (rel : Word)
  /-- CALL m16 32 (R283) -/
  | callM1632 (m : Mem)
  /-- JMP m16 32 (R282) -/
  | jmpM1632 (m : Mem)
  /-- MOV r/m8, imm8 (R603) -/
  | movRm8Imm8 (rm : RM Reg8) (imm : Byte)
  /-- MOV r/m, imm (R603) -/
  | movRmImm (rm : RM Reg) (imm : Word)
  /-- PUSH r/m (R607) -/
  | pushRm (rm : RM Reg)
  /-- POP r/m (R607) -/
  | popRm (rm : RM Reg)
  /-- ADD r/m8, imm8 (R611) -/
  | addRm8Imm8 (rm : RM Reg8) (imm : Byte)
  /-- ADD r/m, imm (R611) -/
  | addRmImm (rm : RM Reg) (imm : Word)
  /-- ADD r/m, imm8 (R611) -/
  | addRmImm8 (rm : RM Reg) (imm : Byte)
  /-- OR r/m8, imm8 (R615) -/
  | orRm8Imm8 (rm : RM Reg8) (imm : Byte)
  /-- OR r/m, imm (R615) -/
  | orRmImm (rm : RM Reg) (imm : Word)
  /-- OR r/m, imm8 (R615) -/
  | orRmImm8 (rm : RM Reg) (imm : Byte)
  /-- ADC r/m8, imm8 (R612) -/
  | adcRm8Imm8 (rm : RM Reg8) (imm : Byte)
  /-- ADC r/m, imm (R612) -/
  | adcRmImm (rm : RM Reg) (imm : Word)
  /-- ADC r/m, imm8 (R612) -/
  | adcRmImm8 (rm : RM Reg) (imm : Byte)
  /-- SBB r/m8, imm8 (R614) -/
  | sbbRm8Imm8 (rm : RM Reg8) (imm : Byte)
  /-- SBB r/m, imm (R614) -/
  | sbbRmImm (rm : RM Reg) (imm : Word)
  /-- SBB r/m, imm8 (R614) -/
  | sbbRmImm8 (rm : RM Reg) (imm : Byte)
  /-- AND r/m8, imm8 (R615) -/
  | andRm8Imm8 (rm : RM Reg8) (imm : Byte)
  /-- AND r/m, imm (R615) -/
  | andRmImm (rm : RM Reg) (imm : Word)
  /-- AND r/m, imm8 (R615) -/
  | andRmImm8 (rm : RM Reg) (imm : Byte)
  /-- SUB r/m8, imm8 (R613) -/
  | subRm8Imm8 (rm : RM Reg8) (imm : Byte)
  /-- SUB r/m, imm (R613) -/
  | subRmImm (rm : RM Reg) (imm : Word)
  /-- SUB r/m, imm8 (R613) -/
  | subRmImm8 (rm : RM Reg) (imm : Byte)
  /-- XOR r/m8, imm8 (R615) -/
  | xorRm8Imm8 (rm : RM Reg8) (imm : Byte)
  /-- XOR r/m, imm (R615) -/
  | xorRmImm (rm : RM Reg) (imm : Word)
  /-- XOR r/m, imm8 (R615) -/
  | xorRmImm8 (rm : RM Reg) (imm : Byte)
  /-- CMP r/m8, imm8 (R616) -/
  | cmpRm8Imm8 (rm : RM Reg8) (imm : Byte)
  /-- CMP r/m, imm (R616) -/
  | cmpRmImm (rm : RM Reg) (imm : Word)
  /-- CMP r/m, imm8 (R616) -/
  | cmpRmImm8 (rm : RM Reg) (imm : Byte)
  /-- TEST r/m8, imm8 (R617) -/
  | testRm8Imm8 (rm : RM Reg8) (imm : Byte)
  /-- TEST r/m, imm (R617) -/
  | testRmImm (rm : RM Reg) (imm : Word)
  /-- INC r/m8 (R618) -/
  | incRm8 (rm : RM Reg8)
  /-- INC r/m (R618) -/
  | incRm (rm : RM Reg)
  /-- DEC r/m8 (R618) -/
  | decRm8 (rm : RM Reg8)
  /-- DEC r/m (R618) -/
  | decRm (rm : RM Reg)
  /-- NOT r/m8 (R619) -/
  | notRm8 (rm : RM Reg8)
  /-- NOT r/m (R619) -/
  | notRm (rm : RM Reg)
  /-- NEG r/m8 (R619) -/
  | negRm8 (rm : RM Reg8)
  /-- NEG r/m (R619) -/
  | negRm (rm : RM Reg)
  /-- JMP r/m32 (R630) -/
  | jmpRm32 (rm : RM Reg)
  /-- CALL r/m32 (R632) -/
  | callRm32 (rm : RM Reg)
  /-- BOUND (R295) -/
  | bound (r : Reg) (m : Mem)
  /-- ARPL (R265) -/
  | arpl (dst : RM Reg) (r : Reg)
  /-- MOV r/m, Sreg (R229) -/
  | movRmSreg (dst : RM Reg) (sr : Seg)
  /-- MOV Sreg, r/m16 (R229) -/
  | movSregRm16 (sr : Seg) (src : RM Reg)
  /-- CALL ptr16 32 (R283) -/
  | callPtr1632 (sel : Half) (off : Word)
  /-- JMP ptr16 32 (R282) -/
  | jmpPtr1632 (sel : Half) (off : Word)
  /-- RET far imm16 (R289) -/
  | retFarImm16 (imm : Half)
  /-- INT imm8 (R292) -/
  | intImm8 (imm : Byte)
  /-- IN AL, imm8 (R608) -/
  | inAlImm8 (imm : Byte)
  /-- IN eAX, imm8 (R608) -/
  | inEaxImm8 (imm : Byte)
  /-- OUT imm8, AL (R608) -/
  | outImm8Al (imm : Byte)
  /-- OUT imm8, eAX (R608) -/
  | outImm8Eax (imm : Byte)
  /-- MOV r/m8, r8 (R603) -/
  | movRm8R8 (dst : RM Reg8) (r : Reg8)
  /-- MOV r/m, r (R603) -/
  | movRmR (dst : RM Reg) (r : Reg)
  /-- MOV r8, r/m8 (R603) -/
  | movR8Rm8 (r : Reg8) (src : RM Reg8)
  /-- MOV r, r/m (R603) -/
  | movRRm (r : Reg) (src : RM Reg)
  /-- MOV AL, moffs8 (R603) -/
  | movAlMoffs8 (off : Word)
  /-- MOV eAX, moffs (R603) -/
  | movEaxMoffs (off : Word)
  /-- MOV moffs8, AL (R603) -/
  | movMoffs8Al (off : Word)
  /-- MOV moffs, eAX (R603) -/
  | movMoffsEax (off : Word)
  /-- LEA (R605) -/
  | lea (r : Reg) (m : Mem)
  /-- XCHG r/m8, r8 (R606) -/
  | xchgRm8R8 (dst : RM Reg8) (r : Reg8)
  /-- XCHG r/m, r (R606) -/
  | xchgRmR (dst : RM Reg) (r : Reg)
  /-- PUSH imm8 (R607) -/
  | pushImm8 (imm : Byte)
  /-- PUSH imm32 (R607) -/
  | pushImm32 (imm : Word)
  /-- ADD r/m8, r8 (R611) -/
  | addRm8R8 (dst : RM Reg8) (r : Reg8)
  /-- ADD r/m, r (R611) -/
  | addRmR (dst : RM Reg) (r : Reg)
  /-- ADD r8, r/m8 (R611) -/
  | addR8Rm8 (r : Reg8) (src : RM Reg8)
  /-- ADD r, r/m (R611) -/
  | addRRm (r : Reg) (src : RM Reg)
  /-- ADD AL, imm8 (R611) -/
  | addAlImm8 (imm : Byte)
  /-- ADD eAX, imm (R611) -/
  | addEaxImm (imm : Word)
  /-- OR r/m8, r8 (R615) -/
  | orRm8R8 (dst : RM Reg8) (r : Reg8)
  /-- OR r/m, r (R615) -/
  | orRmR (dst : RM Reg) (r : Reg)
  /-- OR r8, r/m8 (R615) -/
  | orR8Rm8 (r : Reg8) (src : RM Reg8)
  /-- OR r, r/m (R615) -/
  | orRRm (r : Reg) (src : RM Reg)
  /-- OR AL, imm8 (R615) -/
  | orAlImm8 (imm : Byte)
  /-- OR eAX, imm (R615) -/
  | orEaxImm (imm : Word)
  /-- ADC r/m8, r8 (R612) -/
  | adcRm8R8 (dst : RM Reg8) (r : Reg8)
  /-- ADC r/m, r (R612) -/
  | adcRmR (dst : RM Reg) (r : Reg)
  /-- ADC r8, r/m8 (R612) -/
  | adcR8Rm8 (r : Reg8) (src : RM Reg8)
  /-- ADC r, r/m (R612) -/
  | adcRRm (r : Reg) (src : RM Reg)
  /-- ADC AL, imm8 (R612) -/
  | adcAlImm8 (imm : Byte)
  /-- ADC eAX, imm (R612) -/
  | adcEaxImm (imm : Word)
  /-- SBB r/m8, r8 (R614) -/
  | sbbRm8R8 (dst : RM Reg8) (r : Reg8)
  /-- SBB r/m, r (R614) -/
  | sbbRmR (dst : RM Reg) (r : Reg)
  /-- SBB r8, r/m8 (R614) -/
  | sbbR8Rm8 (r : Reg8) (src : RM Reg8)
  /-- SBB r, r/m (R614) -/
  | sbbRRm (r : Reg) (src : RM Reg)
  /-- SBB AL, imm8 (R614) -/
  | sbbAlImm8 (imm : Byte)
  /-- SBB eAX, imm (R614) -/
  | sbbEaxImm (imm : Word)
  /-- AND r/m8, r8 (R615) -/
  | andRm8R8 (dst : RM Reg8) (r : Reg8)
  /-- AND r/m, r (R615) -/
  | andRmR (dst : RM Reg) (r : Reg)
  /-- AND r8, r/m8 (R615) -/
  | andR8Rm8 (r : Reg8) (src : RM Reg8)
  /-- AND r, r/m (R615) -/
  | andRRm (r : Reg) (src : RM Reg)
  /-- AND AL, imm8 (R615) -/
  | andAlImm8 (imm : Byte)
  /-- AND eAX, imm (R615) -/
  | andEaxImm (imm : Word)
  /-- SUB r/m8, r8 (R613) -/
  | subRm8R8 (dst : RM Reg8) (r : Reg8)
  /-- SUB r/m, r (R613) -/
  | subRmR (dst : RM Reg) (r : Reg)
  /-- SUB r8, r/m8 (R613) -/
  | subR8Rm8 (r : Reg8) (src : RM Reg8)
  /-- SUB r, r/m (R613) -/
  | subRRm (r : Reg) (src : RM Reg)
  /-- SUB AL, imm8 (R613) -/
  | subAlImm8 (imm : Byte)
  /-- SUB eAX, imm (R613) -/
  | subEaxImm (imm : Word)
  /-- XOR r/m8, r8 (R615) -/
  | xorRm8R8 (dst : RM Reg8) (r : Reg8)
  /-- XOR r/m, r (R615) -/
  | xorRmR (dst : RM Reg) (r : Reg)
  /-- XOR r8, r/m8 (R615) -/
  | xorR8Rm8 (r : Reg8) (src : RM Reg8)
  /-- XOR r, r/m (R615) -/
  | xorRRm (r : Reg) (src : RM Reg)
  /-- XOR AL, imm8 (R615) -/
  | xorAlImm8 (imm : Byte)
  /-- XOR eAX, imm (R615) -/
  | xorEaxImm (imm : Word)
  /-- CMP r/m8, r8 (R616) -/
  | cmpRm8R8 (dst : RM Reg8) (r : Reg8)
  /-- CMP r/m, r (R616) -/
  | cmpRmR (dst : RM Reg) (r : Reg)
  /-- CMP r8, r/m8 (R616) -/
  | cmpR8Rm8 (r : Reg8) (src : RM Reg8)
  /-- CMP r, r/m (R616) -/
  | cmpRRm (r : Reg) (src : RM Reg)
  /-- CMP AL, imm8 (R616) -/
  | cmpAlImm8 (imm : Byte)
  /-- CMP eAX, imm (R616) -/
  | cmpEaxImm (imm : Word)
  /-- TEST r/m8, r8 (R617) -/
  | testRm8R8 (dst : RM Reg8) (r : Reg8)
  /-- TEST r/m, r (R617) -/
  | testRmR (dst : RM Reg) (r : Reg)
  /-- TEST AL, imm8 (R617) -/
  | testAlImm8 (imm : Byte)
  /-- TEST eAX, imm (R617) -/
  | testEaxImm (imm : Word)
  /-- JMP rel8 (R630) -/
  | jmpRel8 (rel : Byte)
  /-- JMP rel32 (R630) -/
  | jmpRel32 (rel : Word)
  /-- JO rel8 (R631) -/
  | joRel8 (rel : Byte)
  /-- JNO rel8 (R631) -/
  | jnoRel8 (rel : Byte)
  /-- JB rel8 (R631) -/
  | jbRel8 (rel : Byte)
  /-- JAE rel8 (R631) -/
  | jaeRel8 (rel : Byte)
  /-- JE rel8 (R631) -/
  | jeRel8 (rel : Byte)
  /-- JNE rel8 (R631) -/
  | jneRel8 (rel : Byte)
  /-- JBE rel8 (R631) -/
  | jbeRel8 (rel : Byte)
  /-- JA rel8 (R631) -/
  | jaRel8 (rel : Byte)
  /-- JS rel8 (R631) -/
  | jsRel8 (rel : Byte)
  /-- JNS rel8 (R631) -/
  | jnsRel8 (rel : Byte)
  /-- JP rel8 (R631) -/
  | jpRel8 (rel : Byte)
  /-- JNP rel8 (R631) -/
  | jnpRel8 (rel : Byte)
  /-- JL rel8 (R631) -/
  | jlRel8 (rel : Byte)
  /-- JGE rel8 (R631) -/
  | jgeRel8 (rel : Byte)
  /-- JLE rel8 (R631) -/
  | jleRel8 (rel : Byte)
  /-- JG rel8 (R631) -/
  | jgRel8 (rel : Byte)
  /-- JECXZ rel8 (R631) -/
  | jecxzRel8 (rel : Byte)
  /-- CALL rel32 (R632) -/
  | callRel32 (rel : Word)
  /-- RET imm16 (R633) -/
  | retImm16 (imm : Half)
  /-- MOV r8, imm8 (R603) -/
  | movR8Imm8 (r : Reg8) (imm : Byte)
  /-- MOV r, imm (R603) -/
  | movRImm (r : Reg) (imm : Word)
  /-- XCHG eAX, r (R606) -/
  | xchgEaxR (r : Reg)
  /-- PUSH r (R607) -/
  | pushR (r : Reg)
  /-- POP r (R607) -/
  | popR (r : Reg)
  /-- INC r (R618) -/
  | incR (r : Reg)
  /-- DEC r (R618) -/
  | decR (r : Reg)
  /-- MONITOR (R382) -/
  | monitor
  /-- MWAIT (R383) -/
  | mwait
  /-- LFENCE (R361) -/
  | lfence
  /-- MFENCE (R362) -/
  | mfence
  /-- SFENCE (R360) -/
  | sfence
  /-- CLTS (R235) -/
  | clts
  /-- INVD (R366) -/
  | invd
  /-- WBINVD (R367) -/
  | wbinvd
  /-- UD2 (R209) -/
  | ud2
  /-- WRMSR (R239) -/
  | wrmsr
  /-- RDTSC (R240) -/
  | rdtsc
  /-- RDMSR (R238) -/
  | rdmsr
  /-- RDPMC (R241) -/
  | rdpmc
  /-- SYSENTER (R300) -/
  | sysenter
  /-- SYSEXIT (R301) -/
  | sysexit
  /-- CPUID (R243) -/
  | cpuid
  /-- RSM (R390) -/
  | rsm
  /-- PUSH FS (R607) -/
  | pushFs
  /-- PUSH GS (R607) -/
  | pushGs
  /-- POP FS (R607) -/
  | popFs
  /-- POP GS (R607) -/
  | popGs
  /-- PAUSE (R381) -/
  | pause
  /-- LOCK (R351) -/
  | lock
  /-- REPNE (R201) -/
  | repne
  /-- REP (R201) -/
  | rep
  /-- CS: (R201) -/
  | segCs
  /-- SS: (R201) -/
  | segSs
  /-- DS: (R201) -/
  | segDs
  /-- ES: (R201) -/
  | segEs
  /-- FS: (R201) -/
  | segFs
  /-- GS: (R201) -/
  | segGs
  /-- OPSIZE (R202) -/
  | opsize
  /-- ADDRSIZE (R202) -/
  | addrsize
  /-- RET far (R289) -/
  | retFar
  /-- INT 3 (R293) -/
  | int3
  /-- INTO (R294) -/
  | into
  /-- IRET (R296) -/
  | iret
  /-- PUSHF (R310) -/
  | pushf
  /-- POPF (R308) -/
  | popf
  /-- HLT (R378) -/
  | hlt
  /-- CLI (R306) -/
  | cli
  /-- STI (R307) -/
  | sti
  /-- NOP (R634) -/
  | nop
  /-- IN AL, DX (R608) -/
  | inAlDx
  /-- IN eAX, DX (R608) -/
  | inEaxDx
  /-- OUT DX, AL (R608) -/
  | outDxAl
  /-- OUT DX, eAX (R608) -/
  | outDxEax
  /-- PUSH ES (R607) -/
  | pushEs
  /-- PUSH CS (R607) -/
  | pushCs
  /-- PUSH SS (R607) -/
  | pushSs
  /-- PUSH DS (R607) -/
  | pushDs
  /-- POP ES (R607) -/
  | popEs
  /-- POP SS (R607) -/
  | popSs
  /-- POP DS (R607) -/
  | popDs
  /-- RET (R633) -/
  | ret
  deriving DecidableEq, Repr

end Sys2Proof
end

