-- ==== Sys2Proof/Machine/Bits.lean ====
section
/-! DEFINITION. Bit fields, byte order, sign extension, and the numbers encodings give to registers. -/
namespace Sys2Proof

/-- Little-endian value of a list of bytes (R83, D1). -/
def leNat : List Byte → Nat
  | [] => 0
  | b :: bs => b.toNat + 256 * leNat bs

/-- The `n` low bytes of a number, least significant first (R83, D1). -/
def leBytes : Nat → Nat → List Byte
  | 0, _ => []
  | n + 1, v => BitVec.ofNat 8 v :: leBytes n (v / 256)

/-- Little-endian 32-bit value. -/
def leWord (bs : List Byte) : Word := BitVec.ofNat 32 (leNat bs)

/-- Sign extension of a byte (R203, R205). -/
def sext8 (b : Byte) : Word := b.signExtend 32
/-- Sign extension of a 16-bit value. -/
def sext16 (h : Half) : Word := h.signExtend 32

/-- Bit `i` of a word. -/
def bit (w : Word) (i : Nat) : Bool := w.getLsbD i
/-- A word with bit `i` set to `b`. -/
def setBit (w : Word) (i : Nat) (b : Bool) : Word :=
  if b then w ||| (1#32 <<< i) else w &&& ~~~(1#32 <<< i)
/-- The field of width `n` at bit `lo`, as a number. -/
def field (w : Word) (lo n : Nat) : Nat := w.toNat / 2 ^ lo % 2 ^ n
/-- A flag as a number. -/
def b2n (b : Bool) : Nat := if b then 1 else 0

/-- Register number `n` of R203. -/
def Reg.ofNum : Nat → Reg
  | 0 => .eax | 1 => .ecx | 2 => .edx | 3 => .ebx | 4 => .esp | 5 => .ebp | 6 => .esi | _ => .edi
/-- The number of a register (R203). -/
def Reg.num : Reg → Nat
  | .eax => 0 | .ecx => 1 | .edx => 2 | .ebx => 3 | .esp => 4 | .ebp => 5 | .esi => 6 | .edi => 7
/-- Byte register number `n` of R203. -/
def Reg8.ofNum : Nat → Reg8
  | 0 => .al | 1 => .cl | 2 => .dl | 3 => .bl | 4 => .ah | 5 => .ch | 6 => .dh | _ => .bh
/-- The number of a byte register (R203). -/
def Reg8.num : Reg8 → Nat
  | .al => 0 | .cl => 1 | .dl => 2 | .bl => 3 | .ah => 4 | .ch => 5 | .dh => 6 | .bh => 7
/-- Segment register number `n` of R203; 6 and 7 name none. -/
def Seg.ofNum? : Nat → Option Seg
  | 0 => some .es | 1 => some .cs | 2 => some .ss | 3 => some .ds | 4 => some .fs | 5 => some .gs | _ => none
/-- The number of a segment register (R203). -/
def Seg.num : Seg → Nat
  | .es => 0 | .cs => 1 | .ss => 2 | .ds => 3 | .fs => 4 | .gs => 5
/-- Control register number `n` of R203; CR1 and 5 to 7 name none (R36, R209). -/
def CrN.ofNum? : Nat → Option CrN
  | 0 => some .cr0 | 2 => some .cr2 | 3 => some .cr3 | 4 => some .cr4 | _ => none
/-- The number of a control register (R203). -/
def CrN.num : CrN → Nat
  | .cr0 => 0 | .cr2 => 2 | .cr3 => 3 | .cr4 => 4
/-- Debug register number `n` (R236). -/
def DrN.ofNum : Nat → DrN
  | 0 => .dr0 | 1 => .dr1 | 2 => .dr2 | 3 => .dr3 | 4 => .dr4 | 5 => .dr5 | 6 => .dr6 | _ => .dr7
/-- The number of a debug register. -/
def DrN.num : DrN → Nat
  | .dr0 => 0 | .dr1 => 1 | .dr2 => 2 | .dr3 => 3 | .dr4 => 4 | .dr5 => 5 | .dr6 => 6 | .dr7 => 7
/-- Scale bits of a SIB byte (R204). -/
def Scale.ofNum : Nat → Scale
  | 0 => .x1 | 1 => .x2 | 2 => .x4 | _ => .x8
/-- The scale bits of a scale (R204). -/
def Scale.num : Scale → Nat
  | .x1 => 0 | .x2 => 1 | .x4 => 2 | .x8 => 3
/-- Base form `rm` of 16-bit addressing (R206). -/
def Base16.ofNum : Nat → Base16
  | 0 => .bxsi | 1 => .bxdi | 2 => .bpsi | 3 => .bpdi | 4 => .si | 5 => .di | 6 => .bp | _ => .bx
/-- The rm number of a 16-bit base form (R206). -/
def Base16.num : Base16 → Nat
  | .bxsi => 0 | .bxdi => 1 | .bpsi => 2 | .bpdi => 3 | .si => 4 | .di => 5 | .bp => 6 | .bx => 7

/-- Whether the operand size is 16 bits: D = 1 with the prefix 66H, or D = 0 without it (R202). -/
def DecodeCtx.osz16 (c : DecodeCtx) : Bool := c.d32 == c.pfx.opsize
/-- Whether the address size is 16 bits: D = 1 with the prefix 67H, or D = 0 without it (R202). -/
def DecodeCtx.asz16 (c : DecodeCtx) : Bool := c.d32 == c.pfx.addrsize

end Sys2Proof
end

