-- ==== Sys2Proof/WellFormed.lean ====
section
/-! DEFINITION. Which instructions an encoding can express, under a decode context (D flag and prefixes). -/
namespace Sys2Proof

/-- A memory operand fits the address size and has an encoding (R203, R204, R206): ESP is no plain base and no
index, EBP and BP bases carry a displacement. -/
def Mem.wf (a16 : Bool) : Mem → Bool
  | .abs32 _ => !a16
  | .base32 b d => !a16 && b != .esp && (b != .ebp || d != .none)
  | .sib b i d => !a16 && (b != .ebp || d != .none) && (match i with | some x => x.reg != .esp | none => true)
  | .sibAbs i _ => !a16 && (match i with | some x => x.reg != .esp | none => true)
  | .abs16 _ => a16
  | .base16 b d => a16 && (b != .bp || d != .none)

/-- An r/m operand fits the address size. -/
def RM.wf {ρ : Type} (a16 : Bool) : RM ρ → Bool
  | .reg _ => true
  | .mem m => m.wf a16

/-- A word that a 16-bit form can carry: its upper half is 0 when the size is 16 bits (R202, R205). -/
def fits16 (is16 : Bool) (w : Word) : Bool := !is16 || decide (w.toNat < 65536)

/-- An instruction has an encoding under a decode context: its memory operand, immediate, displacement and
offset fit the operand and address size. `XCHG eAX, eAX` has none (90H is NOP), and PAUSE needs the prefix F3H,
which NOP excludes (R216). -/
def Instr.wf (c : DecodeCtx) : Instr → Bool
  | .monitor => true
  | .mwait => true
  | .lfence => true
  | .mfence => true
  | .sfence => true
  | .sldt rm => rm.wf c.asz16
  | .str rm => rm.wf c.asz16
  | .lldt rm => rm.wf c.asz16
  | .ltr rm => rm.wf c.asz16
  | .verr rm => rm.wf c.asz16
  | .verw rm => rm.wf c.asz16
  | .sgdt m => m.wf c.asz16
  | .sidt m => m.wf c.asz16
  | .lgdt m => m.wf c.asz16
  | .lidt m => m.wf c.asz16
  | .smsw rm => rm.wf c.asz16
  | .lmsw rm => rm.wf c.asz16
  | .invlpg m => m.wf c.asz16
  | .fxsave m => m.wf c.asz16
  | .fxrstor m => m.wf c.asz16
  | .ldmxcsr m => m.wf c.asz16
  | .stmxcsr m => m.wf c.asz16
  | .clflush m => m.wf c.asz16
  | .cmpxchg8b m => m.wf c.asz16
  | .btRmImm8 rm _ => rm.wf c.asz16
  | .btsRmImm8 rm _ => rm.wf c.asz16
  | .btrRmImm8 rm _ => rm.wf c.asz16
  | .btcRmImm8 rm _ => rm.wf c.asz16
  | .lar _ src => src.wf c.asz16
  | .lsl _ src => src.wf c.asz16
  | .clts => true
  | .invd => true
  | .wbinvd => true
  | .ud2 => true
  | .movR32Crn _ _ => true
  | .movR32Drn _ _ => true
  | .movCrnR32 _ _ => true
  | .movDrnR32 _ _ => true
  | .wrmsr => true
  | .rdtsc => true
  | .rdmsr => true
  | .rdpmc => true
  | .sysenter => true
  | .sysexit => true
  | .cpuid => true
  | .rsm => true
  | .movnti m _ => m.wf c.asz16
  | .pushFs => true
  | .pushGs => true
  | .popFs => true
  | .popGs => true
  | .xaddRm8R8 dst _ => dst.wf c.asz16
  | .xaddRmR dst _ => dst.wf c.asz16
  | .cmpxchgRm8R8 dst _ => dst.wf c.asz16
  | .cmpxchgRmR dst _ => dst.wf c.asz16
  | .btRmR dst _ => dst.wf c.asz16
  | .btsRmR dst _ => dst.wf c.asz16
  | .btrRmR dst _ => dst.wf c.asz16
  | .btcRmR dst _ => dst.wf c.asz16
  | .joRel32 rel => fits16 c.osz16 rel
  | .jnoRel32 rel => fits16 c.osz16 rel
  | .jbRel32 rel => fits16 c.osz16 rel
  | .jaeRel32 rel => fits16 c.osz16 rel
  | .jeRel32 rel => fits16 c.osz16 rel
  | .jneRel32 rel => fits16 c.osz16 rel
  | .jbeRel32 rel => fits16 c.osz16 rel
  | .jaRel32 rel => fits16 c.osz16 rel
  | .jsRel32 rel => fits16 c.osz16 rel
  | .jnsRel32 rel => fits16 c.osz16 rel
  | .jpRel32 rel => fits16 c.osz16 rel
  | .jnpRel32 rel => fits16 c.osz16 rel
  | .jlRel32 rel => fits16 c.osz16 rel
  | .jgeRel32 rel => fits16 c.osz16 rel
  | .jleRel32 rel => fits16 c.osz16 rel
  | .jgRel32 rel => fits16 c.osz16 rel
  | .callM1632 m => m.wf c.asz16
  | .jmpM1632 m => m.wf c.asz16
  | .movRm8Imm8 rm _ => rm.wf c.asz16
  | .movRmImm rm imm => rm.wf c.asz16 && fits16 c.osz16 imm
  | .pushRm rm => rm.wf c.asz16
  | .popRm rm => rm.wf c.asz16
  | .addRm8Imm8 rm _ => rm.wf c.asz16
  | .addRmImm rm imm => rm.wf c.asz16 && fits16 c.osz16 imm
  | .addRmImm8 rm _ => rm.wf c.asz16
  | .orRm8Imm8 rm _ => rm.wf c.asz16
  | .orRmImm rm imm => rm.wf c.asz16 && fits16 c.osz16 imm
  | .orRmImm8 rm _ => rm.wf c.asz16
  | .adcRm8Imm8 rm _ => rm.wf c.asz16
  | .adcRmImm rm imm => rm.wf c.asz16 && fits16 c.osz16 imm
  | .adcRmImm8 rm _ => rm.wf c.asz16
  | .sbbRm8Imm8 rm _ => rm.wf c.asz16
  | .sbbRmImm rm imm => rm.wf c.asz16 && fits16 c.osz16 imm
  | .sbbRmImm8 rm _ => rm.wf c.asz16
  | .andRm8Imm8 rm _ => rm.wf c.asz16
  | .andRmImm rm imm => rm.wf c.asz16 && fits16 c.osz16 imm
  | .andRmImm8 rm _ => rm.wf c.asz16
  | .subRm8Imm8 rm _ => rm.wf c.asz16
  | .subRmImm rm imm => rm.wf c.asz16 && fits16 c.osz16 imm
  | .subRmImm8 rm _ => rm.wf c.asz16
  | .xorRm8Imm8 rm _ => rm.wf c.asz16
  | .xorRmImm rm imm => rm.wf c.asz16 && fits16 c.osz16 imm
  | .xorRmImm8 rm _ => rm.wf c.asz16
  | .cmpRm8Imm8 rm _ => rm.wf c.asz16
  | .cmpRmImm rm imm => rm.wf c.asz16 && fits16 c.osz16 imm
  | .cmpRmImm8 rm _ => rm.wf c.asz16
  | .testRm8Imm8 rm _ => rm.wf c.asz16
  | .testRmImm rm imm => rm.wf c.asz16 && fits16 c.osz16 imm
  | .incRm8 rm => rm.wf c.asz16
  | .incRm rm => rm.wf c.asz16
  | .decRm8 rm => rm.wf c.asz16
  | .decRm rm => rm.wf c.asz16
  | .notRm8 rm => rm.wf c.asz16
  | .notRm rm => rm.wf c.asz16
  | .negRm8 rm => rm.wf c.asz16
  | .negRm rm => rm.wf c.asz16
  | .jmpRm32 rm => rm.wf c.asz16
  | .callRm32 rm => rm.wf c.asz16
  | .pause => c.pfx.rep == some .rep
  | .lock => true
  | .repne => true
  | .rep => true
  | .segCs => true
  | .segSs => true
  | .segDs => true
  | .segEs => true
  | .segFs => true
  | .segGs => true
  | .opsize => true
  | .addrsize => true
  | .bound _ m => m.wf c.asz16
  | .arpl dst _ => dst.wf c.asz16
  | .movRmSreg dst _ => dst.wf c.asz16
  | .movSregRm16 _ src => src.wf c.asz16
  | .callPtr1632 _ off => fits16 c.osz16 off
  | .jmpPtr1632 _ off => fits16 c.osz16 off
  | .retFar => true
  | .retFarImm16 _ => true
  | .int3 => true
  | .intImm8 _ => true
  | .into => true
  | .iret => true
  | .pushf => true
  | .popf => true
  | .hlt => true
  | .cli => true
  | .sti => true
  | .nop => c.pfx.rep != some .rep
  | .inAlImm8 _ => true
  | .inEaxImm8 _ => true
  | .inAlDx => true
  | .inEaxDx => true
  | .outImm8Al _ => true
  | .outImm8Eax _ => true
  | .outDxAl => true
  | .outDxEax => true
  | .movRm8R8 dst _ => dst.wf c.asz16
  | .movRmR dst _ => dst.wf c.asz16
  | .movR8Rm8 _ src => src.wf c.asz16
  | .movRRm _ src => src.wf c.asz16
  | .movAlMoffs8 off => fits16 c.asz16 off
  | .movEaxMoffs off => fits16 c.asz16 off
  | .movMoffs8Al off => fits16 c.asz16 off
  | .movMoffsEax off => fits16 c.asz16 off
  | .lea _ m => m.wf c.asz16
  | .xchgRm8R8 dst _ => dst.wf c.asz16
  | .xchgRmR dst _ => dst.wf c.asz16
  | .pushImm8 _ => true
  | .pushImm32 imm => fits16 c.osz16 imm
  | .pushEs => true
  | .pushCs => true
  | .pushSs => true
  | .pushDs => true
  | .popEs => true
  | .popSs => true
  | .popDs => true
  | .addRm8R8 dst _ => dst.wf c.asz16
  | .addRmR dst _ => dst.wf c.asz16
  | .addR8Rm8 _ src => src.wf c.asz16
  | .addRRm _ src => src.wf c.asz16
  | .addAlImm8 _ => true
  | .addEaxImm imm => fits16 c.osz16 imm
  | .orRm8R8 dst _ => dst.wf c.asz16
  | .orRmR dst _ => dst.wf c.asz16
  | .orR8Rm8 _ src => src.wf c.asz16
  | .orRRm _ src => src.wf c.asz16
  | .orAlImm8 _ => true
  | .orEaxImm imm => fits16 c.osz16 imm
  | .adcRm8R8 dst _ => dst.wf c.asz16
  | .adcRmR dst _ => dst.wf c.asz16
  | .adcR8Rm8 _ src => src.wf c.asz16
  | .adcRRm _ src => src.wf c.asz16
  | .adcAlImm8 _ => true
  | .adcEaxImm imm => fits16 c.osz16 imm
  | .sbbRm8R8 dst _ => dst.wf c.asz16
  | .sbbRmR dst _ => dst.wf c.asz16
  | .sbbR8Rm8 _ src => src.wf c.asz16
  | .sbbRRm _ src => src.wf c.asz16
  | .sbbAlImm8 _ => true
  | .sbbEaxImm imm => fits16 c.osz16 imm
  | .andRm8R8 dst _ => dst.wf c.asz16
  | .andRmR dst _ => dst.wf c.asz16
  | .andR8Rm8 _ src => src.wf c.asz16
  | .andRRm _ src => src.wf c.asz16
  | .andAlImm8 _ => true
  | .andEaxImm imm => fits16 c.osz16 imm
  | .subRm8R8 dst _ => dst.wf c.asz16
  | .subRmR dst _ => dst.wf c.asz16
  | .subR8Rm8 _ src => src.wf c.asz16
  | .subRRm _ src => src.wf c.asz16
  | .subAlImm8 _ => true
  | .subEaxImm imm => fits16 c.osz16 imm
  | .xorRm8R8 dst _ => dst.wf c.asz16
  | .xorRmR dst _ => dst.wf c.asz16
  | .xorR8Rm8 _ src => src.wf c.asz16
  | .xorRRm _ src => src.wf c.asz16
  | .xorAlImm8 _ => true
  | .xorEaxImm imm => fits16 c.osz16 imm
  | .cmpRm8R8 dst _ => dst.wf c.asz16
  | .cmpRmR dst _ => dst.wf c.asz16
  | .cmpR8Rm8 _ src => src.wf c.asz16
  | .cmpRRm _ src => src.wf c.asz16
  | .cmpAlImm8 _ => true
  | .cmpEaxImm imm => fits16 c.osz16 imm
  | .testRm8R8 dst _ => dst.wf c.asz16
  | .testRmR dst _ => dst.wf c.asz16
  | .testAlImm8 _ => true
  | .testEaxImm imm => fits16 c.osz16 imm
  | .jmpRel8 _ => true
  | .jmpRel32 rel => fits16 c.osz16 rel
  | .joRel8 _ => true
  | .jnoRel8 _ => true
  | .jbRel8 _ => true
  | .jaeRel8 _ => true
  | .jeRel8 _ => true
  | .jneRel8 _ => true
  | .jbeRel8 _ => true
  | .jaRel8 _ => true
  | .jsRel8 _ => true
  | .jnsRel8 _ => true
  | .jpRel8 _ => true
  | .jnpRel8 _ => true
  | .jlRel8 _ => true
  | .jgeRel8 _ => true
  | .jleRel8 _ => true
  | .jgRel8 _ => true
  | .jecxzRel8 _ => true
  | .callRel32 rel => fits16 c.osz16 rel
  | .ret => true
  | .retImm16 _ => true
  | .movR8Imm8 _ _ => true
  | .movRImm _ imm => fits16 c.osz16 imm
  | .xchgEaxR r => r != .eax
  | .pushR _ => true
  | .popR _ => true
  | .incR _ => true
  | .decR _ => true

end Sys2Proof
end

