-- ==== Sys2Proof/Decode.lean ====
section
/-! DEFINITION. The decoder (total on any bytes) and the encoder, both from the encoding tables of
spec/30_encoding.md (R201 to R213), spec/45_general_subset.md and spec/opcode_table.json. -/
namespace Sys2Proof

/-- The opcodes outside the spec's tables that belong to the floating-point and SIMD units (R212, D4), by the extension
whose absence makes them invalid (R436; the ranges are PRESUMED, log 17). -/
inductive FpuClass where
  | x87 | wait | mmx | sse | sse2 | sse3
  deriving DecidableEq, Repr

/-- What the decoder makes of the bytes at the instruction pointer: one item (a prefix or an instruction) and the
bytes after it; more bytes are needed; no instruction (#UD, R209); a floating-point or SIMD opcode. -/
inductive Decoded where
  | instr (i : Instr) (rest : List Byte)
  | needMore
  | invalid
  | fpu (k : FpuClass)
  deriving DecidableEq, Repr

/-- What follows a ModRM byte and its displacement. -/
inductive RmTail where
  | done (i : Instr)
  | imm8 (f : Byte → Instr)
  | immZ (f : Word → Instr)
  | invalid
  | fpu (k : FpuClass)

/-- What follows an opcode. -/
inductive Tail where
  | bare (i : Instr)
  | imm8 (f : Byte → Instr)
  | imm16 (f : Half → Instr)
  | immZ (f : Word → Instr)
  | moffs (f : Word → Instr)
  | ptr (f : Half → Word → Instr)
  /-- ModRM: the reg field and the r/m operand -/
  | modrm (f : Nat → RM Nat → RmTail)
  /-- ModRM whose mod field is ignored and treated as 3 -/
  | modrmReg (f : Nat → Nat → RmTail)
  | invalid
  | fpu (k : FpuClass)

/-- The r/m operand with a register of operand size. -/
def toRM : RM Nat → RM Reg
  | .reg n => .reg (Reg.ofNum n)
  | .mem m => .mem m
/-- The r/m operand with a byte register. -/
def toRM8 : RM Nat → RM Reg8
  | .reg n => .reg (Reg8.ofNum n)
  | .mem m => .mem m
/-- Memory operand only: mod = 3 is #UD (R209). -/
def memOnly (f : Mem → Instr) : RM Nat → RmTail
  | .mem m => .done (f m)
  | .reg _ => .invalid

/-- The first `n` bytes and the rest, if there are that many. -/
def takeBytes : Nat → List Byte → Option (List Byte × List Byte)
  | 0, bs => some ([], bs)
  | _ + 1, [] => none
  | n + 1, b :: bs =>
    match takeBytes n bs with
    | some (xs, rest) => some (b :: xs, rest)
    | none => none

/-- A 32-bit displacement by `mod` (R203): none, disp8, disp32. -/
def dispOf (mod : Nat) (bs : List Byte) : Option (Disp32 × List Byte) :=
  match mod with
  | 1 => (takeBytes 1 bs).map fun (x, r) => (.d8 (BitVec.ofNat 8 (leNat x)), r)
  | 2 => (takeBytes 4 bs).map fun (x, r) => (.d32 (leWord x), r)
  | _ => some (.none, bs)

/-- The index field of a SIB byte: 4 names no index (R204). -/
def indexOf (scale idx : Nat) : Option Index :=
  if idx = 4 then none else some ⟨Reg.ofNum idx, Scale.ofNum scale⟩

/-- The memory operand of a ModRM byte with 32-bit addressing (R203, R204). -/
def decodeMem32 (mod rm : Nat) (bs : List Byte) : Option (Mem × List Byte) :=
  if rm = 4 then
    match bs with
    | [] => none
    | sb :: bs =>
      let x := indexOf (sb.toNat / 64) (sb.toNat / 8 % 8)
      if sb.toNat % 8 = 5 ∧ mod = 0 then
        (takeBytes 4 bs).map fun (d, r) => (.sibAbs x (leWord d), r)
      else
        (dispOf mod bs).map fun (d, r) => (.sib (Reg.ofNum (sb.toNat % 8)) x d, r)
  else if rm = 5 ∧ mod = 0 then
    (takeBytes 4 bs).map fun (d, r) => (.abs32 (leWord d), r)
  else
    (dispOf mod bs).map fun (d, r) => (.base32 (Reg.ofNum rm) d, r)

/-- The memory operand of a ModRM byte with 16-bit addressing (R206). -/
def decodeMem16 (mod rm : Nat) (bs : List Byte) : Option (Mem × List Byte) :=
  if rm = 6 ∧ mod = 0 then
    (takeBytes 2 bs).map fun (d, r) => (.abs16 (BitVec.ofNat 16 (leNat d)), r)
  else
    match mod with
    | 1 => (takeBytes 1 bs).map fun (x, r) => (.base16 (Base16.ofNum rm) (.d8 (BitVec.ofNat 8 (leNat x))), r)
    | 2 => (takeBytes 2 bs).map fun (x, r) => (.base16 (Base16.ofNum rm) (.d16 (BitVec.ofNat 16 (leNat x))), r)
    | _ => some (.base16 (Base16.ofNum rm) .none, bs)

/-- The r/m operand of a ModRM byte. -/
def decodeRM (a16 : Bool) (modrm : Nat) (bs : List Byte) : Option (RM Nat × List Byte) :=
  if modrm / 64 = 3 then some (.reg (modrm % 8), bs)
  else
    (if a16 then decodeMem16 (modrm / 64) (modrm % 8) bs else decodeMem32 (modrm / 64) (modrm % 8) bs).map
      fun (m, r) => (.mem m, r)

/-- An immediate of `n` bytes, zero-extended to 32 bits. -/
def finishImm (n : Nat) (f : Word → Instr) (bs : List Byte) : Decoded :=
  match takeBytes n bs with
  | some (x, r) => .instr (f (leWord x)) r
  | none => .needMore

/-- A one-byte immediate. -/
def finishImm8 (f : Byte → Instr) : List Byte → Decoded
  | b :: r => .instr (f b) r
  | [] => .needMore

/-- The bytes of an operand-size immediate (R205). -/
def immBytes (is16 : Bool) : Nat := if is16 then 2 else 4

/-- Completes an instruction after its ModRM byte and displacement. -/
def finishRm (c : DecodeCtx) (t : RmTail) (bs : List Byte) : Decoded :=
  match t with
  | .done i => .instr i bs
  | .imm8 f => finishImm8 f bs
  | .immZ f => finishImm (immBytes c.osz16) f bs
  | .invalid => .invalid
  | .fpu k => .fpu k

/-- Completes an instruction after its opcode. A memory offset (A0H to A3H) is as long as an address, 2 bytes with a 16-bit
one; a rel32 displacement (E8H, E9H, 0FH 80H to 8FH) and the offset of a direct far pointer (9AH, EAH) have 2 bytes with a
16-bit operand size (PRESUMED, the family's, log 9; R205 gives the 4 bytes). Of a floating-point or SIMD instruction the bytes
after the opcode are not asked for: the spec gives it no length (DESIGN CHOICE, log 17). Nor are those after an opcode that is
in no table; where the ModRM byte is what names no row, its SIB byte and displacement are asked for and no immediate is: R207
and R209 give such bytes no length (DESIGN CHOICE, log 7). -/
def finishTail (c : DecodeCtx) (t : Tail) (bs : List Byte) : Decoded :=
  match t with
  | .bare i => .instr i bs
  | .imm8 f => finishImm8 f bs
  | .imm16 f => finishImm 2 (fun w => f (w.setWidth 16)) bs
  | .immZ f => finishImm (immBytes c.osz16) f bs
  | .moffs f => finishImm (immBytes c.asz16) f bs
  | .ptr f =>
    match takeBytes (immBytes c.osz16) bs with
    | some (o, r) => finishImm 2 (fun w => f (w.setWidth 16) (leWord o)) r
    | none => .needMore
  | .modrm f =>
    match bs with
    | [] => .needMore
    | b :: r =>
      match decodeRM c.asz16 b.toNat r with
      | some (rm, r') => finishRm c (f (b.toNat / 8 % 8) rm) r'
      | none => .needMore
  | .modrmReg f =>
    match bs with
    | [] => .needMore
    | b :: r => finishRm c (f (b.toNat / 8 % 8) (b.toNat % 8)) r
  | .invalid => .invalid
  | .fpu k => .fpu k

/-- The six forms of a two-operand ALU operation, opcodes 8k to 8k + 5 (R610). -/
def aluTails (f0 : RM Reg8 → Reg8 → Instr) (f1 : RM Reg → Reg → Instr) (f2 : Reg8 → RM Reg8 → Instr)
    (f3 : Reg → RM Reg → Instr) (f4 : Byte → Instr) (f5 : Word → Instr) : List Tail :=
  [.modrm fun g m => .done (f0 (toRM8 m) (Reg8.ofNum g)),
   .modrm fun g m => .done (f1 (toRM m) (Reg.ofNum g)),
   .modrm fun g m => .done (f2 (Reg8.ofNum g) (toRM8 m)),
   .modrm fun g m => .done (f3 (Reg.ofNum g) (toRM m)),
   .imm8 f4,
   .immZ f5]

/-- A form with an r/m and a register operand of operand size. -/
def rmR (f : RM Reg → Reg → Instr) : Tail := .modrm fun g m => .done (f (toRM m) (Reg.ofNum g))
/-- A form with a register and an r/m operand of operand size. -/
def rRm (f : Reg → RM Reg → Instr) : Tail := .modrm fun g m => .done (f (Reg.ofNum g) (toRM m))
/-- A form with byte r/m and register operands. -/
def rmR8 (f : RM Reg8 → Reg8 → Instr) : Tail := .modrm fun g m => .done (f (toRM8 m) (Reg8.ofNum g))
/-- A form with byte register and r/m operands. -/
def rRm8 (f : Reg8 → RM Reg8 → Instr) : Tail := .modrm fun g m => .done (f (Reg8.ofNum g) (toRM8 m))

/-- Group 80 (R610): byte operand, byte immediate. -/
def group80 (g : Nat) (m : RM Nat) : RmTail :=
  match g with
  | 0 => .imm8 (.addRm8Imm8 (toRM8 m))
  | 1 => .imm8 (.orRm8Imm8 (toRM8 m))
  | 2 => .imm8 (.adcRm8Imm8 (toRM8 m))
  | 3 => .imm8 (.sbbRm8Imm8 (toRM8 m))
  | 4 => .imm8 (.andRm8Imm8 (toRM8 m))
  | 5 => .imm8 (.subRm8Imm8 (toRM8 m))
  | 6 => .imm8 (.xorRm8Imm8 (toRM8 m))
  | _ => .imm8 (.cmpRm8Imm8 (toRM8 m))

/-- Group 81 (R610): operand of operand size, immediate of operand size. -/
def group81 (g : Nat) (m : RM Nat) : RmTail :=
  match g with
  | 0 => .immZ (.addRmImm (toRM m))
  | 1 => .immZ (.orRmImm (toRM m))
  | 2 => .immZ (.adcRmImm (toRM m))
  | 3 => .immZ (.sbbRmImm (toRM m))
  | 4 => .immZ (.andRmImm (toRM m))
  | 5 => .immZ (.subRmImm (toRM m))
  | 6 => .immZ (.xorRmImm (toRM m))
  | _ => .immZ (.cmpRmImm (toRM m))

/-- Group 83 (R610): operand of operand size, sign-extended byte immediate. -/
def group83 (g : Nat) (m : RM Nat) : RmTail :=
  match g with
  | 0 => .imm8 (.addRmImm8 (toRM m))
  | 1 => .imm8 (.orRmImm8 (toRM m))
  | 2 => .imm8 (.adcRmImm8 (toRM m))
  | 3 => .imm8 (.sbbRmImm8 (toRM m))
  | 4 => .imm8 (.andRmImm8 (toRM m))
  | 5 => .imm8 (.subRmImm8 (toRM m))
  | 6 => .imm8 (.xorRmImm8 (toRM m))
  | _ => .imm8 (.cmpRmImm8 (toRM m))

/-- Group F6: TEST, NOT, NEG on bytes (R617, R619); MUL, DIV and their kin are not in the table (#UD, R209). -/
def groupF6 (g : Nat) (m : RM Nat) : RmTail :=
  match g with
  | 0 => .imm8 (.testRm8Imm8 (toRM8 m))
  | 2 => .done (.notRm8 (toRM8 m))
  | 3 => .done (.negRm8 (toRM8 m))
  | _ => .invalid

/-- Group F7 (R617, R619). -/
def groupF7 (g : Nat) (m : RM Nat) : RmTail :=
  match g with
  | 0 => .immZ (.testRmImm (toRM m))
  | 2 => .done (.notRm (toRM m))
  | 3 => .done (.negRm (toRM m))
  | _ => .invalid

/-- Group FE (R618). -/
def groupFE (g : Nat) (m : RM Nat) : RmTail :=
  match g with
  | 0 => .done (.incRm8 (toRM8 m))
  | 1 => .done (.decRm8 (toRM8 m))
  | _ => .invalid

/-- Group FF (R607, R618, R630, R632, R282, R283). -/
def groupFF (g : Nat) (m : RM Nat) : RmTail :=
  match g with
  | 0 => .done (.incRm (toRM m))
  | 1 => .done (.decRm (toRM m))
  | 2 => .done (.callRm32 (toRM m))
  | 3 => memOnly .callM1632 m
  | 4 => .done (.jmpRm32 (toRM m))
  | 5 => memOnly .jmpM1632 m
  | 6 => .done (.pushRm (toRM m))
  | _ => .invalid

/-- Group 0F 00 (R210). -/
def group0F00 (g : Nat) (m : RM Nat) : RmTail :=
  match g with
  | 0 => .done (.sldt (toRM m))
  | 1 => .done (.str (toRM m))
  | 2 => .done (.lldt (toRM m))
  | 3 => .done (.ltr (toRM m))
  | 4 => .done (.verr (toRM m))
  | 5 => .done (.verw (toRM m))
  | _ => .invalid

/-- Group 0F 01 (R211). -/
def group0F01 (g : Nat) (m : RM Nat) : RmTail :=
  match g with
  | 0 => memOnly .sgdt m
  | 1 =>
    match m with
    | .mem x => .done (.sidt x)
    | .reg 0 => .done .monitor
    | .reg 1 => .done .mwait
    | .reg _ => .invalid
  | 2 => memOnly .lgdt m
  | 3 => memOnly .lidt m
  | 4 => .done (.smsw (toRM m))
  | 6 => .done (.lmsw (toRM m))
  | 7 => memOnly .invlpg m
  | _ => .invalid

/-- Group 0F AE (R212). -/
def group0FAE (g : Nat) (m : RM Nat) : RmTail :=
  match m with
  | .mem x =>
    match g with
    | 0 => .done (.fxsave x)
    | 1 => .done (.fxrstor x)
    | 2 => .done (.ldmxcsr x)
    | 3 => .done (.stmxcsr x)
    | 7 => .done (.clflush x)
    | _ => .invalid
  | .reg _ =>
    match g with
    | 5 => .done .lfence
    | 6 => .done .mfence
    | 7 => .done .sfence
    | _ => .invalid

/-- Group 0F BA (R623). -/
def group0FBA (g : Nat) (m : RM Nat) : RmTail :=
  match g with
  | 4 => .imm8 (.btRmImm8 (toRM m))
  | 5 => .imm8 (.btsRmImm8 (toRM m))
  | 6 => .imm8 (.btrRmImm8 (toRM m))
  | 7 => .imm8 (.btcRmImm8 (toRM m))
  | _ => .invalid

/-- MOV to and from control registers: the register must exist (R209, R213). -/
def crTail (f : CrN → Nat → Instr) (g r : Nat) : RmTail :=
  match CrN.ofNum? g with
  | some c => .done (f c r)
  | none => .invalid

/-- MOV to and from segment registers: the register must exist (R209). -/
def sregTail (f : Seg → RM Reg → Instr) (g : Nat) (m : RM Nat) : RmTail :=
  match Seg.ofNum? g with
  | some x => .done (f x (toRM m))
  | none => .invalid

/-- A SIMD opcode by its prefix: none, 66H, F3H, F2H (PRESUMED, log 17). -/
def simdTail (c : DecodeCtx) (none opsize rep repne : FpuClass) : Tail :=
  .fpu (match c.pfx.rep with
    | some .rep => rep
    | some .repne => repne
    | Option.none => if c.pfx.opsize then opsize else none)

/-- An MMX opcode; with a prefix 66H, F2H or F3H it came with SSE2 (PRESUMED, log 17). -/
def mmxTail (c : DecodeCtx) : Tail := simdTail c .mmx .sse2 .sse2 .sse2
/-- An SSE opcode on MMX registers; with a prefix it came with SSE2 (PRESUMED, log 17). -/
def mmxSseTail (c : DecodeCtx) : Tail := simdTail c .sse .sse2 .sse2 .sse2
/-- An opcode on single-precision numbers; with 66H or F2H, on double-precision numbers (PRESUMED, log 17). -/
def sseTail (c : DecodeCtx) : Tail := simdTail c .sse .sse2 .sse .sse2
/-- The moves that duplicate elements with F3H or F2H came with SSE3 (PRESUMED, log 17). -/
def dupTail (c : DecodeCtx) : Tail := simdTail c .sse .sse2 .sse3 .sse3

/-- The one-byte opcodes, sixteen rows of sixteen (R213, R603 to R634, opcode_table.json). -/
def opcodeMap (c : DecodeCtx) : List (List Tail) :=
  [aluTails .addRm8R8 .addRmR .addR8Rm8 .addRRm .addAlImm8 .addEaxImm ++ [.bare .pushEs, .bare .popEs] ++
    aluTails .orRm8R8 .orRmR .orR8Rm8 .orRRm .orAlImm8 .orEaxImm ++ [.bare .pushCs, .invalid],
   aluTails .adcRm8R8 .adcRmR .adcR8Rm8 .adcRRm .adcAlImm8 .adcEaxImm ++ [.bare .pushSs, .bare .popSs] ++
    aluTails .sbbRm8R8 .sbbRmR .sbbR8Rm8 .sbbRRm .sbbAlImm8 .sbbEaxImm ++ [.bare .pushDs, .bare .popDs],
   aluTails .andRm8R8 .andRmR .andR8Rm8 .andRRm .andAlImm8 .andEaxImm ++ [.bare .segEs, .invalid] ++
    aluTails .subRm8R8 .subRmR .subR8Rm8 .subRRm .subAlImm8 .subEaxImm ++ [.bare .segCs, .invalid],
   aluTails .xorRm8R8 .xorRmR .xorR8Rm8 .xorRRm .xorAlImm8 .xorEaxImm ++ [.bare .segSs, .invalid] ++
    aluTails .cmpRm8R8 .cmpRmR .cmpR8Rm8 .cmpRRm .cmpAlImm8 .cmpEaxImm ++ [.bare .segDs, .invalid],
   [.bare (.incR .eax), .bare (.incR .ecx), .bare (.incR .edx), .bare (.incR .ebx), .bare (.incR .esp), .bare (.incR .ebp), .bare (.incR .esi), .bare (.incR .edi), .bare (.decR .eax), .bare (.decR .ecx), .bare (.decR .edx), .bare (.decR .ebx), .bare (.decR .esp), .bare (.decR .ebp), .bare (.decR .esi), .bare (.decR .edi)],
   [.bare (.pushR .eax), .bare (.pushR .ecx), .bare (.pushR .edx), .bare (.pushR .ebx), .bare (.pushR .esp), .bare (.pushR .ebp), .bare (.pushR .esi), .bare (.pushR .edi), .bare (.popR .eax), .bare (.popR .ecx), .bare (.popR .edx), .bare (.popR .ebx), .bare (.popR .esp), .bare (.popR .ebp), .bare (.popR .esi), .bare (.popR .edi)],
   [.invalid, .invalid, .modrm fun g m => memOnly (.bound (Reg.ofNum g)) m, rmR .arpl, .bare .segFs, .bare .segGs, .bare .opsize, .bare .addrsize,
    .immZ .pushImm32, .invalid, .imm8 .pushImm8, .invalid, .invalid, .invalid, .invalid, .invalid],
   [.imm8 .joRel8, .imm8 .jnoRel8, .imm8 .jbRel8, .imm8 .jaeRel8, .imm8 .jeRel8, .imm8 .jneRel8, .imm8 .jbeRel8, .imm8 .jaRel8, .imm8 .jsRel8, .imm8 .jnsRel8, .imm8 .jpRel8, .imm8 .jnpRel8, .imm8 .jlRel8, .imm8 .jgeRel8, .imm8 .jleRel8, .imm8 .jgRel8],
   [.modrm group80, .modrm group81, .invalid, .modrm group83, rmR8 .testRm8R8, rmR .testRmR, rmR8 .xchgRm8R8, rmR .xchgRmR,
    rmR8 .movRm8R8, rmR .movRmR, rRm8 .movR8Rm8, rRm .movRRm, .modrm (sregTail fun x m => .movRmSreg m x), .modrm fun g m => memOnly (.lea (Reg.ofNum g)) m,
    .modrm (sregTail .movSregRm16), .modrm fun g m => if g = 0 then .done (.popRm (toRM m)) else .invalid],
   [.bare (if c.pfx.rep = some .rep then .pause else .nop), .bare (.xchgEaxR .ecx), .bare (.xchgEaxR .edx), .bare (.xchgEaxR .ebx), .bare (.xchgEaxR .esp), .bare (.xchgEaxR .ebp), .bare (.xchgEaxR .esi), .bare (.xchgEaxR .edi),
    .invalid, .invalid, .ptr .callPtr1632, .fpu .wait, .bare .pushf, .bare .popf, .invalid, .invalid],
   [.moffs .movAlMoffs8, .moffs .movEaxMoffs, .moffs .movMoffs8Al, .moffs .movMoffsEax, .invalid, .invalid, .invalid, .invalid,
    .imm8 .testAlImm8, .immZ .testEaxImm, .invalid, .invalid, .invalid, .invalid, .invalid, .invalid],
   [.imm8 (.movR8Imm8 .al), .imm8 (.movR8Imm8 .cl), .imm8 (.movR8Imm8 .dl), .imm8 (.movR8Imm8 .bl), .imm8 (.movR8Imm8 .ah), .imm8 (.movR8Imm8 .ch), .imm8 (.movR8Imm8 .dh), .imm8 (.movR8Imm8 .bh), .immZ (.movRImm .eax), .immZ (.movRImm .ecx), .immZ (.movRImm .edx), .immZ (.movRImm .ebx), .immZ (.movRImm .esp), .immZ (.movRImm .ebp), .immZ (.movRImm .esi), .immZ (.movRImm .edi)],
   [.invalid, .invalid, .imm16 .retImm16, .bare .ret, .invalid, .invalid,
    .modrm fun g m => if g = 0 then .imm8 (.movRm8Imm8 (toRM8 m)) else .invalid, .modrm fun g m => if g = 0 then .immZ (.movRmImm (toRM m)) else .invalid,
    .invalid, .invalid, .imm16 .retFarImm16, .bare .retFar, .bare .int3, .imm8 .intImm8, .bare .into, .bare .iret],
   [.invalid, .invalid, .invalid, .invalid, .invalid, .invalid, .invalid, .invalid,
    .fpu .x87, .fpu .x87, .fpu .x87, .fpu .x87, .fpu .x87, .fpu .x87, .fpu .x87, .fpu .x87],
   [.invalid, .invalid, .invalid, .imm8 .jecxzRel8, .imm8 .inAlImm8, .imm8 .inEaxImm8, .imm8 .outImm8Al, .imm8 .outImm8Eax,
    .immZ .callRel32, .immZ .jmpRel32, .ptr .jmpPtr1632, .imm8 .jmpRel8, .bare .inAlDx, .bare .inEaxDx, .bare .outDxAl, .bare .outDxEax],
   [.bare .lock, .invalid, .bare .repne, .bare .rep, .bare .hlt, .invalid, .modrm groupF6, .modrm groupF7,
    .invalid, .invalid, .bare .cli, .bare .sti, .invalid, .invalid, .modrm groupFE, .modrm groupFF]]

/-- The two-byte opcodes 0F xx (R210 to R213, R607, R620 to R623, R631; the SIMD ranges are PRESUMED, log 17; that
0F 18, PREFETCHh, is not one of them, and so no instruction, is a DESIGN CHOICE, log 17). The moves 0F 20
to 0F 23 ignore mod, as the `constraint` of each of the four rows of spec/opcode_table.json has it (R208, R213). -/
def opcodeMap0F (c : DecodeCtx) : List (List Tail) :=
  [[.modrm group0F00, .modrm group0F01, rRm .lar, rRm .lsl, .invalid, .invalid, .bare .clts, .invalid, .bare .invd, .bare .wbinvd, .invalid, .bare .ud2, .invalid, .invalid, .invalid, .invalid],
   [sseTail c, sseTail c, dupTail c, sseTail c, sseTail c, sseTail c, dupTail c, sseTail c, .invalid, .invalid, .invalid, .invalid, .invalid, .invalid, .invalid, .invalid],
   [.modrmReg (crTail fun x r => .movR32Crn (Reg.ofNum r) x), .modrmReg fun g r => .done (.movR32Drn (Reg.ofNum r) (DrN.ofNum g)), .modrmReg (crTail fun x r => .movCrnR32 x (Reg.ofNum r)), .modrmReg fun g r => .done (.movDrnR32 (DrN.ofNum g) (Reg.ofNum r)), .invalid, .invalid, .invalid, .invalid, sseTail c, sseTail c, sseTail c, sseTail c, sseTail c, sseTail c, sseTail c, sseTail c],
   [.bare .wrmsr, .bare .rdtsc, .bare .rdmsr, .bare .rdpmc, .bare .sysenter, .bare .sysexit, .invalid, .invalid, .invalid, .invalid, .invalid, .invalid, .invalid, .invalid, .invalid, .invalid],
   [.invalid, .invalid, .invalid, .invalid, .invalid, .invalid, .invalid, .invalid, .invalid, .invalid, .invalid, .invalid, .invalid, .invalid, .invalid, .invalid],
   [sseTail c, sseTail c, sseTail c, sseTail c, sseTail c, sseTail c, sseTail c, sseTail c, sseTail c, sseTail c, .fpu .sse2, .fpu .sse2, sseTail c, sseTail c, sseTail c, sseTail c],
   [mmxTail c, mmxTail c, mmxTail c, mmxTail c, mmxTail c, mmxTail c, mmxTail c, mmxTail c, mmxTail c, mmxTail c, mmxTail c, mmxTail c, .fpu .sse2, .fpu .sse2, mmxTail c, mmxTail c],
   [mmxSseTail c, mmxTail c, mmxTail c, mmxTail c, mmxTail c, mmxTail c, mmxTail c, mmxTail c, .invalid, .invalid, .invalid, .invalid, .fpu .sse3, .fpu .sse3, mmxTail c, mmxTail c],
   [.immZ .joRel32, .immZ .jnoRel32, .immZ .jbRel32, .immZ .jaeRel32, .immZ .jeRel32, .immZ .jneRel32, .immZ .jbeRel32, .immZ .jaRel32, .immZ .jsRel32, .immZ .jnsRel32, .immZ .jpRel32, .immZ .jnpRel32, .immZ .jlRel32, .immZ .jgeRel32, .immZ .jleRel32, .immZ .jgRel32],
   [.invalid, .invalid, .invalid, .invalid, .invalid, .invalid, .invalid, .invalid, .invalid, .invalid, .invalid, .invalid, .invalid, .invalid, .invalid, .invalid],
   [.bare .pushFs, .bare .popFs, .bare .cpuid, rmR .btRmR, .invalid, .invalid, .invalid, .invalid, .bare .pushGs, .bare .popGs, .bare .rsm, rmR .btsRmR, .invalid, .invalid, .modrm group0FAE, .invalid],
   [rmR8 .cmpxchgRm8R8, rmR .cmpxchgRmR, .invalid, rmR .btrRmR, .invalid, .invalid, .invalid, .invalid, .invalid, .invalid, .modrm group0FBA, rmR .btcRmR, .invalid, .invalid, .invalid, .invalid],
   [rmR8 .xaddRm8R8, rmR .xaddRmR, sseTail c, .modrm fun g m => memOnly (fun x => .movnti x (Reg.ofNum g)) m, mmxSseTail c, mmxSseTail c, sseTail c, .modrm fun g m => if g = 1 then memOnly .cmpxchg8b m else .invalid, .invalid, .invalid, .invalid, .invalid, .invalid, .invalid, .invalid, .invalid],
   [.fpu .sse3, mmxTail c, mmxTail c, mmxTail c, .fpu .sse2, mmxTail c, .fpu .sse2, mmxSseTail c, mmxTail c, mmxTail c, mmxSseTail c, mmxTail c, mmxTail c, mmxTail c, mmxSseTail c, mmxTail c],
   [mmxSseTail c, mmxTail c, mmxTail c, mmxSseTail c, mmxSseTail c, mmxTail c, .fpu .sse2, mmxSseTail c, mmxTail c, mmxTail c, mmxSseTail c, mmxTail c, mmxTail c, mmxTail c, mmxSseTail c, mmxTail c],
   [.fpu .sse3, mmxTail c, mmxTail c, mmxTail c, .fpu .sse2, mmxTail c, mmxSseTail c, mmxSseTail c, mmxTail c, mmxTail c, mmxTail c, .fpu .sse2, mmxTail c, mmxTail c, mmxTail c, .invalid]]

/-- The entry of an opcode map for a byte. -/
def lookupOp (t : List (List Tail)) (b : Byte) : Tail :=
  (t.getD (b.toNat / 16) []).getD (b.toNat % 16) .invalid

/-- One item of the instruction stream: a prefix, or the instruction after the prefixes of the context. -/
def decode (c : DecodeCtx) (bs : List Byte) : Decoded :=
  match bs with
  | [] => .needMore
  | b :: r =>
    if b = 0x0F#8 then
      match r with
      | [] => .needMore
      | b2 :: r2 => finishTail c (lookupOp (opcodeMap0F c) b2) r2
    else finishTail c (lookupOp (opcodeMap c) b) r

/-- The prefixes with one more (R201). A repeated prefix of one group replaces the earlier one (D12, log 6). -/
def Pfx.add (p : Pfx) : Instr → Option Pfx
  | .lock => some { p with lock := true }
  | .repne => some { p with rep := some .repne }
  | .rep => some { p with rep := some .rep }
  | .segCs => some { p with seg := some .cs }
  | .segSs => some { p with seg := some .ss }
  | .segDs => some { p with seg := some .ds }
  | .segEs => some { p with seg := some .es }
  | .segFs => some { p with seg := some .fs }
  | .segGs => some { p with seg := some .gs }
  | .opsize => some { p with opsize := true }
  | .addrsize => some { p with addrsize := true }
  | _ => Option.none

/-- A whole instruction: its items (prefixes, then the instruction proper) and its length in bytes; of a floating-point
or SIMD opcode, whether a LOCK prefix stands before it (R351). -/
inductive Fetched where
  | items (is : List Instr) (len : Nat)
  | needMore
  | invalid
  | fpu (k : FpuClass) (lock : Bool)
  deriving DecidableEq, Repr

/-- Decodes prefixes and the instruction they apply to from the bytes at the instruction pointer (R207).
`done` are the prefix items already read, last first; `total` is the number of bytes given at the start. -/
def decodeItems : Nat → Bool → Pfx → List Instr → Nat → List Byte → Fetched
  | 0, _, _, _, _, _ => .needMore
  | fuel + 1, d32, p, done, total, bs =>
    match decode ⟨d32, p⟩ bs with
    | .needMore => .needMore
    | .invalid => .invalid
    | .fpu k => .fpu k p.lock
    | .instr i rest =>
      match p.add i with
      | some p' => decodeItems fuel d32 p' (i :: done) total rest
      | none => .items (i :: done).reverse (total - rest.length)

/-- The longest instruction, in bytes (R201). -/
def maxLen : Nat := 15

/-- The instruction at the start of some bytes (R201, R207); more than 15 bytes of prefixes decode to nothing. -/
def decodeInsn (d32 : Bool) (bs : List Byte) : Fetched :=
  decodeItems (maxLen + 1) d32 Pfx.none [] bs.length bs

/-- The instruction the decoder reads from an instruction whose bits are `w`, numbered as spec/opcode_table.json numbers
them: the byte at the lowest address holds bits 7..0, every bit from `nbits` up is 0. A prefix alone is itself; after
prefixes within the `nbits` bits, the instruction they precede. The code segment has D = 1, the case the spec models
(R202). -/
def decodeTableWord (nbits w : Nat) : Option Instr :=
  match decodeInsn true (leBytes maxLen (w % 2 ^ nbits)) with
  | .items is _ => if 8 * (is.length - 1) < nbits then is.getLast? else is.head?
  | _ => none

/-! ## The encoder -/

/-- A ModRM or SIB byte from its three fields (R203, R204). -/
def modrmByte (mod reg rm : Nat) : Byte := BitVec.ofNat 8 (64 * mod + 8 * reg + rm)

/-- The `mod` field and the bytes of a 32-bit displacement (R203). -/
def encDisp32 : Disp32 → Nat × List Byte
  | .none => (0, [])
  | .d8 v => (1, [v])
  | .d32 v => (2, leBytes 4 v.toNat)

/-- The scale and index fields of a SIB byte (R204). -/
def encIndex : Option Index → Nat × Nat
  | none => (0, 4)
  | some x => (x.scale.num, x.reg.num)

/-- ModRM, SIB and displacement of a memory operand with the given reg field (R203, R204, R206). -/
def encMem (g : Nat) : Mem → List Byte
  | .abs32 d => modrmByte 0 g 5 :: leBytes 4 d.toNat
  | .base32 b d => modrmByte (encDisp32 d).1 g b.num :: (encDisp32 d).2
  | .sib b i d => modrmByte (encDisp32 d).1 g 4 :: modrmByte (encIndex i).1 (encIndex i).2 b.num :: (encDisp32 d).2
  | .sibAbs i d => modrmByte 0 g 4 :: modrmByte (encIndex i).1 (encIndex i).2 5 :: leBytes 4 d.toNat
  | .abs16 d => modrmByte 0 g 6 :: leBytes 2 d.toNat
  | .base16 b .none => [modrmByte 0 g b.num]
  | .base16 b (.d8 v) => [modrmByte 1 g b.num, v]
  | .base16 b (.d16 v) => modrmByte 2 g b.num :: leBytes 2 v.toNat

/-- ModRM and what it implies for an r/m operand of operand size. -/
def encRM (g : Nat) : RM Reg → List Byte
  | .reg r => [modrmByte 3 g r.num]
  | .mem m => encMem g m
/-- ModRM and what it implies for a byte r/m operand. -/
def encRM8 (g : Nat) : RM Reg8 → List Byte
  | .reg r => [modrmByte 3 g r.num]
  | .mem m => encMem g m

/-- An immediate of operand size (R205). -/
def encImm (c : DecodeCtx) (v : Word) : List Byte := leBytes (immBytes c.osz16) v.toNat
/-- An offset of address size (R205). -/
def encMoffs (c : DecodeCtx) (v : Word) : List Byte := leBytes (immBytes c.asz16) v.toNat

/-- The bytes of an instruction under a decode context, from the spec's encoding tables. -/
def encode (c : DecodeCtx) : Instr → List Byte
  | .monitor => [0x0F, 0x01, 0xC8]
  | .mwait => [0x0F, 0x01, 0xC9]
  | .lfence => [0x0F, 0xAE, 0xE8]
  | .mfence => [0x0F, 0xAE, 0xF0]
  | .sfence => [0x0F, 0xAE, 0xF8]
  | .sldt rm => 0x0F :: 0x00 :: encRM 0 rm
  | .str rm => 0x0F :: 0x00 :: encRM 1 rm
  | .lldt rm => 0x0F :: 0x00 :: encRM 2 rm
  | .ltr rm => 0x0F :: 0x00 :: encRM 3 rm
  | .verr rm => 0x0F :: 0x00 :: encRM 4 rm
  | .verw rm => 0x0F :: 0x00 :: encRM 5 rm
  | .sgdt m => 0x0F :: 0x01 :: encMem 0 m
  | .sidt m => 0x0F :: 0x01 :: encMem 1 m
  | .lgdt m => 0x0F :: 0x01 :: encMem 2 m
  | .lidt m => 0x0F :: 0x01 :: encMem 3 m
  | .smsw rm => 0x0F :: 0x01 :: encRM 4 rm
  | .lmsw rm => 0x0F :: 0x01 :: encRM 6 rm
  | .invlpg m => 0x0F :: 0x01 :: encMem 7 m
  | .fxsave m => 0x0F :: 0xAE :: encMem 0 m
  | .fxrstor m => 0x0F :: 0xAE :: encMem 1 m
  | .ldmxcsr m => 0x0F :: 0xAE :: encMem 2 m
  | .stmxcsr m => 0x0F :: 0xAE :: encMem 3 m
  | .clflush m => 0x0F :: 0xAE :: encMem 7 m
  | .cmpxchg8b m => 0x0F :: 0xC7 :: encMem 1 m
  | .btRmImm8 rm imm => (0x0F :: 0xBA :: encRM 4 rm) ++ [imm]
  | .btsRmImm8 rm imm => (0x0F :: 0xBA :: encRM 5 rm) ++ [imm]
  | .btrRmImm8 rm imm => (0x0F :: 0xBA :: encRM 6 rm) ++ [imm]
  | .btcRmImm8 rm imm => (0x0F :: 0xBA :: encRM 7 rm) ++ [imm]
  | .lar r src => 0x0F :: 0x02 :: encRM r.num src
  | .lsl r src => 0x0F :: 0x03 :: encRM r.num src
  | .clts => [0x0F, 0x06]
  | .invd => [0x0F, 0x08]
  | .wbinvd => [0x0F, 0x09]
  | .ud2 => [0x0F, 0x0B]
  | .movR32Crn r c' => [0x0F, 0x20, modrmByte 3 c'.num r.num]
  | .movR32Drn r d => [0x0F, 0x21, modrmByte 3 d.num r.num]
  | .movCrnR32 c' r => [0x0F, 0x22, modrmByte 3 c'.num r.num]
  | .movDrnR32 d r => [0x0F, 0x23, modrmByte 3 d.num r.num]
  | .wrmsr => [0x0F, 0x30]
  | .rdtsc => [0x0F, 0x31]
  | .rdmsr => [0x0F, 0x32]
  | .rdpmc => [0x0F, 0x33]
  | .sysenter => [0x0F, 0x34]
  | .sysexit => [0x0F, 0x35]
  | .cpuid => [0x0F, 0xA2]
  | .rsm => [0x0F, 0xAA]
  | .movnti m r => 0x0F :: 0xC3 :: encMem r.num m
  | .pushFs => [0x0F, 0xA0]
  | .pushGs => [0x0F, 0xA8]
  | .popFs => [0x0F, 0xA1]
  | .popGs => [0x0F, 0xA9]
  | .xaddRm8R8 dst r => 0x0F :: 0xC0 :: encRM8 r.num dst
  | .xaddRmR dst r => 0x0F :: 0xC1 :: encRM r.num dst
  | .cmpxchgRm8R8 dst r => 0x0F :: 0xB0 :: encRM8 r.num dst
  | .cmpxchgRmR dst r => 0x0F :: 0xB1 :: encRM r.num dst
  | .btRmR dst r => 0x0F :: 0xA3 :: encRM r.num dst
  | .btsRmR dst r => 0x0F :: 0xAB :: encRM r.num dst
  | .btrRmR dst r => 0x0F :: 0xB3 :: encRM r.num dst
  | .btcRmR dst r => 0x0F :: 0xBB :: encRM r.num dst
  | .joRel32 rel => 0x0F :: 0x80 :: encImm c rel
  | .jnoRel32 rel => 0x0F :: 0x81 :: encImm c rel
  | .jbRel32 rel => 0x0F :: 0x82 :: encImm c rel
  | .jaeRel32 rel => 0x0F :: 0x83 :: encImm c rel
  | .jeRel32 rel => 0x0F :: 0x84 :: encImm c rel
  | .jneRel32 rel => 0x0F :: 0x85 :: encImm c rel
  | .jbeRel32 rel => 0x0F :: 0x86 :: encImm c rel
  | .jaRel32 rel => 0x0F :: 0x87 :: encImm c rel
  | .jsRel32 rel => 0x0F :: 0x88 :: encImm c rel
  | .jnsRel32 rel => 0x0F :: 0x89 :: encImm c rel
  | .jpRel32 rel => 0x0F :: 0x8A :: encImm c rel
  | .jnpRel32 rel => 0x0F :: 0x8B :: encImm c rel
  | .jlRel32 rel => 0x0F :: 0x8C :: encImm c rel
  | .jgeRel32 rel => 0x0F :: 0x8D :: encImm c rel
  | .jleRel32 rel => 0x0F :: 0x8E :: encImm c rel
  | .jgRel32 rel => 0x0F :: 0x8F :: encImm c rel
  | .callM1632 m => 0xFF :: encMem 3 m
  | .jmpM1632 m => 0xFF :: encMem 5 m
  | .movRm8Imm8 rm imm => (0xC6 :: encRM8 0 rm) ++ [imm]
  | .movRmImm rm imm => (0xC7 :: encRM 0 rm) ++ encImm c imm
  | .pushRm rm => 0xFF :: encRM 6 rm
  | .popRm rm => 0x8F :: encRM 0 rm
  | .addRm8Imm8 rm imm => (0x80 :: encRM8 0 rm) ++ [imm]
  | .addRmImm rm imm => (0x81 :: encRM 0 rm) ++ encImm c imm
  | .addRmImm8 rm imm => (0x83 :: encRM 0 rm) ++ [imm]
  | .orRm8Imm8 rm imm => (0x80 :: encRM8 1 rm) ++ [imm]
  | .orRmImm rm imm => (0x81 :: encRM 1 rm) ++ encImm c imm
  | .orRmImm8 rm imm => (0x83 :: encRM 1 rm) ++ [imm]
  | .adcRm8Imm8 rm imm => (0x80 :: encRM8 2 rm) ++ [imm]
  | .adcRmImm rm imm => (0x81 :: encRM 2 rm) ++ encImm c imm
  | .adcRmImm8 rm imm => (0x83 :: encRM 2 rm) ++ [imm]
  | .sbbRm8Imm8 rm imm => (0x80 :: encRM8 3 rm) ++ [imm]
  | .sbbRmImm rm imm => (0x81 :: encRM 3 rm) ++ encImm c imm
  | .sbbRmImm8 rm imm => (0x83 :: encRM 3 rm) ++ [imm]
  | .andRm8Imm8 rm imm => (0x80 :: encRM8 4 rm) ++ [imm]
  | .andRmImm rm imm => (0x81 :: encRM 4 rm) ++ encImm c imm
  | .andRmImm8 rm imm => (0x83 :: encRM 4 rm) ++ [imm]
  | .subRm8Imm8 rm imm => (0x80 :: encRM8 5 rm) ++ [imm]
  | .subRmImm rm imm => (0x81 :: encRM 5 rm) ++ encImm c imm
  | .subRmImm8 rm imm => (0x83 :: encRM 5 rm) ++ [imm]
  | .xorRm8Imm8 rm imm => (0x80 :: encRM8 6 rm) ++ [imm]
  | .xorRmImm rm imm => (0x81 :: encRM 6 rm) ++ encImm c imm
  | .xorRmImm8 rm imm => (0x83 :: encRM 6 rm) ++ [imm]
  | .cmpRm8Imm8 rm imm => (0x80 :: encRM8 7 rm) ++ [imm]
  | .cmpRmImm rm imm => (0x81 :: encRM 7 rm) ++ encImm c imm
  | .cmpRmImm8 rm imm => (0x83 :: encRM 7 rm) ++ [imm]
  | .testRm8Imm8 rm imm => (0xF6 :: encRM8 0 rm) ++ [imm]
  | .testRmImm rm imm => (0xF7 :: encRM 0 rm) ++ encImm c imm
  | .incRm8 rm => 0xFE :: encRM8 0 rm
  | .incRm rm => 0xFF :: encRM 0 rm
  | .decRm8 rm => 0xFE :: encRM8 1 rm
  | .decRm rm => 0xFF :: encRM 1 rm
  | .notRm8 rm => 0xF6 :: encRM8 2 rm
  | .notRm rm => 0xF7 :: encRM 2 rm
  | .negRm8 rm => 0xF6 :: encRM8 3 rm
  | .negRm rm => 0xF7 :: encRM 3 rm
  | .jmpRm32 rm => 0xFF :: encRM 4 rm
  | .callRm32 rm => 0xFF :: encRM 2 rm
  | .pause => [0x90]
  | .lock => [0xF0]
  | .repne => [0xF2]
  | .rep => [0xF3]
  | .segCs => [0x2E]
  | .segSs => [0x36]
  | .segDs => [0x3E]
  | .segEs => [0x26]
  | .segFs => [0x64]
  | .segGs => [0x65]
  | .opsize => [0x66]
  | .addrsize => [0x67]
  | .bound r m => 0x62 :: encMem r.num m
  | .arpl dst r => 0x63 :: encRM r.num dst
  | .movRmSreg dst sr => 0x8C :: encRM sr.num dst
  | .movSregRm16 sr src => 0x8E :: encRM sr.num src
  | .callPtr1632 sel off => 0x9A :: (encImm c off ++ leBytes 2 sel.toNat)
  | .jmpPtr1632 sel off => 0xEA :: (encImm c off ++ leBytes 2 sel.toNat)
  | .retFar => [0xCB]
  | .retFarImm16 imm => 0xCA :: leBytes 2 imm.toNat
  | .int3 => [0xCC]
  | .intImm8 imm => [0xCD, imm]
  | .into => [0xCE]
  | .iret => [0xCF]
  | .pushf => [0x9C]
  | .popf => [0x9D]
  | .hlt => [0xF4]
  | .cli => [0xFA]
  | .sti => [0xFB]
  | .nop => [0x90]
  | .inAlImm8 imm => [0xE4, imm]
  | .inEaxImm8 imm => [0xE5, imm]
  | .inAlDx => [0xEC]
  | .inEaxDx => [0xED]
  | .outImm8Al imm => [0xE6, imm]
  | .outImm8Eax imm => [0xE7, imm]
  | .outDxAl => [0xEE]
  | .outDxEax => [0xEF]
  | .movRm8R8 dst r => 0x88 :: encRM8 r.num dst
  | .movRmR dst r => 0x89 :: encRM r.num dst
  | .movR8Rm8 r src => 0x8A :: encRM8 r.num src
  | .movRRm r src => 0x8B :: encRM r.num src
  | .movAlMoffs8 off => 0xA0 :: encMoffs c off
  | .movEaxMoffs off => 0xA1 :: encMoffs c off
  | .movMoffs8Al off => 0xA2 :: encMoffs c off
  | .movMoffsEax off => 0xA3 :: encMoffs c off
  | .lea r m => 0x8D :: encMem r.num m
  | .xchgRm8R8 dst r => 0x86 :: encRM8 r.num dst
  | .xchgRmR dst r => 0x87 :: encRM r.num dst
  | .pushImm8 imm => [0x6A, imm]
  | .pushImm32 imm => 0x68 :: encImm c imm
  | .pushEs => [0x06]
  | .pushCs => [0x0E]
  | .pushSs => [0x16]
  | .pushDs => [0x1E]
  | .popEs => [0x07]
  | .popSs => [0x17]
  | .popDs => [0x1F]
  | .addRm8R8 dst r => 0x00 :: encRM8 r.num dst
  | .addRmR dst r => 0x01 :: encRM r.num dst
  | .addR8Rm8 r src => 0x02 :: encRM8 r.num src
  | .addRRm r src => 0x03 :: encRM r.num src
  | .addAlImm8 imm => [0x04, imm]
  | .addEaxImm imm => 0x05 :: encImm c imm
  | .orRm8R8 dst r => 0x08 :: encRM8 r.num dst
  | .orRmR dst r => 0x09 :: encRM r.num dst
  | .orR8Rm8 r src => 0x0A :: encRM8 r.num src
  | .orRRm r src => 0x0B :: encRM r.num src
  | .orAlImm8 imm => [0x0C, imm]
  | .orEaxImm imm => 0x0D :: encImm c imm
  | .adcRm8R8 dst r => 0x10 :: encRM8 r.num dst
  | .adcRmR dst r => 0x11 :: encRM r.num dst
  | .adcR8Rm8 r src => 0x12 :: encRM8 r.num src
  | .adcRRm r src => 0x13 :: encRM r.num src
  | .adcAlImm8 imm => [0x14, imm]
  | .adcEaxImm imm => 0x15 :: encImm c imm
  | .sbbRm8R8 dst r => 0x18 :: encRM8 r.num dst
  | .sbbRmR dst r => 0x19 :: encRM r.num dst
  | .sbbR8Rm8 r src => 0x1A :: encRM8 r.num src
  | .sbbRRm r src => 0x1B :: encRM r.num src
  | .sbbAlImm8 imm => [0x1C, imm]
  | .sbbEaxImm imm => 0x1D :: encImm c imm
  | .andRm8R8 dst r => 0x20 :: encRM8 r.num dst
  | .andRmR dst r => 0x21 :: encRM r.num dst
  | .andR8Rm8 r src => 0x22 :: encRM8 r.num src
  | .andRRm r src => 0x23 :: encRM r.num src
  | .andAlImm8 imm => [0x24, imm]
  | .andEaxImm imm => 0x25 :: encImm c imm
  | .subRm8R8 dst r => 0x28 :: encRM8 r.num dst
  | .subRmR dst r => 0x29 :: encRM r.num dst
  | .subR8Rm8 r src => 0x2A :: encRM8 r.num src
  | .subRRm r src => 0x2B :: encRM r.num src
  | .subAlImm8 imm => [0x2C, imm]
  | .subEaxImm imm => 0x2D :: encImm c imm
  | .xorRm8R8 dst r => 0x30 :: encRM8 r.num dst
  | .xorRmR dst r => 0x31 :: encRM r.num dst
  | .xorR8Rm8 r src => 0x32 :: encRM8 r.num src
  | .xorRRm r src => 0x33 :: encRM r.num src
  | .xorAlImm8 imm => [0x34, imm]
  | .xorEaxImm imm => 0x35 :: encImm c imm
  | .cmpRm8R8 dst r => 0x38 :: encRM8 r.num dst
  | .cmpRmR dst r => 0x39 :: encRM r.num dst
  | .cmpR8Rm8 r src => 0x3A :: encRM8 r.num src
  | .cmpRRm r src => 0x3B :: encRM r.num src
  | .cmpAlImm8 imm => [0x3C, imm]
  | .cmpEaxImm imm => 0x3D :: encImm c imm
  | .testRm8R8 dst r => 0x84 :: encRM8 r.num dst
  | .testRmR dst r => 0x85 :: encRM r.num dst
  | .testAlImm8 imm => [0xA8, imm]
  | .testEaxImm imm => 0xA9 :: encImm c imm
  | .jmpRel8 rel => [0xEB, rel]
  | .jmpRel32 rel => 0xE9 :: encImm c rel
  | .joRel8 rel => [0x70, rel]
  | .jnoRel8 rel => [0x71, rel]
  | .jbRel8 rel => [0x72, rel]
  | .jaeRel8 rel => [0x73, rel]
  | .jeRel8 rel => [0x74, rel]
  | .jneRel8 rel => [0x75, rel]
  | .jbeRel8 rel => [0x76, rel]
  | .jaRel8 rel => [0x77, rel]
  | .jsRel8 rel => [0x78, rel]
  | .jnsRel8 rel => [0x79, rel]
  | .jpRel8 rel => [0x7A, rel]
  | .jnpRel8 rel => [0x7B, rel]
  | .jlRel8 rel => [0x7C, rel]
  | .jgeRel8 rel => [0x7D, rel]
  | .jleRel8 rel => [0x7E, rel]
  | .jgRel8 rel => [0x7F, rel]
  | .jecxzRel8 rel => [0xE3, rel]
  | .callRel32 rel => 0xE8 :: encImm c rel
  | .ret => [0xC3]
  | .retImm16 imm => 0xC2 :: leBytes 2 imm.toNat
  | .movR8Imm8 r imm => BitVec.ofNat 8 (0xB0 + r.num) :: [imm]
  | .movRImm r imm => BitVec.ofNat 8 (0xB8 + r.num) :: encImm c imm
  | .xchgEaxR r => [BitVec.ofNat 8 (0x90 + r.num)]
  | .pushR r => [BitVec.ofNat 8 (0x50 + r.num)]
  | .popR r => [BitVec.ofNat 8 (0x58 + r.num)]
  | .incR r => [BitVec.ofNat 8 (0x40 + r.num)]
  | .decR r => [BitVec.ofNat 8 (0x48 + r.num)]

end Sys2Proof
end

