-- ==== Sys2Proof/Config.lean ====
section
/-! DEFINITION. What an implementation fixes (R7, R8, D30) and the free values the spec leaves open.

The free values are opaque constants without a body: nothing in Lean evaluates them, so a statement that
depends on one holds for every value. Each is applied to the state's counter `free` (a fresh value a use) or to
the operands it depends on. -/
namespace Sys2Proof.Config

/-- `FAMILY` of R8. -/
inductive Family where
  | p4Xeon | p6 | pentium | i486 | i386
  deriving DecidableEq, Repr

/-- `APIC_GEN` of R8: messages on the system bus, or on the 3-wire APIC bus. -/
inductive ApicGen where
  | xapic | apicBus
  deriving DecidableEq, Repr

/-- The memory types of `mem_type` (R590). -/
inductive MemType where
  | uc | wc | wt | wp | wb
  deriving DecidableEq, Repr

/-- The implementation parameters: R7, R8, R436 (`hasMmx`, `hasSse2`, `hasSse3`), R508 (`ioApic`: the local APIC is used
together with an I/O APIC), D7 and R590 (`memTypes`: physical ranges, first and last address, of another memory type than
WB), D9 (`ramHoles`: physical ranges that hold no memory), D13 (CPUID), D14 (`extraMsrs`: EXTRA_MSRS with their values at
reset), D15 (`modelTf`), and which logical processor this is. -/
structure Params where
  family : Family
  apicGen : ApicGen
  hasPae : Bool
  hasApic : Bool
  hasPse36 : Bool
  hasHtt : Bool
  hasMonitor : Bool
  hasPse : Bool
  hasPge : Bool
  hasPat : Bool
  hasSep : Bool
  hasMce : Bool
  hasTsc : Bool
  hasMsr : Bool
  hasMmx : Bool
  hasSse : Bool
  hasSse2 : Bool
  hasSse3 : Bool
  nLogical : Nat
  nPackages : Nat
  monitorLineMin : Nat
  monitorLineMax : Nat
  maxLeaf : Nat
  signature : Word
  initialApicId : Byte
  isBsp : Bool
  modelTf : Bool
  ioApic : Bool
  ramHoles : List (Nat × Nat)
  memTypes : List (Nat × Nat × MemType)
  extraMsrs : List (BitVec 32 × BitVec 64)
  deriving DecidableEq, Repr

/-- The default machine of D30 (Pentium 4 / Intel Xeon, xAPIC, every feature present) with the example
signature of D13, one logical processor, which is the bootstrap processor. -/
def default : Params where
  family := .p4Xeon
  apicGen := .xapic
  hasPae := true
  hasApic := true
  hasPse36 := true
  hasHtt := true
  hasMonitor := true
  hasPse := true
  hasPge := true
  hasPat := true
  hasSep := true
  hasMce := true
  hasTsc := true
  hasMsr := true
  hasMmx := true
  hasSse := true
  hasSse2 := true
  hasSse3 := true
  nLogical := 1
  nPackages := 1
  monitorLineMin := 64
  monitorLineMax := 64
  maxLeaf := 5
  signature := 0x00000F29#32
  initialApicId := 0#8
  isBsp := true
  modelTf := false
  ioApic := true
  ramHoles := []
  memTypes := []
  extraMsrs := []

/-- A free flag or choice bit (R602, R623, R230; log 10). -/
opaque freeBit : Nat → Bool

/-- A free 32-bit value (the saved EIP of #DF, R404; log 10). -/
opaque freeWord : Nat → Word

/-- What an input port answers: port, width in bytes, use counter (R590 `io_read`; log 12). -/
opaque ioRead : Nat → Nat → Nat → Word

/-- EAX, EBX, ECX, EDX of a CPUID leaf for which the spec states no value (D13; log 13). -/
opaque cpuidLeaf : Word → Word × Word × Word × Word

/-- The bits of CPUID leaf 1 that the spec does not state: EBX[15:0], ECX, EDX (D13; log 13). -/
opaque cpuidFeatures : Word × Word × Word

/-- Whether INVD loses the modified byte at an address (D19; log 14). -/
opaque invdLost : Nat → Nat → Bool

/-- Which matching TLB tuple a translation uses, if any: use counter, number of matches (R185; log 15). -/
opaque tlbPick : Nat → Nat → Nat

/-- Whether a walk's result is kept in the TLB (R185; log 15). -/
opaque tlbKeep : Nat → Bool

end Sys2Proof.Config
end

