-- ==== Sys2Proof/Machine/State.lean ====
section
/-! DEFINITION. Everything the spec gives one logical processor, its local APIC and the physical memory, as plain
data, with the reasons a step can stop and the state after reset. INVENTORY.md lists each piece with its rule. -/
namespace Sys2Proof.Machine

/-- The eight general registers (R22). -/
structure Gprs where
  eax : Word
  ecx : Word
  edx : Word
  ebx : Word
  esp : Word
  ebp : Word
  esi : Word
  edi : Word
  deriving DecidableEq, Repr

/-- EFLAGS by its named flags (R24). The reserved bits are constant (bit 1 is 1, the others 0), so they are no
state; `Eflags.toWord` and `Eflags.ofWord` (Machine/Flags.lean) give the 32-bit image. `intf` is IF. -/
structure Eflags where
  cf : Bool
  pf : Bool
  af : Bool
  zf : Bool
  sf : Bool
  tf : Bool
  intf : Bool
  df : Bool
  ovf : Bool
  iopl : BitVec 2
  nt : Bool
  rf : Bool
  vm : Bool
  ac : Bool
  vif : Bool
  vip : Bool
  id : Bool
  deriving DecidableEq, Repr

/-- The attributes of a descriptor kept in a descriptor cache (R30, R134). -/
structure SegAttr where
  typ : BitVec 4
  s : Bool
  dpl : BitVec 2
  p : Bool
  avl : Bool
  db : Bool
  g : Bool
  deriving DecidableEq, Repr

/-- A segment register, LDTR or TR: the visible selector and the hidden descriptor cache (R30, R33, R34). The
limit is the effective byte limit of R134. -/
structure SegReg where
  sel : Half
  base : Word
  limit : Word
  attr : SegAttr
  deriving DecidableEq, Repr

/-- The six segment registers (R30). -/
structure Segs where
  es : SegReg
  cs : SegReg
  ss : SegReg
  ds : SegReg
  fs : SegReg
  gs : SegReg
  deriving DecidableEq, Repr

/-- GDTR or IDTR (R31, R32). -/
structure TableReg where
  base : Word
  limit : Half
  deriving DecidableEq, Repr

/-- The memory-management, control and debug registers (R31 to R40) and the four PDPTEs read with CR3 (R161). -/
structure SysRegs where
  gdtr : TableReg
  idtr : TableReg
  ldtr : SegReg
  tr : SegReg
  cr0 : Word
  cr2 : Word
  cr3 : Word
  cr4 : Word
  pdpte0 : Quad
  pdpte1 : Quad
  pdpte2 : Quad
  pdpte3 : Quad
  dr0 : Word
  dr1 : Word
  dr2 : Word
  dr3 : Word
  dr6 : Word
  dr7 : Word
  deriving DecidableEq, Repr

/-- The model-specific registers (R45, D14); `extra` is D14's EXTRA_MSRS. -/
structure Msrs where
  tsc : Quad
  apicBase : Quad
  sysenterCs : Quad
  sysenterEsp : Quad
  sysenterEip : Quad
  extra : List (Word × Quad)
  deriving DecidableEq, Repr

/-- The x87, MMX and SIMD registers: opaque state that no rule of the spec reads (R50, D4). -/
structure FpuState where
  st : Vector (BitVec 80) 8
  control : Half
  status : Half
  tag : Half
  insnPtr : BitVec 48
  dataPtr : BitVec 48
  opcode : BitVec 11
  mm : Vector Quad 8
  xmm : Vector (BitVec 128) 8
  mxcsr : Word
  deriving DecidableEq, Repr

/-- The six LVT entries (R508). -/
inductive Lvt where
  | timer | thermal | perf | lint0 | lint1 | error
  deriving DecidableEq, Repr

/-- Delivery modes of interrupt messages (R521, R562), and the messages of the P6 family's selection of the bootstrap
processor (R463, R539). -/
inductive DelMode where
  | fixed | lowest | smi | nmi | init | startUp | extInt | initDeassert | bipi | fipi
  deriving DecidableEq, Repr

/-- The local APIC (R480 to R553). APR, PPR and the version are computed when read; `errs` are the errors detected
since the last ESR write (R514); `intr` is the vector whose INTR signal the APIC is asserting (R547);
`disabled` records that software has cleared the global enable flag since reset (R488, D23); `remoteVec` is the vector
whose EOI clears the remote IRR flag of LINT0 (R508), `remoteServed` says that it was dispensed to the core since the flag
was set; `coreWait` are the local interrupts delivered to the core as SMI,
NMI, INIT or ExtINT and not yet accepted by it (R508, R519); `selfRetry` are the vectors of self-interrupts sent back for
want of a slot (R539), `busWait` says that the targets of the last IPI on the bus have not yet accepted it: the two make
up the delivery status of the ICR (R520). -/
structure Apic where
  id : Word
  tpr : Byte
  ldr : Word
  dfr : Word
  svr : Word
  isr : BitVec 256
  tmr : BitVec 256
  irr : BitVec 256
  esr : Byte
  errs : Byte
  icrLo : Word
  icrHi : Word
  lvtTimer : Word
  lvtThermal : Word
  lvtPerf : Word
  lvtLint0 : Word
  lvtLint1 : Word
  lvtError : Word
  initCount : Word
  curCount : Word
  divide : Word
  arbId : BitVec 4
  intr : Option Byte
  disabled : Bool
  remoteVec : Byte
  remoteServed : Bool
  coreWait : List (Lvt × DelMode)
  selfRetry : List Byte
  busWait : Bool
  deriving DecidableEq, Repr

/-- Physical memory: (address, byte) pairs, addresses strictly rising, no byte equal to what an unlisted address
reads as (Machine/Memory.lean). -/
abbrev Memory := List Host.Cell

/-- A cached translation (R185): the linear base and the size (12, 21 or 22 address bits) of a page, its physical
base, rights, global flag, and whether its dirty flag is known to be set. -/
structure TlbEntry where
  page : Word
  bits : Nat
  phys : Nat
  user : Bool
  write : Bool
  global : Bool
  dirty : Bool
  deriving DecidableEq, Repr

/-- The interrupt shadow (R52): none, after STI (R307), after a load of SS (R229). -/
inductive Shadow where
  | none | sti | ss
  deriving DecidableEq, Repr

/-- An armed monitor range of physical addresses (R382). -/
structure MonitorRange where
  base : Nat
  len : Nat
  deriving DecidableEq, Repr

/-- The activity state (R52, R457): `halted`, `shutdown`, `mwait_waiting`, `wait_for_sipi`, the armed monitor
range, the interrupt shadow. -/
structure Activity where
  halted : Bool
  shutdown : Bool
  mwaiting : Bool
  waitSipi : Bool
  monitor : Option MonitorRange
  shadow : Shadow
  deriving DecidableEq, Repr

/-- The interrupt requests the core can accept at a boundary (R406, R412, R547). -/
inductive Request where
  | nmi | extInt | apic (v : Byte) | spurious
  deriving DecidableEq, Repr

/-- An event whose delivery met an exception and which waits for the return from that exception's handler (R409): a debug
trap, an interrupt, or an exception that the restart of no instruction raises again, by vector and error code. -/
inductive Held where
  | taskTrap | stepTrap | request (r : Request) | exception (vector : Byte) (code : Option Word)
  deriving DecidableEq, Repr

/-- How an event enters the machine (R420). -/
inductive EventKind where
  | soft | exception | external
  deriving DecidableEq, Repr

/-- Where an interrupted or suspended program goes on (R404): CS, EIP, and RF in its saved flags (R426). -/
structure Resume where
  cs : Half
  eip : Word
  rf : Bool
  deriving DecidableEq, Repr

/-- An event to deliver (R420): vector, kind, error code, and what is saved of where the program goes on (R404, R426). -/
structure Event where
  vector : Byte
  kind : EventKind
  code : Option Word
  resume : Resume
  deriving DecidableEq, Repr

/-- Pending events (R411) and the levels of the pins (R590): LINT0 (INTR), LINT1, STPCLK#, A20M#, IGNNE# as "asserted";
`sipi`: the latched start-up IPI; `extInt`: an ExtINT request taken by the core (R538); `taskTrap`, `stepTrap`: the debug
traps of the T flag of a new task and of single step that the next boundary takes (R408, R431); `held`: the events
that are attempted again when the handler of an exception met at their delivery returns (R409), each with the number of
handlers entered since that have not returned, that one among them (log 27); `delivering`: the event whose delivery goes on,
in a chain of exceptions that one step does not end (R409, log 42), with whether it is to be held for another attempt;
`reattempt`: a held exception that the next boundary attempts again (R409, log 27); `intaVector`: what the 8259A supplies at the
next interrupt acknowledge (R412). -/
structure Pending where
  nmi : Bool
  nmiBlocked : Bool
  smi : Bool
  init : Bool
  sipi : Option Byte
  extInt : Bool
  taskTrap : Bool
  stepTrap : Bool
  held : List (Held × Nat)
  delivering : Option (Event × Bool)
  reattempt : Option (Byte × Option Word)
  lint0 : Bool
  lint1 : Bool
  stpclk : Bool
  a20m : Bool
  ignne : Bool
  intaVector : Byte
  deriving DecidableEq, Repr

/-- The processor state that SMM entry saves and RSM restores (R390, D20). -/
structure Proc where
  gpr : Gprs
  eip : Word
  eflags : Eflags
  segs : Segs
  sys : SysRegs
  deriving DecidableEq, Repr

/-- The instruction in progress: the offset of the next instruction (R23), the prefixes read (R201), and whether
an exception was delivered in place of its completion (R413). -/
structure InsnCtx where
  nextEip : Word
  pfx : Pfx
  delivered : Bool
  deriving DecidableEq, Repr

/-- An interrupt message on the bus (R482, R531): delivery mode, vector, trigger mode, destination and
destination mode; `chosen` is the platform's arbitration for a lowest-priority message (R535, D25). -/
structure IntMsg where
  mode : DelMode
  vector : Byte
  level : Bool
  dest : Byte
  logical : Bool
  chosen : Bool
  deriving DecidableEq, Repr

/-- What the platform does to the processor before a step (R590). -/
inductive Input where
  /-- power-up or RESET# -/
  | reset
  /-- INIT# pin -/
  | initPin
  /-- NMI by another path than LINT1 -/
  | nmi
  /-- SMI# pin -/
  | smi
  /-- the SMM handler is done: `smm_leave` (D20) -/
  | smmLeave
  /-- LINT0 (INTR) pin level, with the vector the 8259A will supply -/
  | lint0 (asserted : Bool) (vector : Byte)
  /-- LINT1 (NMI) pin level -/
  | lint1 (asserted : Bool)
  /-- STPCLK# pin -/
  | stpclk (asserted : Bool)
  /-- A20M# pin -/
  | a20m (asserted : Bool)
  /-- IGNNE# pin; no rule reads it, as x87 instructions are refused (R448, D4) -/
  | ignne (asserted : Bool)
  /-- an interrupt message from the bus: IPI or I/O APIC -/
  | message (m : IntMsg)
  /-- a message signalled interrupt: address and data (R561, R562), with the arbitration outcome -/
  | msi (addr data : Word) (chosen : Bool)
  /-- the IPI last sent was accepted by its targets (R520) -/
  | ipiAccepted
  /-- an error on the APIC bus: ESR bits 0 to 3 (R513) -/
  | busError (bits : BitVec 4)
  /-- the thermal sensor tripped (R510) -/
  | thermal
  /-- a performance counter overflowed (R510) -/
  | perfOverflow
  /-- one divided tick of the APIC timer (R517, D24) -/
  | timerTick
  /-- the time-stamp counter advances (R46, D16) -/
  | tscTicks (n : Nat)
  /-- another agent stores bytes at a physical address (R80) -/
  | store (addr : Nat) (bytes : List Byte)
  /-- the processor leaves the MWAIT wait for reasons of its own (R383) -/
  | mwaitWake
  /-- BINIT#: it ends a halt and an MWAIT wait (R378, R385) -/
  | binit
  /-- MCERR#: it ends an MWAIT wait (R385); the model raises no #MC (D27) -/
  | mcerr
  deriving DecidableEq, Repr

/-- What leaves the processor (R590, R546, R531). -/
inductive BusEvent where
  /-- a write to an I/O port: port, width in bytes, value -/
  | ioWrite (port bytes : Nat) (value : Word)
  /-- an IPI sent: the message, as ICR fields (R520, R524) -/
  | ipi (icrHi icrLo : Word)
  /-- an end-of-interrupt message to the I/O APICs -/
  | eoi (vector : Byte)
  /-- a rejected request: the sender resends (R539) -/
  | retry (vector : Byte)
  /-- FERR# changes (R448); no step of the model emits it, as x87 instructions are refused (D4) -/
  | ferr (asserted : Bool)
  deriving DecidableEq, Repr

/-- The state of the machine. -/
structure State where
  gpr : Gprs
  eip : Word
  eflags : Eflags
  segs : Segs
  sys : SysRegs
  msr : Msrs
  fpu : FpuState
  apic : Apic
  mem : Memory
  memWb : Memory
  tlb : List TlbEntry
  act : Activity
  pend : Pending
  smm : Option Proc
  ctx : InsnCtx
  cfg : Config.Params
  bus : List BusEvent
  inputs : List (List Input)
  free : Nat
  deriving DecidableEq, Repr

/-- Why the machine stops where the source gives no effect at all. -/
inductive Fault where
  /-- Instruction fetch reads bytes of the local APIC register page, which R484 says is accessed by 32-bit loads
  and stores only. Raised by the fetch. Safe: the model stops where hardware does something unknown. -/
  | apicFetch
  /-- A local interrupt arrives at an LVT entry whose delivery mode is one of the reserved codes 001, 011, 110
  (R508). Raised by the local APIC. Safe. -/
  | lvtReservedMode
  deriving DecidableEq, Repr

/-- Why the model refuses to go on. -/
inductive Refusal where
  /-- An instruction without a meaning yet; only `exec`'s arms raise it. Safe. -/
  | notModelled (mnemonic : String)
  /-- An instruction would execute in virtual-8086 mode, whose rules are absent (R21, D2). Safe. -/
  | virtual8086
  /-- An x87, MMX or SSE-family opcode that raises neither #NM nor #UD (R212, D4). Safe. -/
  | fpuSimd
  /-- FXSAVE, FXRSTOR, LDMXCSR or STMXCSR past its #NM and #UD conditions (R212, D4). Safe. -/
  | fpuState
  /-- An access to the APIC page that is not one aligned 32-bit load or store, or is locked, or a page walk's access to
  an entry there (R484, D21). Safe. -/
  | apicAccess
  /-- A read of the EOI register (R546). Safe. -/
  | apicEoiRead
  /-- A write that sets IA32_APIC_BASE bit 11 after it was cleared (R488, D23). Safe. -/
  | apicReenable
  /-- An ICR write whose delivery mode, level and shorthand the rules do not describe (R520, R524). Safe. -/
  | icrCombination
  /-- A lowest-priority IPI to the physical broadcast ID (R527). Safe. -/
  | lowestBroadcast
  /-- A logical destination compared under a DFR model other than 0000 and 1111 (R528). Safe. -/
  | dfrModel
  /-- A message with a reserved delivery mode or an MSI outside the message area (R561, R562). Safe. -/
  | msiReserved
  deriving DecidableEq, Repr

/-- The outcome of a step or of an instruction. -/
abbrev Result := Host.Outcome State Fault Refusal

/-- The attributes of a present, accessed, read/write data segment (R571); D/B, G, AVL and DPL 0 are PRESUMED
(the family's, log 2). -/
def SegAttr.resetData : SegAttr := ⟨3#4, true, 0#2, true, false, false, false⟩

/-- SS, DS, ES, FS, GS after reset (R571). -/
def SegReg.reset : SegReg := ⟨0#16, 0#32, 0xFFFF#32, SegAttr.resetData⟩

/-- The registers that hold the processor's execution state, after RESET and after INIT (R571, R573), for a given
processor signature and CR0. -/
def Proc.reset (signature cr0 : Word) : Proc where
  gpr := ⟨0#32, 0#32, signature, 0#32, 0#32, 0#32, 0#32, 0#32⟩
  eip := 0xFFF0#32
  eflags := ⟨false, false, false, false, false, false, false, false, false, 0#2, false, false, false, false,
    false, false, false⟩
  segs := ⟨SegReg.reset, ⟨0xF000#16, 0xFFFF0000#32, 0xFFFF#32, SegAttr.resetData⟩, SegReg.reset, SegReg.reset,
    SegReg.reset, SegReg.reset⟩
  sys := { gdtr := ⟨0#32, 0xFFFF#16⟩, idtr := ⟨0#32, 0xFFFF#16⟩,
           ldtr := ⟨0#16, 0#32, 0xFFFF#32, ⟨2#4, false, 0#2, true, false, false, false⟩⟩,
           tr := ⟨0#16, 0#32, 0xFFFF#32, ⟨11#4, false, 0#2, true, false, false, false⟩⟩,
           cr0 := cr0, cr2 := 0#32, cr3 := 0#32, cr4 := 0#32,
           pdpte0 := 0#64, pdpte1 := 0#64, pdpte2 := 0#64, pdpte3 := 0#64,
           dr0 := 0#32, dr1 := 0#32, dr2 := 0#32, dr3 := 0#32, dr6 := 0xFFFF0FF0#32, dr7 := 0x400#32 }

/-- The local APIC after power-up or reset (R552) with its APIC ID and arbitration ID. -/
def Apic.reset (id : Word) (arb : BitVec 4) : Apic where
  id := id
  tpr := 0#8
  ldr := 0#32
  dfr := 0xFFFFFFFF#32
  svr := 0xFF#32
  isr := 0#256
  tmr := 0#256
  irr := 0#256
  esr := 0#8
  errs := 0#8
  icrLo := 0#32
  icrHi := 0#32
  lvtTimer := 0x10000#32
  lvtThermal := 0x10000#32
  lvtPerf := 0x10000#32
  lvtLint0 := 0x10000#32
  lvtLint1 := 0x10000#32
  lvtError := 0x10000#32
  initCount := 0#32
  curCount := 0#32
  divide := 0#32
  arbId := arb
  intr := none
  disabled := false
  remoteVec := 0#8
  remoteServed := false
  coreWait := []
  selfRetry := []
  busWait := false

/-- The APIC ID register for a hardware-assigned ID: bits 31:24 (R489). -/
def Apic.idWord (id : Byte) : Word := id.setWidth 32 <<< 24

/-- The instruction context between instructions. -/
def InsnCtx.idle : InsnCtx := ⟨0#32, Pfx.none, false⟩

/-- No event pending, no pin asserted (R571). -/
def Pending.reset : Pending where
  nmi := false
  nmiBlocked := false
  smi := false
  init := false
  sipi := none
  extInt := false
  taskTrap := false
  stepTrap := false
  held := []
  delivering := none
  reattempt := none
  lint0 := false
  lint1 := false
  stpclk := false
  a20m := false
  ignne := false
  intaVector := 0#8

/-- The activity state after RESET or INIT (R571): an application processor waits for a SIPI. -/
def Activity.reset (bsp : Bool) : Activity := ⟨false, false, false, !bsp, none, .none⟩

/-- x87, MMX and SIMD state after power-up (R571). -/
def FpuState.reset : FpuState :=
  ⟨Vector.replicate 8 0#80, 0x40#16, 0#16, 0x5555#16, 0#48, 0#48, 0#11, Vector.replicate 8 0#64,
    Vector.replicate 8 0#128, 0x1F80#32⟩

/-- The MSRs after reset (R488, R571): IA32_APIC_BASE holds FEE00000H, globally enabled, BSP flag; EXTRA_MSRS hold what
the harness gives them (D14). -/
def Msrs.reset (bsp : Bool) (extra : List (Word × Quad)) : Msrs :=
  ⟨0#64, if bsp then 0xFEE00900#64 else 0xFEE00800#64, 0#64, 0#64, 0#64, extra⟩

/-- The machine with the given parameters right after power-up or RESET (R570, R571). -/
def State.resetWith (c : Config.Params) : State where
  gpr := (Proc.reset c.signature 0x60000010#32).gpr
  eip := (Proc.reset c.signature 0x60000010#32).eip
  eflags := (Proc.reset c.signature 0x60000010#32).eflags
  segs := (Proc.reset c.signature 0x60000010#32).segs
  sys := (Proc.reset c.signature 0x60000010#32).sys
  msr := Msrs.reset c.isBsp c.extraMsrs
  fpu := FpuState.reset
  apic := Apic.reset (Apic.idWord c.initialApicId) (c.initialApicId.setWidth 4)
  mem := []
  memWb := []
  tlb := []
  act := Activity.reset c.isBsp
  pend := Pending.reset
  smm := none
  ctx := InsnCtx.idle
  cfg := c
  bus := []
  inputs := []
  free := 0

/-- The machine right after reset: the default machine of D30. -/
def State.reset : State := State.resetWith Config.default

end Sys2Proof.Machine
end

