-- ==== Sys2Proof/Machine/Memory.lean ====
section
/-! DEFINITION. Physical memory as a list of (address, byte) pairs in one canonical form (R80), and the state's
reads and writes of physical bytes. -/
namespace Sys2Proof.Machine

/-- What an address that no entry lists reads as (DESIGN CHOICE, unsafe, log 1). -/
def Memory.unlisted : Byte := 0#8

/-- The byte at a physical address. -/
def Memory.read : Memory → Nat → Byte
  | [], _ => Memory.unlisted
  | (k, v) :: m, a => if a = k then v else Memory.read m a

/-- A memory without any entry for an address. -/
def Memory.drop (m : Memory) (a : Nat) : Memory := m.filter fun c => c.1 != a

/-- A memory with an entry put in address order. -/
def Memory.insert : Memory → Nat → Byte → Memory
  | [], a, b => [(a, b)]
  | (k, v) :: m, a, b => if a < k then (a, b) :: (k, v) :: m else (k, v) :: Memory.insert m a b

/-- Writes one byte; writing what an unlisted address reads as removes the entry. -/
def Memory.write (m : Memory) (a : Nat) (b : Byte) : Memory :=
  if b = Memory.unlisted then m.drop a else Memory.insert (m.drop a) a b

/-- The canonical form: addresses strictly rising, no byte equal to what an unlisted address reads as. -/
def Memory.wf : Memory → Bool
  | [] => true
  | [(_, v)] => v != Memory.unlisted
  | (k, v) :: (k', v') :: m => decide (k < k') && v != Memory.unlisted && Memory.wf ((k', v') :: m)

/-- Writes bytes at the addresses given for them. -/
def Memory.writes : Memory → List (Nat × Byte) → Memory
  | m, [] => m
  | m, (a, b) :: r => Memory.writes (m.write a b) r

/-- Whether a physical address is backed by memory (D9). -/
def inRam (s : State) (a : Nat) : Bool := s.cfg.ramHoles.all fun h => a < h.1 || h.2 < a

/-- The memory type of a physical address outside the local APIC's page: the type of the first range that holds it, else
WB (D7, R590). -/
def memTypeAt (c : Config.Params) (a : Nat) : Config.MemType :=
  match c.memTypes.find? fun r => decide (r.1 ≤ a ∧ a ≤ r.2.1) with
  | some r => r.2.2
  | none => .wb

/-- The byte at a physical address of the machine: memory, or all ones where there is none (D9). -/
def State.physByte (s : State) (a : Nat) : Byte := if inRam s a then s.mem.read a else 0xFF#8

/-- The little-endian number in `n` bytes of physical memory (R83). -/
def State.physRead (s : State) (a n : Nat) : Nat := leNat ((List.range n).map fun k => s.physByte (a + k))

/-- A store to the armed monitor range disarms the monitor and ends an MWAIT wait (R385). -/
def monitorHit (s : State) (as : List Nat) : Bool :=
  match s.act.monitor with
  | some r => as.any fun a => decide (r.base ≤ a ∧ a < r.base + r.len)
  | none => false

/-- Disarms the monitor and ends an MWAIT wait (R385). -/
def disarm (s : State) : State := { s with act := { s.act with monitor := none, mwaiting := false } }

/-- Stores bytes in physical memory; stores where there is no memory are dropped (D9). A store to FEEx xxxxH beyond the APIC's
page is one to memory: an interrupt message arrives by `Input.msi` only (R561; DESIGN CHOICE, log 28). -/
def State.physWrite (s : State) (ws : List (Nat × Byte)) : State :=
  let s' := { s with mem := s.mem.writes (ws.filter fun w => inRam s w.1) }
  if monitorHit s (ws.map Prod.fst) then disarm s' else s'

/-- A store by another agent reaches memory itself, not only this processor's caches. Addresses are those of the
36-bit physical space (R80). -/
def State.agentWrite (s : State) (ws : List (Nat × Byte)) : State :=
  let ws := ws.filter fun w => decide (w.1 < 2 ^ 36)
  let s' := s.physWrite ws
  { s' with memWb := s'.memWb.writes (ws.filter fun w => inRam s w.1) }

/-- Consecutive addresses paired with the bytes of a list. -/
def pairFrom (a : Nat) : List Byte → List (Nat × Byte)
  | [] => []
  | b :: bs => (a, b) :: pairFrom (a + 1) bs

end Sys2Proof.Machine
end

