-- ==== Sys2Proof/Machine/Flags.lean ====
section
/-! DEFINITION. The EFLAGS image (R24) and the flag functions of R602. -/
namespace Sys2Proof.Machine

/-- The 32-bit image of EFLAGS (R24): bit 1 reads 1, the other reserved bits 0. -/
def Eflags.toWord (f : Eflags) : Word :=
  0#10 ++ BitVec.ofBool f.id ++ BitVec.ofBool f.vip ++ BitVec.ofBool f.vif ++ BitVec.ofBool f.ac ++
    BitVec.ofBool f.vm ++ BitVec.ofBool f.rf ++ 0#1 ++ BitVec.ofBool f.nt ++ f.iopl ++ BitVec.ofBool f.ovf ++
    BitVec.ofBool f.df ++ BitVec.ofBool f.intf ++ BitVec.ofBool f.tf ++ BitVec.ofBool f.sf ++
    BitVec.ofBool f.zf ++ 0#1 ++ BitVec.ofBool f.af ++ 0#1 ++ BitVec.ofBool f.pf ++ 1#1 ++ BitVec.ofBool f.cf

/-- EFLAGS from a 32-bit image; the reserved bits of the image are ignored (R24, U1). -/
def Eflags.ofWord (w : Word) : Eflags where
  cf := w.getLsbD 0
  pf := w.getLsbD 2
  af := w.getLsbD 4
  zf := w.getLsbD 6
  sf := w.getLsbD 7
  tf := w.getLsbD 8
  intf := w.getLsbD 9
  df := w.getLsbD 10
  ovf := w.getLsbD 11
  iopl := w.extractLsb' 12 2
  nt := w.getLsbD 14
  rf := w.getLsbD 16
  vm := w.getLsbD 17
  ac := w.getLsbD 18
  vif := w.getLsbD 19
  vip := w.getLsbD 20
  id := w.getLsbD 21

/-- Operand widths of the integer instructions (R93, R202). -/
inductive Sz where
  | b | w | d
  deriving DecidableEq, Repr

/-- Width in bits. -/
def Sz.bits : Sz → Nat
  | .b => 8 | .w => 16 | .d => 32
/-- Width in bytes. -/
def Sz.bytes : Sz → Nat
  | .b => 1 | .w => 2 | .d => 4
/-- A word cut to the width. -/
def Sz.trunc (z : Sz) (v : Word) : Word := BitVec.ofNat 32 (v.toNat % 2 ^ z.bits)
/-- The sign bit of a value of the width. -/
def Sz.msb (z : Sz) (v : Word) : Bool := v.getLsbD (z.bits - 1)

/-- PF: the low eight bits hold an even number of ones (R602). -/
def parityEven (v : Word) : Bool :=
  !((v.getLsbD 0).xor ((v.getLsbD 1).xor ((v.getLsbD 2).xor ((v.getLsbD 3).xor
    ((v.getLsbD 4).xor ((v.getLsbD 5).xor ((v.getLsbD 6).xor (v.getLsbD 7))))))))

/-- ZF, SF and PF from a result of the width (R602). -/
def resultFlags (z : Sz) (r : Word) (f : Eflags) : Eflags :=
  { f with zf := r == 0#32, sf := z.msb r, pf := parityEven r }

/-- `a + b + c` cut to the width (R602, R611, R612). -/
def addRes (z : Sz) (a b : Word) (c : Bool) : Word := z.trunc (BitVec.ofNat 32 (a.toNat + b.toNat + b2n c))

/-- The flags of `a + b + c` for operands of the width (R602). -/
def addFlags (z : Sz) (a b : Word) (c : Bool) (f : Eflags) : Eflags :=
  let r := addRes z a b c
  { resultFlags z r f with
    cf := decide (2 ^ z.bits ≤ a.toNat + b.toNat + b2n c)
    ovf := z.msb a == z.msb b && z.msb r != z.msb a
    af := decide (16 ≤ a.toNat % 16 + b.toNat % 16 + b2n c) }

/-- `a - b - c` cut to the width (R602, R613, R614). -/
def subRes (z : Sz) (a b : Word) (c : Bool) : Word := z.trunc (a - b - (if c then 1#32 else 0#32))

/-- The flags of `a - b - c` for operands of the width (R602). -/
def subFlags (z : Sz) (a b : Word) (c : Bool) (f : Eflags) : Eflags :=
  let r := subRes z a b c
  { resultFlags z r f with
    cf := decide (a.toNat < b.toNat + b2n c)
    ovf := z.msb a != z.msb b && z.msb r != z.msb a
    af := decide (a.toNat % 16 < b.toNat % 16 + b2n c) }

/-- The flags of a logical operation with result `r`; `af` is the free value of AF (R602, D26, log 10). -/
def logicFlags (z : Sz) (r : Word) (af : Bool) (f : Eflags) : Eflags :=
  { resultFlags z r f with cf := false, ovf := false, af := af }

end Sys2Proof.Machine
end

