-- ==== Sys2Proof/Machine/Monad.lean ====
section
/-! DEFINITION. The exceptions (R402) and the computations an instruction is made of: they read and change the
state, or end in an exception, a refusal or a fault. -/
namespace Sys2Proof.Machine

/-- The exceptions the machine raises, with their error codes (R402, R403). -/
inductive Exc where
  | de
  | db
  | br
  | ud
  | nm
  | df
  | ts (code : Half)
  | np (code : Half)
  | ss (code : Half)
  | gp (code : Half)
  | pf (code : Word)
  | mf
  | ac
  | mc
  | xf
  deriving DecidableEq, Repr

/-- The vector of an exception (R402). -/
def Exc.vector : Exc → Byte
  | .de => 0#8 | .db => 1#8 | .br => 5#8 | .ud => 6#8 | .nm => 7#8 | .df => 8#8 | .ts _ => 10#8 | .np _ => 11#8
  | .ss _ => 12#8 | .gp _ => 13#8 | .pf _ => 14#8 | .mf => 16#8 | .ac => 17#8 | .mc => 18#8 | .xf => 19#8

/-- The error code an exception pushes, if any (R402, R403). -/
def Exc.code : Exc → Option Word
  | .df => some 0#32
  | .ts c | .np c | .ss c | .gp c => some (c.setWidth 32)
  | .pf c => some c
  | .ac => some 0#32
  | _ => none

/-- How a computation ends other than normally: a fault-class exception, which abandons the instruction's
effects; an exception in the state reached (a task switch past its commit point, R326, R404; a debug trap,
R431); a refusal; a fault of the model. -/
inductive Stop where
  | raise (e : Exc)
  | trap (e : Exc)
  | refuse (r : Refusal)
  | fault (f : Fault)
  deriving DecidableEq, Repr

/-- A computation over the machine's state. -/
abbrev M (α : Type) := EStateM Stop State α

/-- Raises a fault-class exception (R12 `raise`). -/
def raise {α : Type} (e : Exc) : M α := throw (.raise e)
/-- `#GP(0)`. -/
def gp0 {α : Type} : M α := raise (.gp 0#16)
/-- Refuses to go on. -/
def refuse {α : Type} (r : Refusal) : M α := throw (.refuse r)

/-- Raises an exception if a check fails. -/
def require (ok : Bool) (e : Exc) : M Unit := if ok then pure () else raise e

/-- A fresh index for a free value (log 10). -/
def fresh : M Nat := modifyGet fun s => (s.free, { s with free := s.free + 1 })

/-- A free flag. -/
def freshBit : M Bool := do return Config.freeBit (← fresh)

/-- CR0 flags (R35). -/
def State.pe (s : State) : Bool := bit s.sys.cr0 0
/-- CR0.PG (R35). -/
def State.pg (s : State) : Bool := bit s.sys.cr0 31
/-- Virtual-8086 mode: protected mode with EFLAGS.VM = 1 (R21). -/
def State.v86 (s : State) : Bool := s.pe && s.eflags.vm
/-- Protected mode proper (R21). -/
def State.prot (s : State) : Bool := s.pe && !s.eflags.vm
/-- The current privilege level: 0 in real-address mode (R455, R571), 3 in virtual-8086 mode (R449), else
CS.sel[1:0] (R145). -/
def State.cpl (s : State) : Nat :=
  if !s.pe then 0 else if s.eflags.vm then 3 else s.segs.cs.sel.toNat % 4
/-- IOPL as a number (R24). -/
def State.iopl (s : State) : Nat := s.eflags.iopl.toNat

/-- The decode context: CS.D and the prefixes read (R202, R207). -/
def State.dctx (s : State) : DecodeCtx := ⟨s.segs.cs.attr.db, s.ctx.pfx⟩
/-- The operand size of a `w` = 1 opcode (R202). -/
def State.osz (s : State) : Sz := if s.dctx.osz16 then .w else .d
/-- Whether a LOCK prefix was read. -/
def State.locked (s : State) : Bool := s.ctx.pfx.lock

end Sys2Proof.Machine
end

