-- ==== Sys2Proof/Machine/Apic.lean ====
section
/-! DEFINITION. The local APIC (spec/61_local_apic.md): registers, error logic, timer, sending, accepting and
dispensing interrupts. -/
namespace Sys2Proof.Machine

/-! ## Identity and enabling -/

/-- Whether the APIC transport is the system bus (R482). -/
def State.isXapic (s : State) : Bool := s.cfg.apicGen == .xapic
/-- The implementation is of the P6 family or later (R6). -/
def State.fromP6 (s : State) : Bool := s.cfg.family == .p6 || s.cfg.family == .p4Xeon
/-- The APIC is present and globally enabled (R483, R487, R488). -/
def State.apicOn (s : State) : Bool := s.cfg.hasApic && s.msr.apicBase.getLsbD 11
/-- The APIC is present, globally enabled and software enabled (R550). -/
def State.apicSoft (s : State) : Bool := s.apicOn && bit s.apic.svr 8
/-- The physical base of the register page: bits 35:12 of IA32_APIC_BASE (R487). -/
def State.apicPage (s : State) : Nat := s.msr.apicBase.toNat / 4096 % 2 ^ 24
/-- Whether a physical address lies in the register page of the enabled APIC (R484, R488). -/
def State.inApic (s : State) (a : Nat) : Bool := s.apicOn && a / 4096 == s.apicPage

/-- `mem_type` of R590: the local APIC's page is UC (R484), any other address as the parameters say, by default WB (D7). -/
def State.memType (s : State) (a : Nat) : Config.MemType := if s.inApic a then .uc else memTypeAt s.cfg a

/-- The APIC ID: 8 bits, or 4 bits on the APIC bus (R489). -/
def State.apicId (s : State) : Nat := if s.isXapic then field s.apic.id 24 8 else field s.apic.id 24 4
/-- The broadcast destination (R527). -/
def State.broadcastId (s : State) : Nat := if s.isXapic then 255 else 15

/-! ## Priorities -/

/-- The highest bit below `n` that is set. -/
def topBit (x : BitVec 256) : Nat → Option Nat
  | 0 => none
  | n + 1 => if x.getLsbD n then some n else topBit x n

/-- The highest vector set in a 256-bit register (R543). -/
def highest (x : BitVec 256) : Option Nat := if x == 0#256 then none else topBit x 256

/-- A 256-bit register with one bit set or cleared. -/
def setVec (x : BitVec 256) (v : Nat) (b : Bool) : BitVec 256 :=
  if b then x ||| (1#256 <<< v) else x &&& ~~~(1#256 <<< v)

/-- The highest vector, or 0 (R536, R542). -/
def highestOr0 (x : BitVec 256) : Nat := (highest x).getD 0

/-- The processor priority register (R542, C10). -/
def Apic.ppr (a : Apic) : Nat :=
  if highestOr0 a.isr / 16 ≤ a.tpr.toNat / 16 then a.tpr.toNat else highestOr0 a.isr / 16 * 16

/-- The arbitration priority register (R536, C10): the AND of the printed formula is bitwise on four bits. -/
def Apic.apr (a : Apic) : Nat :=
  let t := a.tpr.toNat / 16
  let r := highestOr0 a.irr / 16
  let v := highestOr0 a.isr / 16
  if r ≤ t ∧ v < t then a.tpr.toNat else 16 * max (t &&& v) r

/-- The vector the APIC offers the core: the highest IRR bit above the processor priority (R544). -/
def Apic.offer (a : Apic) : Option Nat :=
  match highest a.irr with
  | some v => if a.ppr / 16 < v / 16 then some v else none
  | none => none

/-- Dispenses a vector: its bit moves from IRR to ISR (R544). If it is the vector of the interrupt that set LINT0's remote
IRR flag, that interrupt is now in service: its EOI clears the flag (R508). -/
def Apic.dispense (a : Apic) (v : Nat) : Apic :=
  { a with
    irr := setVec a.irr v false
    isr := setVec a.isr v true
    intr := none
    remoteServed := a.remoteServed || a.remoteVec.toNat == v }

/-! ## Acceptance of interrupts -/

/-- How many bits of a register are set in a priority class (R540, R545). -/
def classCount (x : BitVec 256) (cls : Nat) : Nat :=
  ((List.range 16).filter fun k => x.getLsbD (16 * cls + k)).length

/-- Whether a slot is free for a vector: always on the system bus; on the APIC bus two slots a priority class
(R545, R539 step 3). A second request for a vector whose IRR bit is set finds none there (DESIGN CHOICE, log 39). -/
def State.slotFree (s : State) (v : Nat) : Bool :=
  s.isXapic || (!s.apic.irr.getLsbD v && decide (classCount s.apic.irr (v / 16) + classCount s.apic.isr (v / 16) < 2))

/-- Logs an accepted interrupt in IRR and TMR (R538, R543). -/
def Apic.log (a : Apic) (v : Nat) (level : Bool) : Apic :=
  { a with irr := setVec a.irr v true, tmr := setVec a.tmr v level }

/-- An LVT register. -/
def Apic.lvt (a : Apic) : Lvt → Word
  | .timer => a.lvtTimer | .thermal => a.lvtThermal | .perf => a.lvtPerf
  | .lint0 => a.lvtLint0 | .lint1 => a.lvtLint1 | .error => a.lvtError

/-- An LVT register replaced. -/
def Apic.setLvt (a : Apic) (e : Lvt) (w : Word) : Apic :=
  match e with
  | .timer => { a with lvtTimer := w }
  | .thermal => { a with lvtThermal := w }
  | .perf => { a with lvtPerf := w }
  | .lint0 => { a with lvtLint0 := w }
  | .lint1 => { a with lvtLint1 := w }
  | .error => { a with lvtError := w }

/-- Records errors, as ESR bits, and sends the error interrupt if its entry is unmasked (R513, R514). An illegal vector in
the error entry itself only records bit 6. -/
def State.apicErrors (s : State) (bits : Byte) : State :=
  let a := { s.apic with errs := s.apic.errs ||| bits }
  let v := field a.lvtError 0 8
  if bit a.lvtError 16 then { s with apic := a }
  else if v < 16 then { s with apic := { a with errs := a.errs ||| 0x40#8 } }
  else if s.slotFree v then { s with apic := { a.log v false with lvtError := setBit a.lvtError 12 false } }
  else { s with apic := { a with lvtError := setBit a.lvtError 12 true } }

/-- Records the error of one ESR bit (R513). -/
def State.apicError (s : State) (k : Nat) : State := s.apicErrors (1#8 <<< k)

/-- The core waits for a SIPI, and none has come (R465). -/
def State.awaitsSipi (s : State) : Bool := s.act.waitSipi && s.pend.sipi.isNone

/-- A request reaches the core and is pending (R411); a core that waits for a SIPI ignores it (R465, log 35). -/
def State.post (s : State) (f : Pending → Pending) : State := if s.awaitsSipi then s else { s with pend := f s.pend }

/-- Hands an INIT request to the core (R411, R552). -/
def State.postInit (s : State) : State := s.post fun p => { p with init := true }
/-- Hands an NMI to the core (R406, R552). -/
def State.postNmi (s : State) : State := s.post fun p => { p with nmi := true }
/-- Hands an SMI to the core (R411). -/
def State.postSmi (s : State) : State := s.post fun p => { p with smi := true }
/-- Hands an ExtINT request to the core (R538). -/
def State.postExtInt (s : State) : State := s.post fun p => { p with extInt := true }
/-- A start-up IPI: a waiting processor latches its vector, any other ignores it, one that a SIPI has started too (R411,
R465). -/
def State.postSipi (s : State) (v : Byte) : State :=
  if s.awaitsSipi then { s with pend := { s.pend with sipi := some v } } else s

/-- Hands a local interrupt to the core by its delivery mode; until the core accepts it the entry reads as send-pending
(R508, R519). -/
def State.postLocal (s : State) (e : Lvt) (m : DelMode) : State :=
  let t := match m with
    | .smi => s.postSmi
    | .nmi => s.postNmi
    | .init => s.postInit
    | _ => s.postExtInt
  if s.apic.coreWait.contains (e, m) then t
  else { t with apic := { t.apic with coreWait := t.apic.coreWait ++ [(e, m)] } }

/-- The core has accepted the local interrupts of a delivery mode (R508). -/
def Apic.taken (a : Apic) (m : DelMode) : Apic := { a with coreWait := a.coreWait.filter fun x => x.2 != m }

/-- A fixed or lowest-priority interrupt that reached this APIC as a message; on the APIC bus a full queue sends it back to
its sender, another agent or (`own`) this APIC, which sends it again (R538, R539, R518). -/
def State.acceptFixed (s : State) (v : Byte) (level own : Bool) : State :=
  if v.toNat < 16 then s.apicError 6
  else if s.slotFree v.toNat then { s with apic := s.apic.log v.toNat level }
  else if own then { s with apic := { s.apic with selfRetry := s.apic.selfRetry ++ [v] } }
  else { s with bus := s.bus ++ [.retry v] }

/-- The self-interrupts that were sent back are sent again (R539). -/
def State.resendSelf (s : State) : State :=
  s.apic.selfRetry.foldl (fun t v => t.acceptFixed v false true) { s with apic := { s.apic with selfRetry := [] } }

/-- Fixed delivery of a local interrupt (R519): accepted into the IRR (a level-triggered LINT0 sets its remote
IRR flag, which the EOI of this vector clears, R508), or send-pending until a slot is free; with an illegal vector it is not
delivered, and no longer waits for a slot (R518). -/
def State.localFixed (s : State) (e : Lvt) (level : Bool) : State :=
  let w := s.apic.lvt e
  let v := field w 0 8
  if v < 16 then ({ s with apic := s.apic.setLvt e (setBit w 12 false) } : State).apicError 6
  else if s.slotFree v then
    let a := (s.apic.log v level).setLvt e (setBit (if level then setBit w 14 true else w) 12 false)
    { s with apic := if level then { a with remoteVec := BitVec.ofNat 8 v, remoteServed := false } else a }
  else { s with apic := s.apic.setLvt e (setBit w 12 true) }

/-- Whether an LVT entry in fixed mode is level sensitive (R508): LINT0 with bit 15 set, and, from the P6 family on, LINT0
whatever the bit says when there is no I/O APIC. LINT1 has no level mode. -/
def State.levelMode (s : State) (e : Lvt) (w : Word) : Bool :=
  e == .lint0 && (bit w 15 || (!s.cfg.ioApic && s.fromP6))

/-- The effect of an unmasked local interrupt by its delivery mode (R508, R519). An interrupt that was sent back when the
entry was in fixed mode is sent again in the mode the entry has now (log 39), and no longer waits for a slot. -/
def localDeliver (e : Lvt) : M Unit := do
  let s ← get
  let w := s.apic.lvt e
  if bit w 16 then return
  let mode := if e == .timer || e == .error then 0 else field w 8 3
  let t := { s with apic := s.apic.setLvt e (setBit w 12 false) }
  match mode with
  | 0 => set (s.localFixed e (s.levelMode e w))
  | 2 => set (t.postLocal e .smi)
  | 4 => set (t.postLocal e .nmi)
  | 5 => set (t.postLocal e .init)
  | 7 => set (if e == .lint0 || e == .lint1 then t else t.postLocal e .extInt)
  | _ => throw (.fault .lvtReservedMode)

/-- A performance-counter interrupt: the Pentium 4 and Intel Xeon set the entry's mask themselves (R508). -/
def perfDeliver : M Unit := do
  localDeliver .perf
  modify fun s =>
    if s.isXapic then { s with apic := { s.apic with lvtPerf := setBit s.apic.lvtPerf 16 true } } else s

/-- Whether a LINT pin is active under its LVT entry's polarity (R508); active high without an APIC (R551). -/
def State.pinActive (s : State) (e : Lvt) : Bool :=
  let p := if e == .lint0 then s.pend.lint0 else s.pend.lint1
  if s.apicSoft then p != bit (s.apic.lvt e) 13 else p

/-- An unmasked LINT entry in ExtINT mode whose pin is active: ExtINT is level sensitive (R508). -/
def State.extIntPin (s : State) (e : Lvt) : Bool :=
  s.apicSoft && (e == .lint0 || e == .lint1) && !bit (s.apic.lvt e) 16 && field (s.apic.lvt e) 8 3 == 7 && s.pinActive e

/-- The core's INTR request that an external 8259A answers: an ExtINT message, the LINT0 pin of a disabled APIC,
or an unmasked LINT entry in ExtINT mode (R412, R508, R551). -/
def State.intrLine (s : State) : Bool :=
  s.pend.extInt ||
    (if s.apicSoft then s.extIntPin .lint0 || s.extIntPin .lint1 else s.pend.lint0)

/-- A change of a LINT pin: the edge-sensitive modes act on the edge to active (R508, R551). -/
def lintEdge (e : Lvt) (wasActive : Bool) : M Unit := do
  let s ← get
  if s.pinActive e && !wasActive then
    if !s.apicSoft then
      if e == .lint1 then set s.postNmi
    else if s.levelMode e (s.apic.lvt e) && field (s.apic.lvt e) 8 3 == 0 then pure ()
    else localDeliver e

/-- Level-sensitive LINT0 in fixed mode: delivered while the pin is active and the remote IRR flag is clear; and
interrupts sent back for want of a slot are retried, those to itself and local ones (R508, R519, R539). With an illegal vector
the error is signalled anew at every boundary at which LINT0 is active (DESIGN CHOICE, log 41). An entry holds one waiting
interrupt, and those that wait are retried in a fixed order (DESIGN CHOICE, log 39). -/
def pollLocal : M Unit := do
  modify fun s => if s.apicOn then s.resendSelf else s
  let s ← get
  if s.apicSoft then
    let w := s.apic.lvtLint0
    if !bit w 16 && field w 8 3 == 0 && s.levelMode .lint0 w && !bit w 14 && s.pinActive .lint0 then localDeliver .lint0
    for e in [Lvt.timer, Lvt.thermal, Lvt.perf, Lvt.lint0, Lvt.lint1, Lvt.error] do
      if bit ((← get).apic.lvt e) 12 then localDeliver e

/-! ## Messages -/

/-- The comparison of a logical destination with this APIC's logical ID (R528). -/
def acceptLogical (mda : Nat) : M Bool := do
  let s ← get
  let id := field s.apic.ldr 24 8
  match field s.apic.dfr 28 4 with
  | 15 => return mda &&& id != 0
  | 0 =>
    if mda / 16 == 15 then return mda % 16 &&& id % 16 != 0
    else return mda / 16 == id / 16 && mda % 16 &&& id % 16 != 0
  | _ => refuse .dfrModel

/-- Whether a message is for this APIC (R525 to R528). -/
def isDestination (dest : Nat) (logical : Bool) : M Bool := do
  let s ← get
  if logical then acceptLogical dest
  else
    let d := if s.isXapic then dest else dest % 16
    return d == s.apicId || d == s.broadcastId

/-- Whether this processor is the focus of an interrupt (R535). -/
def State.focus (s : State) (v : Nat) : Bool :=
  !s.isXapic && !bit s.apic.svr 9 && (s.apic.irr.getLsbD v || s.apic.isr.getLsbD v)

/-- The effect of a message that is for this APIC (R538, R539); `own`: this APIC sent it. A software-disabled APIC
responds to INIT, NMI, SMI and start-up messages only (R551; that it drops the others is DEDUCED, log 26). The messages of
the selection of a bootstrap processor, which is over (R463), have no effect (log 35). -/
def takeMessage (mode : DelMode) (v : Byte) (level chosen own : Bool) : M Unit :=
  modify fun s =>
    match mode with
    | .fixed => if s.apicSoft then s.acceptFixed v level own else s
    | .lowest => if s.apicSoft && (chosen || s.focus v.toNat) then s.acceptFixed v level own else s
    | .smi => s.postSmi
    | .nmi => s.postNmi
    | .init => s.postInit
    | .startUp => s.postSipi v
    | .extInt => if s.apicSoft then s.postExtInt else s
    | .initDeassert =>
      if s.isXapic then s else { s with apic := { s.apic with arbId := BitVec.ofNat 4 s.apicId } }
    | .bipi | .fipi => s

/-- The messages that go to every APIC whatever their destination (R521, R554, R463). -/
def DelMode.toAll : DelMode → Bool
  | .initDeassert | .bipi | .fipi => true
  | _ => false

/-- A physical broadcast (R527). -/
def State.physBroadcast (s : State) (dest : Nat) (logical : Bool) : Bool :=
  !logical && (if s.isXapic then dest else dest % 16) == s.broadcastId

/-- Whether this processor, a destination, is the only one: it is named by its own ID, or the system has no other
(R521, R535). -/
def State.soleTarget (s : State) (dest : Nat) (logical : Bool) : Bool :=
  decide (s.cfg.nLogical * s.cfg.nPackages ≤ 1) || (!logical && !s.physBroadcast dest logical)

/-- Another agent won an arbitration of the APIC bus: the arbitration ID rises by 1 (R537; from 15 to a free value). -/
def arbitrationLost : M Unit := do
  let s ← get
  if !s.isXapic then
    if s.apic.arbId == 15#4 then
      let k ← fresh
      modify fun s => { s with apic := { s.apic with arbId := (Config.freeWord k).setWidth 4 } }
    else set { s with apic := { s.apic with arbId := s.apic.arbId + 1#4 } }

/-- This APIC sends on the bus: on the APIC bus it has won the arbitration, so its arbitration ID becomes 0 (R537). -/
def State.send (s : State) (e : BusEvent) : State :=
  { s with
    bus := s.bus ++ [e]
    apic := { s.apic with arbId := if s.isXapic then s.apic.arbId else 0#4 } }

/-- A message from the bus (R531, R538, R539); without an enabled APIC it is not seen (R488). The INIT level
de-assert message goes to every APIC (R521, R554). A lowest-priority physical broadcast is refused (R527). -/
def acceptMessage (m : IntMsg) : M Unit := do
  if (← get).apicOn then
    arbitrationLost
    let s ← get
    if m.mode.toAll then takeMessage m.mode m.vector m.level m.chosen false
    else
      if m.mode == .lowest && s.physBroadcast m.dest.toNat m.logical then refuse .lowestBroadcast
      if ← isDestination m.dest.toNat m.logical then
        takeMessage m.mode m.vector m.level (m.chosen || s.soleTarget m.dest.toNat m.logical) false

/-- The delivery mode of an MSI (R562). -/
def msiMode : Nat → Option DelMode
  | 0 => some .fixed | 1 => some .lowest | 2 => some .smi | 4 => some .nmi | 5 => some .init | 7 => some .extInt
  | _ => none

/-- A message signalled interrupt, decoded by R561 and R562; the APIC-bus generation does not accept it (R560). With RH = 0 the
destination is taken as physical (DESIGN CHOICE, log 25); a redirected message reaches the processor the platform chose, and
the destination FFH, which R561 forbids there, is one as any other (DESIGN CHOICE, log 25). Only fixed and lowest-priority
messages can be level triggered, so only those have a de-assert form. -/
def acceptMsi (addr data : Word) (chosen : Bool) : M Unit := do
  let s ← get
  if s.apicOn && s.isXapic then
    if field addr 20 12 != 0xFEE then refuse .msiReserved
    match msiMode (field data 8 3) with
    | none => refuse .msiReserved
    | some mode =>
      let fixed := mode == .fixed || mode == .lowest
      let level := bit data 15 && fixed
      let redirected := bit addr 3
      let logical := bit addr 2 && redirected
      let dest := field addr 12 8
      if mode == .lowest && s.physBroadcast dest logical then refuse .lowestBroadcast
      if level && !bit data 14 then pure ()
      else if ← isDestination dest logical then
        let chosen := chosen || s.soleTarget dest logical
        if !logical || chosen then takeMessage mode (data.setWidth 8) level chosen false

/-! ## Sending -/

/-- The delivery mode of the ICR (R520, R521): `none` for the reserved codes and for the levels that the rules do
not describe. On the system bus the level and trigger flags have no meaning, except that the unsupported INIT
level de-assert form is refused (log 16). -/
def icrMode (xapic : Bool) (w : Word) : Option DelMode :=
  let level := bit w 14
  let trig := bit w 15
  match field w 8 3 with
  | 0 => if xapic || level then some .fixed else none
  | 1 => if xapic || level then some .lowest else none
  | 2 => if xapic || level then some .smi else none
  | 4 => if xapic || level then some .nmi else none
  | 5 =>
    if !level && trig then (if xapic then none else some .initDeassert)
    else if xapic || level then some .init else none
  | 6 => if xapic || level then some .startUp else none
  | _ => none

/-- The destination an IPI's message carries (R520, R524, R527): a broadcast for the shorthands that include others, else
the ICR's field. -/
def State.ipiDest (s : State) (sh : Nat) (logical : Bool) : Nat :=
  if sh == 2 || sh == 3 then s.broadcastId
  else field s.apic.icrHi 24 (if s.isXapic || logical then 8 else 4)

/-- The message of an IPI as ICR fields (R520, R524): on the system bus level 1 and trigger mode 0; a shorthand's
broadcast destination, physical for "all excluding self", in the ICR's destination mode for "all including self" (DESIGN CHOICE,
log 43). -/
def State.ipiMessage (s : State) (w : Word) : BusEvent :=
  let sh := field w 18 2
  let w := if sh == 3 then setBit w 11 false else w
  let w := if s.isXapic then setBit (setBit w 14 true) 15 false else w
  .ipi (BitVec.ofNat 32 (s.ipiDest sh (bit w 11)) <<< 24) w

/-- Whether an IPI is for this processor too (R521, R524, R525): a shorthand says so, or its destination. -/
def ipiToSelf (mode : DelMode) (sh dest : Nat) (logical : Bool) : M Bool :=
  if mode.toAll then pure true
  else match sh with
    | 0 => isDestination dest logical
    | 3 => pure false
    | _ => pure true

/-- Whether this processor, among the destinations of an IPI, takes it: a lowest-priority message goes to it or not by the
platform's choice, unless no other can take it (R521, R535, D25). -/
def ipiChosen (mode : DelMode) (sole : Bool) : M Bool := if mode == .lowest && !sole then freshBit else pure true

/-- Sends the IPI the ICR describes (R520 to R528, R531). The message leaves on the bus unless its shorthand is "self";
this processor accepts it when it is among the destinations and chosen. An illegal vector is one sent, and, in a self IPI,
one received too (R513); a self IPI is one with the shorthand "self" (DESIGN CHOICE, log 39), which goes with every delivery
mode (DESIGN CHOICE, log 43). R524 leaves an implementation free to deliver a self-interrupt internally or to issue it on the
bus and snoop it: the model delivers it internally, with no bus event, no arbitration and no wait for acceptance (DESIGN CHOICE,
log 43); of that shorthand only an INIT level de-assert, which goes to all processors whatever the shorthand (R521), leaves on
the bus. -/
def sendIpi : M Unit := do
  let s ← get
  let w := s.apic.icrLo
  let sh := field w 18 2
  let logical := bit w 11 && sh != 3
  let dest := s.ipiDest sh logical
  let v : Byte := w.setWidth 8
  match icrMode s.isXapic w with
  | none => refuse .icrCombination
  | some mode =>
    if mode == .lowest then
      if s.isXapic && sh == 3 then refuse .icrCombination
      if sh != 1 && s.physBroadcast dest logical then refuse .lowestBroadcast
    if (mode == .fixed || mode == .lowest) && decide (v.toNat < 16) then
      modify fun s => s.apicErrors (if sh == 1 then 0x60#8 else 0x20#8)
    else
      let self ← ipiToSelf mode sh dest logical
      if sh != 1 || mode.toAll then
        modify fun s =>
          let t := s.send (s.ipiMessage w)
          { t with apic := { t.apic with busWait := true } }
      if self then
        let chosen ← ipiChosen mode (sh == 1 || s.soleTarget dest logical)
        takeMessage mode v false chosen true

/-! ## Registers -/

/-- Slot `k` of a 256-bit register (R543). -/
def slot (x : BitVec 256) (k : Nat) : Word := BitVec.ofNat 32 (x.toNat / 2 ^ (32 * k))

/-- The version register (R490): version 14H on the system bus, 10H on the APIC bus (the exact 1XH value is
PRESUMED, log 24); the number of LVT entries minus 1 by family. -/
def State.apicVersion (s : State) : Word :=
  let n := match s.cfg.family with
    | .p4Xeon => 5
    | .p6 => 4
    | _ => 3
  BitVec.ofNat 32 (65536 * n + (if s.isXapic then 0x14 else 0x10))

/-- Whether a register offset is implemented (R485, R508, R536). -/
def State.apicImplemented (s : State) (off : Nat) : Bool :=
  match off / 16 with
  | 0x02 | 0x03 | 0x08 | 0x0A | 0x0B | 0x0D | 0x0E | 0x0F | 0x28 | 0x30 | 0x31 | 0x32 | 0x35 | 0x36 | 0x37 | 0x38
  | 0x39 | 0x3E => true
  | 0x09 => !s.isXapic
  | 0x33 => s.cfg.family == .p4Xeon
  | 0x34 => s.fromP6
  | n => decide (0x10 ≤ n ∧ n < 0x28)

/-- An access to a reserved offset (R486): bit 7 of the ESR, except on the Pentium (R513). -/
def State.illegalRegister (s : State) : State :=
  if s.fromP6 then s.apicError 7 else s

/-- An LVT entry as it reads (R508): the delivery status is send-pending also while the core has not accepted what the
entry delivered to it. -/
def State.lvtRead (s : State) (e : Lvt) : Word :=
  let w := s.apic.lvt e
  setBit w 12 (bit w 12 || s.apic.coreWait.any (fun x => x.1 == e) || s.extIntPin e)

/-- The low half of the ICR as it reads (R520): the delivery status is send-pending until all targets have accepted, those of
an earlier IPI too (DESIGN CHOICE, log 41). -/
def State.icrRead (s : State) : Word := setBit s.apic.icrLo 12 (s.apic.busWait || !s.apic.selfRetry.isEmpty)

/-- A 32-bit load from a register (R485). Reserved offsets read 0 (D22); the EOI register is refused (R546). -/
def apicRead (off : Nat) : M Word := do
  let s ← get
  let a := s.apic
  if !s.apicImplemented off then
    set s.illegalRegister
    return 0#32
  let n := off / 16
  if n == 0x0B then refuse .apicEoiRead
  return match n with
    | 0x02 => a.id
    | 0x03 => s.apicVersion
    | 0x08 => a.tpr.setWidth 32
    | 0x09 => BitVec.ofNat 32 a.apr
    | 0x0A => BitVec.ofNat 32 a.ppr
    | 0x0D => a.ldr
    | 0x0E => a.dfr
    | 0x0F => a.svr
    | 0x28 => a.esr.setWidth 32
    | 0x30 => s.icrRead
    | 0x31 => a.icrHi
    | 0x32 => s.lvtRead .timer
    | 0x33 => s.lvtRead .thermal
    | 0x34 => s.lvtRead .perf
    | 0x35 => s.lvtRead .lint0
    | 0x36 => s.lvtRead .lint1
    | 0x37 => s.lvtRead .error
    | 0x38 => a.initCount
    | 0x39 => a.curCount
    | 0x3E => a.divide
    | _ =>
      if n < 0x18 then slot a.isr (n - 0x10)
      else if n < 0x20 then slot a.tmr (n - 0x18)
      else slot a.irr (n - 0x20)

/-- The software-writable bits of an LVT entry (R509 to R512). -/
def lvtMask : Lvt → Word
  | .timer => 0x000300FF#32
  | .thermal | .perf => 0x000107FF#32
  | .lint0 | .lint1 => 0x0001A7FF#32
  | .error => 0x000100FF#32

/-- Whether the remote IRR flag of an entry has a meaning: LINT0 in level-sensitive fixed mode (R508). -/
def State.remoteIrrDefined (s : State) (e : Lvt) (w : Word) : Bool := s.levelMode e w && field w 8 3 == 0

/-- A write to an LVT entry: the read-only bits keep their value; while software disabled the mask stays set
(R551); the remote IRR flag of a LINT entry in another mode than level-sensitive fixed is undefined (R508, U9): a
free bit; an illegal vector in fixed mode may record an error at once (R518, a free choice). -/
def writeLvt (e : Lvt) (v : Word) : M Unit := do
  let s ← get
  let old := s.apic.lvt e
  let w := (old &&& 0x1000#32) ||| (v &&& lvtMask e)
  let w := if bit s.apic.svr 8 then w else setBit w 16 true
  let w ←
    if e == .lint0 || e == .lint1 then
      if s.remoteIrrDefined e w then pure (setBit w 14 (s.remoteIrrDefined e old && bit old 14))
      else do pure (setBit w 14 (← freshBit))
    else pure w
  modify fun s => { s with apic := s.apic.setLvt e w }
  if field w 0 8 < 16 && field w 8 3 == 0 then
    if ← freshBit then modify fun s => s.apicError 6

/-- A write to the SVR (R548): bits 3:0 of the vector are 1 on the APIC bus, bit 9 exists there only; disabling
masks every LVT entry (R551). -/
def writeSvr (s : State) (v : Word) : State :=
  let w := if s.isXapic then v &&& 0x1FF#32 else (v &&& 0x3FF#32) ||| 0xF#32
  let a := { s.apic with svr := w }
  let m (x : Word) : Word := setBit x 16 true
  if bit w 8 then { s with apic := a }
  else { s with apic := { a with lvtTimer := m a.lvtTimer, lvtThermal := m a.lvtThermal, lvtPerf := m a.lvtPerf,
                                 lvtLint0 := m a.lvtLint0, lvtLint1 := m a.lvtLint1, lvtError := m a.lvtError } }

/-- A write to the TPR (R541). If it masks the interrupt whose request the APIC is asserting, the core may or may
not have seen the request: a free choice keeps it, and a kept request gets the spurious vector (R547). -/
def writeTpr (v : Word) : M Unit := do
  let s ← get
  let a := { s.apic with tpr := v.setWidth 8 }
  match s.apic.intr with
  | some i =>
    if i.toNat / 16 ≤ a.tpr.toNat / 16 then
      let keep ← freshBit
      modify fun s => { s with apic := { a with intr := if keep then some i else none } }
    else set { s with apic := a }
  | none => set { s with apic := a }

/-- Clears LINT0's remote IRR flag at the EOI of a vector if that ends the interrupt that set the flag (R508; log 39). -/
def Apic.endRemote (a : Apic) (v : Nat) : Apic :=
  if a.remoteServed && a.remoteVec.toNat == v then
    { a with lvtLint0 := setBit a.lvtLint0 14 false, remoteServed := false }
  else a

/-- A write to the EOI register (R546): the highest ISR bit is cleared, and LINT0's remote IRR flag if the interrupt was
LINT0's (R508); for a level-triggered interrupt the EOI message leaves. -/
def writeEoi (s : State) : State :=
  match highest s.apic.isr with
  | none => s
  | some v =>
    let t := { s with apic := { s.apic with isr := setVec s.apic.isr v false }.endRemote v }
    if t.apic.tmr.getLsbD v then t.send (.eoi (BitVec.ofNat 8 v)) else t

/-- A write to the ESR: the register takes the errors detected since the last write (R514). -/
def writeEsr (s : State) : State := { s with apic := { s.apic with esr := s.apic.errs, errs := 0#8 } }

/-- A 32-bit store to a register (R485). Read-only registers and reserved bits ignore writes (D22, log 24). -/
def apicWrite (off : Nat) (v : Word) : M Unit := do
  let s ← get
  let a := s.apic
  if !s.apicImplemented off then
    set s.illegalRegister
    return
  match off / 16 with
  | 0x02 => set { s with apic := { a with id := v &&& (if s.isXapic then 0xFF000000#32 else 0x0F000000#32) } }
  | 0x08 => writeTpr v
  | 0x0B => set (writeEoi s)
  | 0x0D => set { s with apic := { a with ldr := v &&& 0xFF000000#32 } }
  | 0x0E => set { s with apic := { a with dfr := v ||| 0x0FFFFFFF#32 } }
  | 0x0F => set (writeSvr s v)
  | 0x28 => set (writeEsr s)
  | 0x30 =>
    set { s with apic := { a with icrLo := v &&& 0x000CCFFF#32 } }
    sendIpi
  | 0x31 => set { s with apic := { a with icrHi := v &&& 0xFF000000#32 } }
  | 0x32 => writeLvt .timer v
  | 0x33 => writeLvt .thermal v
  | 0x34 => writeLvt .perf v
  | 0x35 => writeLvt .lint0 v
  | 0x36 => writeLvt .lint1 v
  | 0x37 => writeLvt .error v
  | 0x38 => set { s with apic := { a with initCount := v, curCount := v } }
  | 0x3E => set { s with apic := { a with divide := v &&& 0xB#32 } }
  | _ => pure ()

/-! ## Timer -/

/-- One divided tick of the timer (R517). -/
def timerTick : M Unit := do
  let s ← get
  if s.apicOn && s.apic.curCount != 0#32 then
    let c := s.apic.curCount - 1#32
    if c == 0#32 then
      set { s with apic := { s.apic with curCount := if bit s.apic.lvtTimer 17 then s.apic.initCount else c } }
      localDeliver .timer
    else set { s with apic := { s.apic with curCount := c } }

end Sys2Proof.Machine
end

