-- ==== Sys2Proof/Machine/Paging.lean ====
section
/-! DEFINITION. Physical and linear accesses: the page walk (R150 to R172), the TLB (R178 to R185), the local APIC
page (R484). -/
namespace Sys2Proof.Machine

/-- The kind of an access (R165). -/
inductive Access where
  | read | write | exec
  deriving DecidableEq, Repr

/-! ## Physical accesses -/

/-- Whether addresses are the four bytes of one aligned APIC register slot (R484). -/
def isApicSlot (pas : List Nat) : Bool :=
  match pas with
  | [a, b, c, d] => a % 16 == 0 && b == a + 1 && c == a + 2 && d == a + 3
  | _ => false

/-- Reads the bytes at physical addresses as a little-endian number (R83): memory, or one APIC register. -/
def phRead (pas : List Nat) : M Nat := do
  let s ← get
  if pas.any s.inApic then
    if isApicSlot pas then return (← apicRead (pas.headD 0 % 4096)).toNat
    else refuse .apicAccess
  else return leNat (pas.map s.physByte)

/-- Writes a little-endian number to physical addresses (R83): memory, or one APIC register. -/
def phWrite (pas : List Nat) (v : Nat) : M Unit := do
  let s ← get
  if pas.any s.inApic then
    if isApicSlot pas then apicWrite (pas.headD 0 % 4096) (BitVec.ofNat 32 v)
    else refuse .apicAccess
  else set (s.physWrite (pas.zip (leBytes pas.length v)))

/-- A locked access to the APIC page is refused (R484, D21). -/
def noLockedApic (pas : List Nat) : M Unit := do
  if pas.any (← get).inApic then refuse .apicAccess

/-! ## The page walk -/

/-- Raises a page fault (R446): CR2 takes the linear address; the error code's P, W/R, U/S and RSVD bits. -/
def pageFault {α : Type} (lin : Word) (present : Bool) (kind : Access) (user rsvd : Bool) : M α := do
  modify fun s => { s with sys := { s.sys with cr2 := lin } }
  raise (.pf (BitVec.ofNat 32 (b2n present + 2 * b2n (kind == .write) + 4 * b2n user + 8 * b2n rsvd)))

/-- The rights check of R168 on combined U/S and R/W flags. -/
def rightsOk (s : State) (us rw : Bool) (kind : Access) (user : Bool) : Bool :=
  !(user && !us) && !(kind == .write && !rw && (user || bit s.sys.cr0 16))

/-- Sets bits in a page entry in memory if they are not all set (R172); the entry is `n` bytes at `a`. -/
def orEntry (a n v bits : Nat) : M Unit := do
  if v &&& bits != bits then modify fun s => s.physWrite (pairFrom a (leBytes n (v ||| bits)))

/-- Reads an entry of a paging table, a number of `n` bytes; an entry in the local APIC's page, which no 32-bit load or
store of a register reaches, is refused (R484, D21). -/
def walkRead (a n : Nat) : M Nat := do
  let s ← get
  if s.inApic a then refuse .apicAccess
  return s.physRead a n

/-- The A flag of a page entry, or A and D on a write (R172). -/
def adBits (kind : Access) : Nat := if kind == .write then 0x60 else 0x20

/-- The reserved bits of a 32-bit entry that maps a 4-MByte page (R155, R157). That its PAT bit is one of them without PAT, as
R154 says of a PTE's, is a DESIGN CHOICE (log 37). -/
def largeReserved (c : Config.Params) (pde : Nat) : Bool :=
  (if c.hasPse36 then pde / 2 ^ 17 % 2 ^ 5 else pde / 2 ^ 13 % 2 ^ 9) != 0 || (!c.hasPat && pde.testBit 12)

/-- The walk with 32-bit entries (R151 to R158, R165). Reserved bits are checked when CR4.PSE = 1 (R157, U1): bit 6 of an
entry for a page table (R153), bit 7 of an entry for a 4-KByte page without PAT (R154). -/
def walk32 (lin : Word) (kind : Access) (user : Bool) : M TlbEntry := do
  let s ← get
  let pse := bit s.sys.cr4 4
  let pdeAddr := s.sys.cr3.toNat / 4096 * 4096 + 4 * field lin 22 10
  let pde ← walkRead pdeAddr 4
  if !pde.testBit 0 then pageFault lin false kind user false
  if pse && pde.testBit 7 then
    if largeReserved s.cfg pde then pageFault lin true kind user true
    if !rightsOk s (pde.testBit 2) (pde.testBit 1) kind user then pageFault lin true kind user false
    orEntry pdeAddr 4 pde (adBits kind)
    let hi := if s.cfg.hasPse36 then pde / 2 ^ 13 % 16 else 0
    return { page := BitVec.ofNat 32 (lin.toNat / 2 ^ 22 * 2 ^ 22), bits := 22,
             phys := hi * 2 ^ 32 + pde / 2 ^ 22 * 2 ^ 22, user := pde.testBit 2, write := pde.testBit 1,
             global := pde.testBit 8, dirty := kind == .write || pde.testBit 6 }
  else
    if pse && pde.testBit 6 then pageFault lin true kind user true
    let pteAddr := pde / 4096 * 4096 + 4 * field lin 12 10
    let pte ← walkRead pteAddr 4
    if !pte.testBit 0 then pageFault lin false kind user false
    if pse && !s.cfg.hasPat && pte.testBit 7 then pageFault lin true kind user true
    let us := pde.testBit 2 && pte.testBit 2
    let rw := pde.testBit 1 && pte.testBit 1
    if !rightsOk s us rw kind user then pageFault lin true kind user false
    orEntry pdeAddr 4 pde 0x20
    orEntry pteAddr 4 ((← get).physRead pteAddr 4) (adBits kind)
    return { page := BitVec.ofNat 32 (lin.toNat / 4096 * 4096), bits := 12, phys := pte / 4096 * 4096, user := us,
             write := rw, global := pte.testBit 8, dirty := kind == .write || pte.testBit 6 }

/-- The page-directory-pointer entry for a linear address: the copy read with CR3 (R161). -/
def SysRegs.pdpte (r : SysRegs) : Nat → Quad
  | 0 => r.pdpte0 | 1 => r.pdpte1 | 2 => r.pdpte2 | _ => r.pdpte3

/-- The walk with 64-bit entries (R160, R161, R165). Bits 8 and 6 of an entry for a page table, printed 0 and not
"reserved", are ignored, and the PAT bit of an entry for a 2-MByte page is reserved without PAT (DESIGN CHOICE, log 37). -/
def walkPae (lin : Word) (kind : Access) (user : Bool) : M TlbEntry := do
  let s ← get
  let pdpte := (s.sys.pdpte (field lin 30 2)).toNat
  if !pdpte.testBit 0 then pageFault lin false kind user false
  let pdeAddr := pdpte / 4096 % 2 ^ 24 * 4096 + 8 * field lin 21 9
  let pde ← walkRead pdeAddr 8
  if !pde.testBit 0 then pageFault lin false kind user false
  let large := pde.testBit 7
  let largeRsvd := pde / 2 ^ 13 % 2 ^ 8 != 0 || (!s.cfg.hasPat && pde.testBit 12)
  if pde / 2 ^ 36 != 0 || (large && largeRsvd) then pageFault lin true kind user true
  if large then
    if !rightsOk s (pde.testBit 2) (pde.testBit 1) kind user then pageFault lin true kind user false
    orEntry pdeAddr 8 pde (adBits kind)
    return { page := BitVec.ofNat 32 (lin.toNat / 2 ^ 21 * 2 ^ 21), bits := 21,
             phys := pde / 2 ^ 21 % 2 ^ 15 * 2 ^ 21, user := pde.testBit 2, write := pde.testBit 1,
             global := pde.testBit 8, dirty := kind == .write || pde.testBit 6 }
  else
    let pteAddr := pde / 4096 % 2 ^ 24 * 4096 + 8 * field lin 12 9
    let pte ← walkRead pteAddr 8
    if !pte.testBit 0 then pageFault lin false kind user false
    if pte / 2 ^ 36 != 0 || (!s.cfg.hasPat && pte.testBit 7) then pageFault lin true kind user true
    let us := pde.testBit 2 && pte.testBit 2
    let rw := pde.testBit 1 && pte.testBit 1
    if !rightsOk s us rw kind user then pageFault lin true kind user false
    orEntry pdeAddr 8 pde 0x20
    orEntry pteAddr 8 ((← get).physRead pteAddr 8) (adBits kind)
    return { page := BitVec.ofNat 32 (lin.toNat / 4096 * 4096), bits := 12, phys := pte / 4096 % 2 ^ 24 * 4096,
             user := us, write := rw, global := pte.testBit 8, dirty := kind == .write || pte.testBit 6 }

/-- Whether a page-directory-pointer entry is present with a reserved bit set (R157, R161). -/
def pdpteReserved (e : Nat) : Bool := e.testBit 0 && (e / 2 ^ 36 != 0 || e / 2 ^ 5 % 16 != 0 || e / 2 % 4 != 0)

/-- The four PDPTEs at a CR3 value (R161); a set reserved bit in a present one raises the given exception (R157). -/
def readPdptes (cr3 : Word) (e : Exc) : M (List Quad) := do
  let base := cr3.toNat / 32 * 32
  let p0 ← walkRead base 8
  let p1 ← walkRead (base + 8) 8
  let p2 ← walkRead (base + 16) 8
  let p3 ← walkRead (base + 24) 8
  let es := [p0, p1, p2, p3]
  require (!es.any pdpteReserved) e
  return es.map (BitVec.ofNat 64)

/-- The processor's copies of the PDPTEs replaced (R161). -/
def SysRegs.setPdptes (r : SysRegs) (es : List Quad) : SysRegs :=
  { r with pdpte0 := es.getD 0 0#64, pdpte1 := es.getD 1 0#64, pdpte2 := es.getD 2 0#64,
           pdpte3 := es.getD 3 0#64 }

/-! ## The TLB -/

/-- Whether a cached translation covers a linear address. -/
def TlbEntry.covers (e : TlbEntry) (lin : Word) : Bool := lin.toNat / 2 ^ e.bits == e.page.toNat / 2 ^ e.bits

/-- Whether a cached translation can serve an access: a first write to a page must walk to set D (R172), unless
the cached rights already forbid the write. -/
def TlbEntry.serves (s : State) (e : TlbEntry) (lin : Word) (kind : Access) (user : Bool) : Bool :=
  e.covers lin && (kind != .write || e.dirty || !rightsOk s e.user e.write kind user)

/-- The physical address of a linear address under a cached translation. -/
def TlbEntry.addr (e : TlbEntry) (lin : Word) : Nat := e.phys + lin.toNat % 2 ^ e.bits

/-- The A20M# pin: physical address bit 20 is 0 while it is asserted in real-address mode (R470). -/
def State.a20 (s : State) (a : Nat) : Nat :=
  if s.pend.a20m && !s.pe && a.testBit 20 then a - 2 ^ 20 else a

/-- The tuple for an access (R185): a free choice among the cached translations that can serve it and a walk,
whose result a free choice keeps. Pages of different sizes that map one physical page are each used as they stand (DESIGN
CHOICE, log 37). -/
def lookupOrWalk (lin : Word) (kind : Access) (user : Bool) : M TlbEntry := do
  let s ← get
  match s.tlb.filter fun e => e.serves s lin kind user with
  | [] => walk s
  | es =>
    match es[Config.tlbPick (← fresh) es.length]? with
    | some e =>
      if rightsOk s e.user e.write kind user then return e else pageFault lin true kind user false
    | none => walk s
where
  /-- Walks the tables and may cache the result. -/
  walk (s : State) : M TlbEntry := do
    let e ← if bit s.sys.cr4 5 then walkPae lin kind user else walk32 lin kind user
    let k ← fresh
    modify fun s => { s with tlb := if Config.tlbKeep k then e :: s.tlb else s.tlb }
    return e

/-- Linear to physical address (R165). -/
def translate (lin : Word) (kind : Access) (user : Bool) : M Nat := do
  let s ← get
  if !s.pg then return s.a20 lin.toNat
  return s.a20 ((← lookupOrWalk lin kind user).addr lin)

/-- `n` consecutive addresses. -/
def addrsFrom (a n : Nat) : List Nat := (List.range n).map fun k => a + k

/-- The physical addresses of `n` bytes at a linear address; each page is translated separately, before anything
is accessed (R165). -/
def linAddrs (lin : Word) (n : Nat) (kind : Access) (user : Bool) : M (List Nat) := do
  let room := 4096 - lin.toNat % 4096
  let p ← translate lin kind user
  if n ≤ room then return addrsFrom p n
  let p2 ← translate (lin + BitVec.ofNat 32 room) kind user
  return addrsFrom p room ++ addrsFrom p2 (n - room)

/-- `MemReadSys` of R12. -/
def sysRead (lin : Word) (n : Nat) : M Nat := do phRead (← linAddrs lin n .read false)

/-! ## Invalidation -/

/-- Removes the non-global translations: a write to CR3, a task switch that changes it (R180, R182). -/
def State.flushLocal (s : State) : State :=
  { s with tlb := s.tlb.filter fun e => e.global && bit s.sys.cr4 7 }
/-- Removes every translation (R183). -/
def State.flushAll (s : State) : State := { s with tlb := [] }
/-- Removes the translations of one page, global or not (R181). -/
def State.flushPage (s : State) (lin : Word) : State :=
  { s with tlb := s.tlb.filter fun e => !e.covers lin }

end Sys2Proof.Machine
end

