-- ==== Sys2Proof/Machine/Segment.lean ====
section
/-! DEFINITION. Segmentation: selectors, descriptors, the access check, loading segment registers (R130 to
R146), alignment checking (R88). -/
namespace Sys2Proof.Machine

/-! ## Segment registers -/

/-- A segment register. -/
def Segs.get (g : Segs) : Seg → SegReg
  | .es => g.es | .cs => g.cs | .ss => g.ss | .ds => g.ds | .fs => g.fs | .gs => g.gs

/-- A segment register replaced. -/
def Segs.set (g : Segs) (x : Seg) (r : SegReg) : Segs :=
  match x with
  | .es => { g with es := r }
  | .cs => { g with cs := r }
  | .ss => { g with ss := r }
  | .ds => { g with ds := r }
  | .fs => { g with fs := r }
  | .gs => { g with gs := r }

/-- Writes a segment register. -/
def State.setSeg (s : State) (x : Seg) (r : SegReg) : State := { s with segs := s.segs.set x r }

/-- A null selector: bits 15:2 are 0 (R131). -/
def isNull (sel : Half) : Bool := sel.toNat / 4 == 0
/-- The RPL of a selector (R131). -/
def rpl (sel : Half) : Nat := sel.toNat % 4
/-- The selector with another RPL. -/
def withRpl (sel : Half) (n : Nat) : Half := BitVec.ofNat 16 (sel.toNat / 4 * 4 + n)
/-- An error code that names a selector (R403): `sel AND FFFCH` with EXT. -/
def selCode (sel : Half) (ext : Bool) : Half := BitVec.ofNat 16 (sel.toNat / 4 * 4 + b2n ext)
/-- An error code without a selector (R403). -/
def zeroCode (ext : Bool) : Half := BitVec.ofNat 16 (b2n ext)

/-! ## Descriptors -/

/-- A descriptor: its low and high doublewords (R134). -/
structure Desc where
  lo : Word
  hi : Word
  deriving DecidableEq, Repr

/-- The four type bits (R134 to R136). -/
def Desc.typ (d : Desc) : Nat := field d.hi 8 4
/-- S: code or data segment (R134). -/
def Desc.s (d : Desc) : Bool := bit d.hi 12
/-- DPL (R134). -/
def Desc.dpl (d : Desc) : Nat := field d.hi 13 2
/-- P (R134). -/
def Desc.p (d : Desc) : Bool := bit d.hi 15
/-- The segment base (R134). -/
def Desc.base (d : Desc) : Word :=
  BitVec.ofNat 32 (field d.hi 24 8 * 2 ^ 24 + field d.hi 0 8 * 2 ^ 16 + field d.lo 16 16)
/-- The effective byte limit (R134). -/
def Desc.limit (d : Desc) : Nat :=
  let l := field d.hi 16 4 * 2 ^ 16 + field d.lo 0 16
  if bit d.hi 23 then l * 4096 + 4095 else l
/-- A code segment (R135). -/
def Desc.isCode (d : Desc) : Bool := d.s && d.typ.testBit 3
/-- A data segment (R135). -/
def Desc.isData (d : Desc) : Bool := d.s && !d.typ.testBit 3
/-- A writable data segment (R135). -/
def Desc.isWritable (d : Desc) : Bool := d.isData && d.typ.testBit 1
/-- A conforming code segment (R135). -/
def Desc.conforming (d : Desc) : Bool := d.isCode && d.typ.testBit 2
/-- A segment that can be read: data, or readable code (R135). -/
def Desc.isReadable (d : Desc) : Bool := d.isData || (d.isCode && d.typ.testBit 1)
/-- A system descriptor of the given type (R136). -/
def Desc.isSys (d : Desc) (t : Nat) : Bool := !d.s && d.typ == t
/-- The target selector of a gate (R137, R138). -/
def Desc.gateSel (d : Desc) : Half := BitVec.ofNat 16 (field d.lo 16 16)
/-- The target offset of a gate: 32 bits, or 16 in a 16-bit gate (R137, R138, R425). -/
def Desc.gateOff (d : Desc) : Word :=
  if d.typ.testBit 3 then BitVec.ofNat 32 (field d.hi 16 16 * 2 ^ 16 + field d.lo 0 16)
  else BitVec.ofNat 32 (field d.lo 0 16)

/-- The attributes that a descriptor cache keeps (R30). -/
def Desc.attr (d : Desc) : SegAttr where
  typ := BitVec.ofNat 4 d.typ
  s := d.s
  dpl := BitVec.ofNat 2 d.dpl
  p := d.p
  avl := bit d.hi 20
  db := bit d.hi 22
  g := bit d.hi 23

/-- The register contents after loading a selector and its descriptor (R143). -/
def Desc.toSegReg (d : Desc) (sel : Half) : SegReg := ⟨sel, d.base, BitVec.ofNat 32 d.limit, d.attr⟩

/-- The linear address of the descriptor a selector names in a GDT or an LDT, if it lies within its table (R131, R132):
the LDT must not be null. -/
def descAddrIn (gdt : TableReg) (ldt : SegReg) (sel : Half) : Option Word :=
  let idx := sel.toNat / 8
  if sel.getLsbD 2 then
    if isNull ldt.sel || decide (ldt.limit.toNat < 8 * idx + 7) then none
    else some (ldt.base + BitVec.ofNat 32 (8 * idx))
  else if gdt.limit.toNat < 8 * idx + 7 then none
  else some (gdt.base + BitVec.ofNat 32 (8 * idx))

/-- The linear address of the descriptor a selector names in the current tables (R131). -/
def State.descAddr (s : State) (sel : Half) : Option Word := descAddrIn s.sys.gdtr s.sys.ldtr sel

/-- Reads the descriptor at a linear address, an implicit system access. -/
def readDescAt (lin : Word) : M Desc := do
  let v ← sysRead lin 8
  return ⟨BitVec.ofNat 32 v, BitVec.ofNat 32 (v / 2 ^ 32)⟩

/-- Reads the descriptor a selector names; a selector outside its table raises the given exception (R131). -/
def readDesc (sel : Half) (e : Exc) : M Desc := do
  match (← get).descAddr sel with
  | some a => readDescAt a
  | none => raise e

/-- `visible` of R261: the descriptor a selector names, if the selector is not null and lies within its table. -/
def visible (sel : Half) : M (Option Desc) := do
  if isNull sel then return none
  match (← get).descAddr sel with
  | none => return none
  | some a => return some (← readDescAt a)

/-- Changes byte 5 of a descriptor (type, S, DPL, P) in memory, a locked implicit system access (R94). -/
def writeDescByte5 (lin : Word) (b : Nat) : M Unit := do
  phWrite (← linAddrs (lin + 5#32) 1 .write false) b

/-- Sets the accessed flag of a code or data descriptor that was read through a selector (R144), and gives the
descriptor as it then stands. -/
def setAccessed (sel : Half) (d : Desc) : M Desc := do
  if d.typ.testBit 0 then return d
  match (← get).descAddr sel with
  | some a => writeDescByte5 a (field d.hi 8 8 + 1)
  | none => pure ()
  return { d with hi := setBit d.hi 8 true }

/-! ## Accesses through a segment -/

/-- A code segment in a descriptor cache (R135). -/
def SegReg.isCode (r : SegReg) : Bool := r.attr.s && r.attr.typ.getLsbD 3
/-- Whether a segment can be written (R135): writable data. -/
def SegReg.canWrite (r : SegReg) : Bool := !r.isCode && r.attr.typ.getLsbD 1
/-- Whether a segment can be read (R135): data or readable code. -/
def SegReg.canRead (r : SegReg) : Bool := !r.isCode || r.attr.typ.getLsbD 1
/-- An expand-down data segment (R135). -/
def SegReg.expandDown (r : SegReg) : Bool := !r.isCode && r.attr.typ.getLsbD 2

/-- The limit check of R141, without overflow (D5). -/
def SegReg.limitOk (r : SegReg) (off : Word) (n : Nat) : Bool :=
  if r.expandDown then
    decide (r.limit.toNat < off.toNat ∧ off.toNat + n - 1 ≤ if r.attr.db then 2 ^ 32 - 1 else 2 ^ 16 - 1)
  else decide (off.toNat + n - 1 ≤ r.limit.toNat)

/-- The type check of R141. -/
def SegReg.typeOk (r : SegReg) : Access → Bool
  | .read => r.canRead
  | .write => r.canWrite
  | .exec => true

/-- The segment check of R141 on a descriptor cache, raising the given exception; gives the linear address. -/
def segCheckReg (r : SegReg) (off : Word) (n : Nat) (kind : Access) (e : Exc) : M Word := do
  require (r.typeOk kind && r.limitOk off n) e
  return r.base + off

/-- The exception of a failed check through a segment register: #SS(0) for SS, else #GP(0) (R141). -/
def segExc (x : Seg) : Exc := if x == .ss then .ss 0#16 else .gp 0#16

/-- Whether a segment register holds a null selector that makes it unusable (R132, R141); only in protected
mode. -/
def State.segUnusable (s : State) (x : Seg) : Bool :=
  s.prot && x != .cs && x != .ss && isNull (s.segs.get x).sel

/-- The segment check of R141. -/
def segCheck (x : Seg) (off : Word) (n : Nat) (kind : Access) : M Word := do
  let s ← get
  require (!s.segUnusable x) (.gp 0#16)
  segCheckReg (s.segs.get x) off n kind (segExc x)

/-- Alignment checking (R88, R449). -/
def alignCheck (lin : Word) (req : Nat) : M Unit := do
  let s ← get
  require (!(bit s.sys.cr0 18 && s.eflags.ac && s.cpl == 3 && lin.toNat % req != 0)) .ac

/-- The physical addresses of a data access through a segment register: segment checks, then paging, then
alignment (R169, R408). -/
def dataAddrs (x : Seg) (off : Word) (n align : Nat) (kind : Access) : M (List Nat) := do
  let lin ← segCheck x off n kind
  let pas ← linAddrs lin n kind ((← get).cpl == 3)
  alignCheck lin align
  return pas

/-! ## Loading segment registers -/

/-- A segment register loaded in real-address mode: the base is the selector times 16, the rest of the cache stays
(R570, R583, log 8). -/
def realSeg (old : SegReg) (sel : Half) : SegReg := { old with sel := sel, base := sel.setWidth 32 <<< 4 }

/-- The checks and the new contents of SS for a selector in protected mode (R143), against the given privilege
level. -/
def checkSs (sel : Half) (cpl : Nat) : M SegReg := do
  if isNull sel then gp0
  let e := Exc.gp (selCode sel false)
  let d ← readDesc sel e
  require (rpl sel == cpl && d.isWritable && d.dpl == cpl) e
  require d.p (.ss (selCode sel false))
  return (← setAccessed sel d).toSegReg sel

/-- The checks and the new contents of DS, ES, FS or GS in protected mode (R143, R146). -/
def checkDataSeg (old : SegReg) (sel : Half) : M SegReg := do
  if isNull sel then return { old with sel := sel }
  let e := Exc.gp (selCode sel false)
  let d ← readDesc sel e
  let cpl := (← get).cpl
  require d.isReadable e
  require (d.conforming || (cpl ≤ d.dpl && rpl sel ≤ d.dpl)) e
  require d.p (.np (selCode sel false))
  return (← setAccessed sel d).toSegReg sel

/-- `load_seg` of R143: checks, and the register contents to commit. -/
def loadSeg (x : Seg) (sel : Half) : M SegReg := do
  let s ← get
  if !s.prot then return realSeg (s.segs.get x) sel
  if x == .ss then checkSs sel s.cpl else checkDataSeg (s.segs.get x) sel

/-- The high byte 5 of the TSS descriptor with the busy flag set or cleared (R139). -/
def busyByte (d : Desc) (busy : Bool) : Nat :=
  let b := field d.hi 8 8
  if busy then b ||| 2 else if b.testBit 1 then b - 2 else b

/-- An available or busy TSS descriptor, 16-bit or 32-bit (R136, R139). -/
def Desc.isTss (d : Desc) : Bool := d.isSys 1 || d.isSys 3 || d.isSys 9 || d.isSys 11
/-- An available TSS descriptor (R139). -/
def Desc.tssAvail (d : Desc) : Bool := d.isSys 1 || d.isSys 9
/-- A 32-bit TSS (R139). -/
def Desc.tss32 (d : Desc) : Bool := d.typ.testBit 3
/-- The smallest limit of a TSS (R139, C11). -/
def Desc.tssMin (d : Desc) : Nat := if d.tss32 then 0x67 else 0x2B

end Sys2Proof.Machine
end

