-- ==== Sys2Proof/Machine/Operands.lean ====
section
/-! DEFINITION. Registers by name and width, effective addresses (R203 to R206), operand places that are checked
first and read or written after (R405, R601), and the stack (R607). -/
namespace Sys2Proof

/-- The general register that holds a byte register, and the bit the byte starts at (R22). -/
def Reg8.home : Reg8 → Reg × Nat
  | .al => (.eax, 0) | .cl => (.ecx, 0) | .dl => (.edx, 0) | .bl => (.ebx, 0)
  | .ah => (.eax, 8) | .ch => (.ecx, 8) | .dh => (.edx, 8) | .bh => (.ebx, 8)

/-- A 32-bit displacement as a word (R203). -/
def Disp32.val : Disp32 → Word
  | .none => 0#32
  | .d8 v => sext8 v
  | .d32 v => v

/-- A 16-bit displacement as a word (R206). -/
def Disp16.val : Disp16 → Word
  | .none => 0#32
  | .d8 v => sext8 v
  | .d16 v => v.setWidth 32

/-- The segment a memory operand uses without an override: SS for an ESP or EBP base (R203, R204), and for the BP
bases of 16-bit addressing (PRESUMED, the family's rule, log 9); DS otherwise. -/
def Mem.defaultSeg : Mem → Seg
  | .base32 b _ => if b == .esp || b == .ebp then .ss else .ds
  | .sib b _ _ => if b == .esp || b == .ebp then .ss else .ds
  | .base16 .bpsi _ | .base16 .bpdi _ | .base16 .bp _ => .ss
  | _ => .ds

/-- Whether an r/m operand is in memory. -/
def RM.isMem {ρ : Type} : RM ρ → Bool
  | .reg _ => false
  | .mem _ => true

end Sys2Proof

namespace Sys2Proof.Machine

/-! ## Registers -/

/-- A general register. -/
def Gprs.get (g : Gprs) : Reg → Word
  | .eax => g.eax | .ecx => g.ecx | .edx => g.edx | .ebx => g.ebx
  | .esp => g.esp | .ebp => g.ebp | .esi => g.esi | .edi => g.edi

/-- A general register replaced. -/
def Gprs.set (g : Gprs) (r : Reg) (v : Word) : Gprs :=
  match r with
  | .eax => { g with eax := v }
  | .ecx => { g with ecx := v }
  | .edx => { g with edx := v }
  | .ebx => { g with ebx := v }
  | .esp => { g with esp := v }
  | .ebp => { g with ebp := v }
  | .esi => { g with esi := v }
  | .edi => { g with edi := v }

/-- The low part of a word replaced, the rest kept: a 16-bit write leaves bits 31:16 unchanged (R22, R601). -/
def mergeLow (z : Sz) (old v : Word) : Word :=
  match z with
  | .d => v
  | .w => (old &&& 0xFFFF0000#32) ||| (v &&& 0xFFFF#32)
  | .b => (old &&& 0xFFFFFF00#32) ||| (v &&& 0xFF#32)

/-- A register read at a width. -/
def Gprs.read (g : Gprs) (z : Sz) (r : Reg) : Word := z.trunc (g.get r)
/-- A register written at a width. -/
def Gprs.write (g : Gprs) (z : Sz) (r : Reg) (v : Word) : Gprs := g.set r (mergeLow z (g.get r) v)
/-- A byte register. -/
def Gprs.read8 (g : Gprs) (r : Reg8) : Word := Sz.b.trunc (g.get r.home.1 >>> r.home.2)
/-- A byte register written; the other bytes stay. -/
def Gprs.write8 (g : Gprs) (r : Reg8) (v : Word) : Gprs :=
  let old := g.get r.home.1
  g.set r.home.1 ((old &&& ~~~(0xFF#32 <<< r.home.2)) ||| ((v &&& 0xFF#32) <<< r.home.2))

/-- Writes a register at a width. -/
def State.setReg (s : State) (z : Sz) (r : Reg) (v : Word) : State := { s with gpr := s.gpr.write z r v }
/-- Writes a byte register. -/
def State.setReg8 (s : State) (r : Reg8) (v : Word) : State := { s with gpr := s.gpr.write8 r v }

/-! ## Effective addresses -/

/-- An index register times its scale (R204). -/
def indexVal (g : Gprs) : Option Index → Word
  | none => 0#32
  | some x => g.get x.reg <<< x.scale.num

/-- The base of a 16-bit address (R206). -/
def base16Val (g : Gprs) : Base16 → Word
  | .bxsi => g.ebx + g.esi
  | .bxdi => g.ebx + g.edi
  | .bpsi => g.ebp + g.esi
  | .bpdi => g.ebp + g.edi
  | .si => g.esi
  | .di => g.edi
  | .bp => g.ebp
  | .bx => g.ebx

/-- The effective offset of a memory operand: modulo 2^32, or modulo 2^16 with 16-bit addressing (R203 to R206). -/
def effAddr (g : Gprs) : Mem → Word
  | .abs32 d => d
  | .base32 b d => g.get b + d.val
  | .sib b i d => g.get b + indexVal g i + d.val
  | .sibAbs i d => indexVal g i + d
  | .abs16 d => d.setWidth 32
  | .base16 b d => Sz.w.trunc (base16Val g b + d.val)

/-- The segment of a memory operand: the override prefix, or the default (R203). -/
def State.memSeg (s : State) (m : Mem) : Seg := s.ctx.pfx.seg.getD m.defaultSeg

/-- The physical addresses of the `n` bytes of a memory operand, checked for the access. -/
def memAddrs (m : Mem) (n align : Nat) (kind : Access) : M (List Nat) := do
  let s ← get
  dataAddrs (s.memSeg m) (effAddr s.gpr m) n align kind

/-- The same at an offset from the operand's address: the further fields of far pointers and bounds. The offset
wraps modulo 2^16 with 16-bit addressing (D5). -/
def memAddrsAt (m : Mem) (k : Word) (n align : Nat) (kind : Access) : M (List Nat) := do
  let s ← get
  let off := effAddr s.gpr m + k
  let off := match m with
    | .abs16 _ | .base16 _ _ => Sz.w.trunc off
    | _ => off
  dataAddrs (s.memSeg m) off n align kind

/-! ## Operand places -/

/-- Where an operand is, after its checks: a register, a byte register, or the physical addresses of its bytes. -/
inductive Place where
  | reg (z : Sz) (r : Reg)
  | reg8 (r : Reg8)
  | mem (pas : List Nat)
  deriving DecidableEq, Repr

/-- Reads a place. -/
def Place.get : Place → M Word
  | .reg z r => do return (← MonadState.get).gpr.read z r
  | .reg8 r => do return (← MonadState.get).gpr.read8 r
  | .mem pas => do return BitVec.ofNat 32 (← phRead pas)

/-- Writes a place. -/
def Place.set (p : Place) (v : Word) : M Unit :=
  match p with
  | .reg z r => modify fun s => s.setReg z r v
  | .reg8 r => modify fun s => s.setReg8 r v
  | .mem pas => phWrite pas v.toNat

/-- Checks an r/m operand of a width for an access and gives its place (R601). -/
def place (z : Sz) (kind : Access) : RM Reg → M Place
  | .reg r => pure (.reg z r)
  | .mem m => do return .mem (← memAddrs m z.bytes z.bytes kind)

/-- Checks a byte r/m operand for an access and gives its place. -/
def place8 (kind : Access) : RM Reg8 → M Place
  | .reg r => pure (.reg8 r)
  | .mem m => do return .mem (← memAddrs m 1 1 kind)

/-- The destination of a read-modify-write instruction: checked for writing first (R601); refused when it is a
locked access to the APIC page (R484). -/
def lockCheck (locked : Bool) : Place → M Unit
  | .mem pas => if locked then noLockedApic pas else pure ()
  | _ => pure ()

/-- Reads an r/m operand. -/
def readRM (z : Sz) (o : RM Reg) : M Word := do (← place z .read o).get
/-- Reads a byte r/m operand. -/
def readRM8 (o : RM Reg8) : M Word := do (← place8 .read o).get

/-! ## The stack -/

/-- The stack offset of a value of ESP: 32 bits, or 16 when SS.B = 0 (R607). -/
def SegReg.stackOff (ss : SegReg) (esp : Word) : Word := if ss.attr.db then esp else Sz.w.trunc esp

/-- ESP moved by a number of bytes: modulo 2^32, or SP alone modulo 2^16 when SS.B = 0 (R607). -/
def SegReg.stackMove (ss : SegReg) (esp : Word) (by' : Int) : Word :=
  if ss.attr.db then esp + BitVec.ofInt 32 by' else mergeLow .w esp (esp + BitVec.ofInt 32 by')

/-- The linear addresses of `n` pushes of one width below `esp` on a given stack, in push order, and the final ESP: the
segment has room for all of them (R283, R286, R422). -/
def pushLins (ss : SegReg) (e : Exc) (z : Sz) : Nat → Word → M (List Word × Word)
  | 0, esp => pure ([], esp)
  | n + 1, esp => do
    let esp' := ss.stackMove esp (-(z.bytes : Int))
    let lin ← segCheckReg ss (ss.stackOff esp') z.bytes .write e
    let (lins, last) ← pushLins ss e z n esp'
    return (lin :: lins, last)

/-- The physical addresses of pushes on a stack of user privilege or not: each is translated, then its alignment checked if
the push is at CPL 3 (R88, R408, R449). -/
def pushPas (user : Bool) (z : Sz) : List Word → M (List (List Nat))
  | [] => pure []
  | lin :: lins => do
    let pas ← linAddrs lin z.bytes .write user
    if user then alignCheck lin z.bytes
    let ps ← pushPas user z lins
    return pas :: ps

/-- The places of `n` pushes of one width below `esp` on a given stack, in push order, and the final ESP: the segment
checks of all pushes, then paging and alignment push by push; every push is checked before any is written (R422). -/
def pushPlaces (ss : SegReg) (e : Exc) (user : Bool) (z : Sz) (n : Nat) (esp : Word) : M (List (List Nat) × Word) := do
  let (lins, last) ← pushLins ss e z n esp
  return (← pushPas user z lins, last)

/-- Writes the pushed values at the places found for them. -/
def pushValues : List (List Nat) → List Word → M Unit
  | pas :: ps, v :: vs => do phWrite pas v.toNat; pushValues ps vs
  | _, _ => pure ()

/-- The value ESP has after a number of pushes; set by the caller. -/
def setEsp (v : Word) : M Unit := modify fun s => { s with gpr := { s.gpr with esp := v } }

/-- The checks of a push on the current stack (R607): the place and the new ESP. -/
def pushPrep (z : Sz) (n : Nat) : M (List (List Nat) × Word) := do
  let s ← get
  pushPlaces s.segs.ss (.ss 0#16) (s.cpl == 3) z n s.gpr.esp

/-- Pushes one value on the current stack (R607): ESP changes only after the write's checks succeed. -/
def push (z : Sz) (v : Word) : M Unit := do
  let (ps, esp) ← pushPrep z 1
  pushValues ps [v]
  setEsp esp

/-- The place of the item of a width at `k` bytes above ESP on the current stack, checked for a read (R607). -/
def peekPlace (z : Sz) (k : Nat) : M (List Nat) := do
  let s ← get
  let ss := s.segs.ss
  dataAddrs .ss (ss.stackOff (ss.stackMove s.gpr.esp k)) z.bytes z.bytes .read

/-- Reads the item of a width at `k` bytes above ESP on the current stack (R607). -/
def peek (z : Sz) (k : Nat) : M Word := do
  let pas ← peekPlace z k
  return BitVec.ofNat 32 (← phRead pas)

/-- ESP after popping a number of bytes. -/
def State.popped (s : State) (k : Nat) : Word := s.segs.ss.stackMove s.gpr.esp k

/-! ## Completing an instruction -/

/-- EIP for an offset in a code segment with these attributes: only its low 16 bits are used in a 16-bit segment
(R23). -/
def SegAttr.ip (a : SegAttr) (v : Word) : Word := if a.db then v else Sz.w.trunc v

/-- EIP for an offset in the current code segment (R23). -/
def State.eipMask (s : State) (v : Word) : Word := s.segs.cs.attr.ip v

/-- Completes an instruction at the next one: EIP moves on and RF is cleared (R23, R24). -/
def advance : M Unit :=
  modify fun s => { s with eip := s.ctx.nextEip, eflags := { s.eflags with rf := false } }

/-- The checks of a near transfer: the target within the CS limit, else #GP(0) (R630); with a 16-bit operand
size the target is cut to 16 bits. -/
def nearTarget (target : Word) : M Word := do
  let s ← get
  let t := s.eipMask (s.osz.trunc target)
  require (s.segs.cs.limitOk t 1) (.gp 0#16)
  return t

/-- Completes an instruction at another place in the code segment. -/
def jumpTo (target : Word) : M Unit :=
  modify fun s => { s with eip := target, eflags := { s.eflags with rf := false } }

end Sys2Proof.Machine
end

