-- ==== Sys2Proof/Machine/Task.lean ====
section
/-! DEFINITION. The task switch (spec/43_task_switch.md), for 32-bit and 16-bit task-state segments. -/
namespace Sys2Proof.Machine

/-- What causes a task switch (R321). -/
inductive SwitchKind where
  | jmp | call | int | iret
  deriving DecidableEq, Repr

/-- The switch nests the new task in the old one (R326 steps 9 and 10): CALL, or an event. -/
def SwitchKind.nests (k : SwitchKind) : Bool := k == .call || k == .int
/-- The switch ends the old task's being busy (R326 step 6): JMP or IRET. -/
def SwitchKind.leaves (k : SwitchKind) : Bool := k == .jmp || k == .iret

/-- The program goes on with the instruction at hand (R404: a fault, an event between instructions). -/
def State.resumeHere (s : State) : Resume := ⟨s.segs.cs.sel, s.eip, s.eflags.rf⟩
/-- The program goes on with the next instruction (R404: a software interrupt; R326 step 8). -/
def State.resumeNext (s : State) : Resume := ⟨s.segs.cs.sel, s.ctx.nextEip, s.eflags.rf⟩

/-- A handler is entered: it returns before those of the exceptions for which events are held (R409, log 27). -/
def Pending.entered (p : Pending) : Pending := { p with held := p.held.map fun h => (h.1, h.2 + 1) }

/-- The values a new TSS gives (R322, R334). -/
structure TssImage where
  cr3 : Word
  eip : Word
  flags : Word
  gpr : Gprs
  es : Half
  cs : Half
  ss : Half
  ds : Half
  fs : Half
  gs : Half
  ldt : Half
  trap : Bool
  deriving DecidableEq, Repr

/-- A field of a TSS by its bytes' physical addresses: `n` bytes at offset `k` (R322). -/
def sub (pas : List Nat) (k n : Nat) : List Nat := (pas.drop k).take n

/-- Reads a field of a TSS. -/
def tssField (pas : List Nat) (k n : Nat) : M Nat := phRead (sub pas k n)

/-- Reads a 32-bit TSS (R322). -/
def readTss32 (pas : List Nat) : M TssImage := do
  let w (k : Nat) : M Word := do return BitVec.ofNat 32 (← tssField pas k 4)
  let h (k : Nat) : M Half := do return BitVec.ofNat 16 (← tssField pas k 2)
  return { cr3 := ← w 28, eip := ← w 32, flags := ← w 36,
           gpr := ⟨← w 40, ← w 44, ← w 48, ← w 52, ← w 56, ← w 60, ← w 64, ← w 68⟩,
           es := ← h 72, cs := ← h 76, ss := ← h 80, ds := ← h 84, fs := ← h 88, gs := ← h 92, ldt := ← h 96,
           trap := (← tssField pas 100 1).testBit 0 }

/-- Reads a 16-bit TSS (R334): the upper halves are 0, FS and GS null, CR3 unchanged. -/
def readTss16 (pas : List Nat) : M TssImage := do
  let w (k : Nat) : M Word := do return BitVec.ofNat 32 (← tssField pas k 2)
  let h (k : Nat) : M Half := do return BitVec.ofNat 16 (← tssField pas k 2)
  return { cr3 := (← get).sys.cr3, eip := ← w 14, flags := ← w 16,
           gpr := ⟨← w 18, ← w 20, ← w 22, ← w 24, ← w 26, ← w 28, ← w 30, ← w 32⟩,
           es := ← h 34, cs := ← h 36, ss := ← h 38, ds := ← h 40, fs := 0#16, gs := 0#16, ldt := ← h 42,
           trap := false }

/-- Writes values of one width at successive offsets of a TSS. -/
def writeFields (pas : List Nat) (n stride : Nat) : Nat → List Nat → M Unit
  | _, [] => pure ()
  | k, v :: vs => do
    phWrite (sub pas k n) v
    writeFields pas n stride (k + stride) vs

/-- The general registers in TSS order (R22, R322). -/
def Gprs.list (g : Gprs) : List Nat :=
  [g.eax, g.ecx, g.edx, g.ebx, g.esp, g.ebp, g.esi, g.edi].map BitVec.toNat

/-- Saves the old task's dynamic fields (R326 step 8); `pas` are the bytes from offset 32 of a 32-bit TSS or from
offset 14 of a 16-bit TSS. -/
def saveTask (is32 : Bool) (pas : List Nat) (r : Resume) (flags : Eflags) : M Unit := do
  let s ← get
  let sels := [s.segs.es.sel, r.cs, s.segs.ss.sel, s.segs.ds.sel, s.segs.fs.sel, s.segs.gs.sel].map BitVec.toNat
  if is32 then
    writeFields pas 4 4 0 ([r.eip.toNat, flags.toWord.toNat] ++ s.gpr.list)
    writeFields pas 2 4 40 sels
  else
    writeFields pas 2 2 0 ([r.eip.toNat, flags.toWord.toNat] ++ s.gpr.list ++ sels.take 4)

/-- Runs the part of a task switch after its commit point: an exception there belongs to the new task (R326,
R404). -/
def asTrap {α : Type} (x : M α) : M α := fun s =>
  match x s with
  | .ok a s' => .ok a s'
  | .error (.raise e) s' => .error (.trap e) s'
  | .error e s' => .error e s'

/-- The attributes in a word of free bits. -/
def SegAttr.ofBits (w : Word) : SegAttr where
  typ := w.setWidth 4
  s := bit w 4
  dpl := BitVec.ofNat 2 (field w 5 2)
  p := bit w 7
  avl := bit w 8
  db := bit w 9
  g := bit w 10

/-- A register whose selector is loaded and whose descriptor is not: its hidden base, limit and attributes are any value
(R326, U14; free values). -/
def unqualified (sel : Half) : M SegReg := do
  let a ← fresh
  let b ← fresh
  let c ← fresh
  return ⟨sel, Config.freeWord a, Config.freeWord b, SegAttr.ofBits (Config.freeWord c)⟩

/-- A data-segment register of the new task with the descriptor its selector names. -/
structure TaskSeg where
  seg : Seg
  sel : Half
  desc : Desc
  deriving DecidableEq, Repr

/-- The descriptors of the new task's data segments (R327, the row "selectors are valid"): a selector that is not null
names a code or data descriptor within its table. -/
def dataDescs (ext : Bool) : List (Seg × Half) → M (List TaskSeg)
  | [] => pure []
  | (x, sel) :: r =>
    if isNull sel then dataDescs ext r
    else do
      let e := Exc.ts (selCode sel ext)
      let d ← readDesc sel e
      require d.s e
      let ds ← dataDescs ext r
      return ⟨x, sel, d⟩ :: ds

/-- One row of Table 6-1 (R327) over the data segments. -/
def rowOver (ok : TaskSeg → Bool) (e : TaskSeg → Exc) : List TaskSeg → M Unit
  | [] => pure ()
  | d :: ds => do
    require (ok d) (e d)
    rowOver ok e ds

/-- Loads the data-segment registers that have a descriptor. -/
def loadDataSegs : List TaskSeg → M Unit
  | [] => pure ()
  | t :: ts => do
    let d ← setAccessed t.sel t.desc
    modify fun s => s.setSeg t.seg (d.toSegReg t.sel)
    loadDataSegs ts

/-- The privilege check on a data segment of the new task (R327, last row; R143 and R146: the selector's RPL counts too). -/
def TaskSeg.privileged (cpl : Nat) (t : TaskSeg) : Bool :=
  t.desc.conforming || (decide (cpl ≤ t.desc.dpl) && decide (rpl t.sel ≤ t.desc.dpl))

/-- The last four rows of Table 6-1 (R327), each over DS, ES, FS and GS, and the loads. -/
def qualifyData (t : TssImage) (ext : Bool) : M Unit := do
  let ds ← dataDescs ext [(.ds, t.ds), (.es, t.es), (.fs, t.fs), (.gs, t.gs)]
  let ts (x : TaskSeg) : Exc := .ts (selCode x.sel ext)
  rowOver (fun x => x.desc.isReadable) ts ds
  rowOver (fun x => x.desc.p) (fun x => .np (selCode x.sel ext)) ds
  rowOver (TaskSeg.privileged (rpl t.cs)) ts ds
  loadDataSegs ds

/-- The row of Table 6-1 on the LDT selector (R327): null, or an LDT descriptor in the GDT, which LDTR takes. Answers
whether it is present. -/
def qualifyLdt (sel : Half) (e : Exc) : M Bool := do
  if isNull sel then return true
  require (!sel.getLsbD 2) e
  let d ← readDesc sel e
  require (d.isSys 2) e
  modify fun s => { s with sys := { s.sys with ldtr := d.toSegReg sel } }
  return d.p

/-- Step 13 and Table 6-1 (R326, R327): the new task's LDTR, CS, SS and data segments are qualified, in the table's order. A
CS selector that names no descriptor has no DPL to compare and fails in the later row "CS selector is valid" (log 23). -/
def qualify (t : TssImage) (ext : Bool) : M Unit := do
  let ldtE := Exc.ts (selCode t.ldt ext)
  let csE := Exc.ts (selCode t.cs ext)
  let ssE := Exc.ts (selCode t.ss ext)
  let cpl := rpl t.cs
  let ldtPresent ← qualifyLdt t.ldt ldtE
  let cs ← visible t.cs
  require (cs.all fun d => d.dpl == cpl) csE
  require (!isNull t.ss) ssE
  let sd ← readDesc t.ss ssE
  require sd.isWritable ssE
  require sd.p (.ss (selCode t.ss ext))
  require (sd.dpl == cpl) ssE
  require ldtPresent ldtE
  match cs with
  | none => raise csE
  | some cd =>
    require cd.isCode csE
    require cd.p (.np (selCode t.cs ext))
    require (sd.dpl == rpl t.ss) ssE
    let cd ← setAccessed t.cs cd
    modify fun s => { s.setSeg .cs (cd.toSegReg t.cs) with eip := cd.attr.ip s.eip }
    let sd ← setAccessed t.ss sd
    modify fun s => s.setSeg .ss (sd.toSegReg t.ss)
  qualifyData t ext

/-- The page tables of another CR3, with the PDPTEs read for it if any: a CR3 that changes drops the TLB's local tuples
(R182, R328). -/
def State.withTables (s : State) (cr3 : Word) (pdptes : Option (List Quad)) : State :=
  let u := if s.pg && s.sys.cr3 != cr3 then s.flushLocal else s
  let sys := match pdptes with
    | some es => s.sys.setPdptes es
    | none => s.sys
  { u with sys := { sys with cr3 := if s.pg then cr3 else s.sys.cr3 } }

/-- Step 12 (R326): registers, flags, CR3 and the visible selectors of the new task; CR0.TS is set (R330). The
hidden parts are not yet qualified. Every switch disarms the monitor, one that keeps CR3 too (DESIGN CHOICE, log 40). -/
def loadTask (kind : SwitchKind) (t : TssImage) (pdptes : Option (List Quad)) : M Unit := do
  let es ← unqualified t.es
  let cs ← unqualified t.cs
  let ss ← unqualified t.ss
  let ds ← unqualified t.ds
  let fs ← unqualified t.fs
  let gs ← unqualified t.gs
  let ldtr ← unqualified t.ldt
  let f := Eflags.ofWord t.flags
  let s := (← get).withTables t.cr3 pdptes
  set { disarm s with
    pend := if kind.nests then s.pend.entered else s.pend
    gpr := t.gpr
    eip := t.eip
    eflags := { f with nt := f.nt || kind.nests }
    segs := ⟨es, cs, ss, ds, fs, gs⟩
    sys := { s.sys with ldtr := ldtr, cr0 := setBit s.sys.cr0 3 true } }

/-- The physical address list of the byte that holds a TSS descriptor's busy flag (R325). -/
def busyAddr (sel : Half) : M (List Nat) := do
  let s ← get
  linAddrs (s.sys.gdtr.base + BitVec.ofNat 32 (8 * (sel.toNat / 8) + 5)) 1 .write false

/-- A selector names a descriptor of the GDT that lies within the table's limit and is not entry 0 (R131, R132). -/
def State.namesGdt (s : State) (sel : Half) : Bool :=
  !sel.getLsbD 2 && !isNull sel && decide (8 * (sel.toNat / 8) + 7 ≤ s.sys.gdtr.limit.toNat)

/-- The byte of the old task's busy flag, which a JMP or IRET clears (R326 step 6). TR's selector beyond the GDT's limit raises
#TS with it, as R131 says of a selector during a task switch; so does one that is null or has TI = 1, for which step 6 and R327
name no exception (DESIGN CHOICE, log 23). -/
def oldBusyAddr (ext : Bool) : M (List Nat) := do
  let s ← get
  require (s.namesGdt s.sys.tr.sel) (.ts (selCode s.sys.tr.sel ext))
  busyAddr s.sys.tr.sel

/-- Runs a check under the page tables of another CR3 and goes back: only memory (accessed flags, and the monitor they
disarm), CR2 and the use of free values keep what it did. -/
def underCr3 (cr3 : Word) (pdptes : Option (List Quad)) (x : M Unit) : M Unit := fun s =>
  let back (t : State) : State :=
    { s with mem := t.mem, act := t.act, sys := { s.sys with cr2 := t.sys.cr2 }, free := t.free }
  match x (s.withTables cr3 pdptes) with
  | .ok _ t => .ok () (back t)
  | .error e t => .error e (back t)

/-- The LDTR that a task's LDT selector will give; a selector that names no LDT gives none. -/
def taskLdt (sel : Half) : M SegReg := do
  let no : SegReg := { (← get).sys.ldtr with sel := 0#16 }
  if sel.getLsbD 2 then return no
  match ← visible sel with
  | some d => return if d.isSys 2 then d.toSegReg sel else no
  | none => return no

/-- Descriptors are paged in: those that selectors name in the GDT or in the given LDT. -/
def descsPaged (ldt : SegReg) : List Half → M Unit
  | [] => pure ()
  | sel :: r => do
    if !isNull sel then
      match descAddrIn (← get).sys.gdtr ldt sel with
      | some a => let _ ← linAddrs a 8 .read false
      | none => pure ()
    descsPaged ldt r

/-- Step 5 (R326) for the descriptors that the new task's selectors name: they are paged in, under the page tables the
task will have. -/
def taskDescsPaged (t : TssImage) : M Unit := do
  let ldt ← taskLdt t.ldt
  descsPaged ldt [t.cs, t.ss, t.ds, t.es, t.fs, t.gs]

/-- Reads a TSS of either width (R322, R334). -/
def readTss (is32 : Bool) (pas : List Nat) : M TssImage := if is32 then readTss32 pas else readTss16 pas

/-- The physical addresses that a task switch reads and writes. -/
structure TaskPlaces where
  /-- the dynamic fields of the old TSS -/
  old : List Nat
  /-- the new TSS -/
  new : List Nat
  /-- the link field of the new TSS, if the switch writes it -/
  link : List Nat
  /-- the busy flag of the old task, if the switch clears it -/
  oldBusy : List Nat
  /-- the busy flag of the new task, if the switch sets it -/
  newBusy : List Nat
  deriving DecidableEq, Repr

/-- The addresses of an access that a switch makes in some cases only. -/
def addrsIf (c : Bool) (x : M (List Nat)) : M (List Nat) := if c then x else pure []

/-- An action that a switch takes in some cases only. -/
def actIf (c : Bool) (x : M Unit) : M Unit := if c then x else pure ()

/-- Steps 1 to 4 (R326): the selector names a TSS descriptor that the switch may use. A descriptor of another type raises
what a selector outside the GDT does: step 3 names no exception for it; the error code for a busy new task is the new task's
selector, as step 4 has it, and not the back link's, as R327 does (both DESIGN CHOICE, log 23). The selector is not compared
with TR's: R320 says that a task cannot switch to itself, R325 and R326 look at the busy flag only, so an IRET whose link names
the current task passes (DESIGN CHOICE, log 23). -/
def taskDesc (kind : SwitchKind) (sel : Half) (ext : Bool) : M Desc := do
  let e : Exc := if kind == .iret then .ts (selCode sel ext) else .gp (selCode sel ext)
  require (!sel.getLsbD 2 && !isNull sel) e
  let d ← readDesc sel e
  require d.isTss e
  require d.p (.np (selCode sel ext))
  require (if kind == .iret then !d.tssAvail else d.tssAvail) e
  require (decide (d.tssMin ≤ d.limit)) (.ts (selCode sel ext))
  return d

/-- A 32-bit TSS is the current one (R139). -/
def State.old32 (s : State) : Bool := s.sys.tr.attr.typ.getLsbD 3

/-- Step 5 (R326) for the old and the new TSS: they are paged in. The old one too must reach its minimum size: R141
compares with TR's limit and raises #TS during a task switch. -/
def taskPlaces (kind : SwitchKind) (sel : Half) (d : Desc) (ext : Bool) : M TaskPlaces := do
  let s ← get
  let tr := s.sys.tr
  let oldMin := if s.old32 then 0x67 else 0x2B
  require (decide (oldMin ≤ tr.limit.toNat)) (.ts (selCode tr.sel ext))
  let _ ← linAddrs tr.base (oldMin + 1) .read false
  let old ← linAddrs (tr.base + if s.old32 then 32#32 else 14#32) (if s.old32 then 64 else 28) .write false
  let new ← linAddrs d.base (d.tssMin + 1) .read false
  let link ← addrsIf kind.nests (linAddrs d.base 2 .write false)
  let oldBusy ← addrsIf kind.leaves (oldBusyAddr ext)
  let newBusy ← addrsIf (kind != .iret) (busyAddr sel)
  return ⟨old, new, link, oldBusy, newBusy⟩

/-- Step 5 (R326) for the page tables and the descriptors of the new task; gives the PDPTEs that its CR3 names, if it has
any (R161). A new task in virtual-8086 mode is refused (D2). The CR3 and EFLAGS looked at, and the PDPTEs, are those in memory
before the old task's state is saved, while step 12 loads CR3 and EFLAGS from the TSS after it: R326 names no time for the
PDPTEs (DESIGN CHOICE, log 23 and log 18). -/
def taskTables (d : Desc) (t : TssImage) (ext : Bool) : M (Option (List Quad)) := do
  let s ← get
  if bit t.flags 17 then refuse .virtual8086
  let pdptes ← if s.pg && bit s.sys.cr4 5 && d.tss32 then some <$> readPdptes t.cr3 (.gp (zeroCode ext)) else pure none
  underCr3 t.cr3 pdptes (taskDescsPaged t)
  return pdptes

/-- Clears the busy flag in byte 5 of a TSS descriptor (R326 step 6). -/
def clearBusy (pas : List Nat) : M Unit := do
  let b ← phRead pas
  phWrite pas (if b.testBit 1 then b - 2 else b)

/-- Steps 6 to 11 (R326, R328): the old task's busy flag and state, the link, the new task's busy flag, TR. An IRET to the
current task itself clears its busy flag in step 6 and does not set it in step 10, so its descriptor is left available while
TR is busy (DESIGN CHOICE, log 23). -/
def leaveTask (kind : SwitchKind) (sel : Half) (d : Desc) (p : TaskPlaces) (r : Resume) : M Unit := do
  let s ← get
  actIf kind.leaves (clearBusy p.oldBusy)
  saveTask s.old32 p.old r { s.eflags with nt := s.eflags.nt && kind != .iret, rf := r.rf }
  actIf kind.nests (phWrite p.link s.sys.tr.sel.toNat)
  actIf (kind != .iret) (phWrite p.newBusy (busyByte d true))
  let tr := { d.toSegReg sel with attr := { d.attr with typ := if d.tss32 then 11#4 else 3#4 } }
  modify fun s => { s with sys := { s.sys with tr := tr } }

/-- Steps 12 and 13 (R326): the new task's state; an exception from here on is the new task's. A set T flag of its TSS
leaves a debug trap for the next boundary (R322), if the model implements it (D15); where step 13 raises an exception it
leaves none (DESIGN CHOICE, log 21). -/
def enterTask (kind : SwitchKind) (d : Desc) (p : TaskPlaces) (pdptes : Option (List Quad)) (ext : Bool) : M Unit := do
  let t ← readTss d.tss32 p.new
  loadTask kind t pdptes
  asTrap (qualify t ext)
  modify fun s => { s with pend := { s.pend with taskTrap := s.pend.taskTrap || (t.trap && s.cfg.modelTf) } }

/-- The task switch (R326): every check and every translation of the part before the commit point first, then the writes,
then the new task's state. `r` goes into the old task's TSS; `ext` is the EXT bit of error codes. Gives the width of the new
TSS. -/
def taskSwitch (kind : SwitchKind) (sel : Half) (r : Resume) (ext : Bool) : M Sz := do
  let d ← taskDesc kind sel ext
  let p ← taskPlaces kind sel d ext
  let t ← readTss d.tss32 p.new
  let pdptes ← taskTables d t ext
  leaveTask kind sel d p r
  enterTask kind d p pdptes ext
  return if d.tss32 then .d else .w

end Sys2Proof.Machine
end

