-- ==== Sys2Proof/Machine/Ops.lean ====
section
/-! DEFINITION. Taking an interrupt or exception (R400 to R428), returning from one (R296, R309), and the frame
every instruction's meaning runs in: LOCK, faults, completion. -/
namespace Sys2Proof.Machine

/-! ## Shared pieces of privilege changes -/

/-- The stack pointer pair for a privilege level in the current TSS (R286 step 2, R322, R334). From a 16-bit TSS the upper
half of ESP is 0, as on a switch to a 16-bit task (R334; DEDUCED, log 22). -/
def tssStack (cpl : Nat) (ext : Bool) : M (Half × Word) := do
  let s ← get
  let tr := s.sys.tr
  if tr.attr.typ.getLsbD 3 then
    require (decide (8 * cpl + 9 ≤ tr.limit.toNat)) (.ts (selCode tr.sel ext))
    let esp ← sysRead (tr.base + BitVec.ofNat 32 (8 * cpl + 4)) 4
    let ss ← sysRead (tr.base + BitVec.ofNat 32 (8 * cpl + 8)) 2
    return (BitVec.ofNat 16 ss, BitVec.ofNat 32 esp)
  else
    require (decide (4 * cpl + 5 ≤ tr.limit.toNat)) (.ts (selCode tr.sel ext))
    let esp ← sysRead (tr.base + BitVec.ofNat 32 (4 * cpl + 2)) 2
    let ss ← sysRead (tr.base + BitVec.ofNat 32 (4 * cpl + 4)) 2
    return (BitVec.ofNat 16 ss, BitVec.ofNat 32 esp)

/-- The checks on an inner stack segment (R286 steps 2 and 3, R423). -/
def innerSs (sel : Half) (cpl : Nat) (ext : Bool) : M SegReg := do
  require (!isNull sel) (.ts (zeroCode ext))
  let e := Exc.ts (selCode sel ext)
  let d ← readDesc sel e
  require (rpl sel == cpl && d.dpl == cpl && d.isWritable) e
  require d.p (.ss (selCode sel ext))
  return (← setAccessed sel d).toSegReg sel

/-- Loads CS with a selector of the given privilege level and its descriptor (R145). -/
def State.setCs (s : State) (sel : Half) (cpl : Nat) (d : Desc) : State :=
  s.setSeg .cs (d.toSegReg (withRpl sel cpl))

/-- The flags on entry through a gate (R426). -/
def Eflags.enter (f : Eflags) (interruptGate : Bool) : Eflags :=
  { f with tf := false, vm := false, rf := false, nt := false, intf := f.intf && !interruptGate }

/-! ## Delivery -/

/-- Delivery in real-address mode through the table of 4-byte far pointers (R420, R571; the 16-bit frame and the
cleared flags are PRESUMED, the family's, log 8). -/
def deliverReal (ev : Event) : M Unit := do
  let s ← get
  let v := ev.vector.toNat
  require (decide (4 * v + 3 ≤ s.sys.idtr.limit.toNat)) (.gp (BitVec.ofNat 16 (8 * v + 2)))
  let p ← sysRead (s.sys.idtr.base + BitVec.ofNat 32 (4 * v)) 4
  let off := BitVec.ofNat 32 (p % 2 ^ 16)
  let sel := BitVec.ofNat 16 (p / 2 ^ 16)
  let (ps, esp) ← pushPlaces s.segs.ss (.ss 0#16) false .w 3 s.gpr.esp
  require (s.segs.cs.limitOk off 1) (.gp 0#16)
  pushValues ps [Eflags.toWord { s.eflags with rf := ev.resume.rf }, ev.resume.cs.setWidth 32, ev.resume.eip]
  setEsp esp
  modify fun s => { s.setSeg .cs (realSeg s.segs.cs sel) with
    eip := off
    eflags := { s.eflags with tf := false, intf := false, rf := false } }

/-- The items of an interrupt frame in push order (R422, R423). -/
def frameItems (ev : Event) (s : State) (inner : Bool) : List Word :=
  (if inner then [s.segs.ss.sel.setWidth 32, s.gpr.esp] else []) ++
    [Eflags.toWord { s.eflags with rf := ev.resume.rf }, ev.resume.cs.setWidth 32, ev.resume.eip] ++ ev.code.toList

/-- Delivery through an interrupt or trap gate (R420 steps 7 to 12, R422, R423, R425, R426). -/
def deliverGate (ev : Event) (gate : Desc) (ext : Bool) : M Unit := do
  let s ← get
  let cpl := s.cpl
  let z : Sz := if gate.typ.testBit 3 then .d else .w
  let sel := gate.gateSel
  let off := gate.gateOff
  let isInt := !gate.typ.testBit 0
  require (!isNull sel) (.gp (zeroCode ext))
  let e := Exc.gp (selCode sel ext)
  let cd ← readDesc sel e
  require (cd.isCode && decide (cd.dpl ≤ cpl)) e
  require cd.p (.np (selCode sel ext))
  if !cd.conforming && decide (cd.dpl < cpl) then
    let (ssSel, esp0) ← tssStack cd.dpl ext
    let ss ← innerSs ssSel cd.dpl ext
    let items := frameItems ev s true
    let (ps, esp) ← pushPlaces ss (.ss (selCode ssSel ext)) false z items.length esp0
    let cd ← setAccessed sel cd
    pushValues ps items
    modify fun s => { (s.setSeg .ss ss).setCs sel cd.dpl cd with
      gpr := { s.gpr with esp := esp }
      eip := cd.attr.ip off
      eflags := s.eflags.enter isInt }
  else
    let items := frameItems ev s false
    let (ps, esp) ← pushPlaces s.segs.ss (.ss (zeroCode ext)) (cpl == 3) z items.length s.gpr.esp
    require (decide (off.toNat ≤ cd.limit)) (.gp (zeroCode ext))
    let cd ← setAccessed sel cd
    pushValues ps items
    modify fun s => { s.setCs sel cpl cd with
      gpr := { s.gpr with esp := esp }
      eip := cd.attr.ip off
      eflags := s.eflags.enter isInt }

/-- Delivery through a task gate (R427): a task switch, then the error code on the new task's stack (R428). Where that
stack has no room the error code of #SS is R428's, EXT alone, and not the selector, as R442 has it (DESIGN CHOICE, log 23). -/
def deliverTask (ev : Event) (gate : Desc) (ext : Bool) : M Unit := do
  let z ← taskSwitch .int gate.gateSel ev.resume ext
  match ev.code with
  | none => pure ()
  | some c => asTrap do
    let s ← get
    let (ps, esp) ← pushPlaces s.segs.ss (.ss (zeroCode ext)) (s.cpl == 3) z 1 s.gpr.esp
    pushValues ps [c]
    setEsp esp

/-- A handler is entered without a task switch (R409); `loadTask` counts one entered by a switch. -/
def handlerEntered : M Unit := modify fun s => { s with pend := s.pend.entered }

/-- Delivery through the IDT in protected mode (R420 steps 1 to 6). -/
def deliverProt (ev : Event) : M Unit := do
  let s ← get
  let v := ev.vector.toNat
  let ext := ev.kind != .soft
  let idtCode : Half := BitVec.ofNat 16 (8 * v + 2 + b2n ext)
  require (decide (8 * v + 7 ≤ s.sys.idtr.limit.toNat)) (.gp idtCode)
  let gate ← readDescAt (s.sys.idtr.base + BitVec.ofNat 32 (8 * v))
  require (!gate.s && [5, 6, 7, 14, 15].contains gate.typ) (.gp idtCode)
  require (ev.kind != .soft || decide (s.cpl ≤ gate.dpl)) (.gp idtCode)
  require gate.p (.np idtCode)
  if gate.typ == 5 then deliverTask ev gate ext
  else do
    deliverGate ev gate ext
    handlerEntered

/-- One attempt to deliver an event. -/
def deliverOnce (ev : Event) : M Unit := do
  let s ← get
  if s.v86 then refuse .virtual8086
  if s.pe then deliverProt ev
  else do
    deliverReal ev
    handlerEntered

/-! ## Exceptions during delivery -/

/-- The classes of R409. -/
inductive ExcClass where
  | benign | contributory | pageFault
  deriving DecidableEq, Repr

/-- The class of an exception vector (R409). -/
def vectorClass (v : Byte) : ExcClass :=
  if v == 14#8 then .pageFault
  else if v == 0#8 || v == 10#8 || v == 11#8 || v == 12#8 || v == 13#8 then .contributory
  else .benign

/-- The class of an event: INT n and external interrupts are benign whatever their vector (R409). -/
def Event.class (ev : Event) : ExcClass :=
  if ev.kind == .exception then vectorClass ev.vector else .benign

/-- Whether a second exception while delivering a first gives a double fault (R409). -/
def doubleFaults : ExcClass → ExcClass → Bool
  | .contributory, .contributory => true
  | .pageFault, .contributory => true
  | .pageFault, .pageFault => true
  | _, _ => false

/-- The event of an exception raised at an instruction: a fault saves the pointer to it and RF = 1 in the image
(R404, R426); a debug trap saves the flags as they are. -/
def Exc.event (e : Exc) (s : State) : Event :=
  ⟨e.vector, .exception, e.code, { s.resumeHere with rf := if e == .db then s.eflags.rf else true }⟩

/-- The double-fault event (R409): error code 0, saved CS and EIP undefined (R404, U18; free values). -/
def doubleFaultEvent (s : State) : Event :=
  ⟨8#8, .exception, some 0#32, ⟨(Config.freeWord (s.free + 1)).setWidth 16, Config.freeWord s.free, s.eflags.rf⟩⟩

/-- What a fault leaves of the work done before it (R405): accessed, dirty and busy-checking updates in memory, CR2, TLB
tuples and used free values; everything else is as it was. -/
def rollback (s s1 : State) : State :=
  { s with mem := s1.mem, tlb := s1.tlb, sys := { s.sys with cr2 := s1.sys.cr2 }, free := s1.free }

/-- The state after an event is taken: awake, monitor disarmed (R378, R385; by any event, software interrupts and debug traps
too: DESIGN CHOICE, log 40). An instruction that a software interrupt ends has completed (R413). -/
def awake (kind : EventKind) (s : State) : State :=
  { disarm s with
    act := { s.act with halted := false, mwaiting := false, monitor := none }
    ctx := { s.ctx with delivered := kind != .soft } }

/-- Shutdown (R409): no debug trap follows, and no handler whose return an event could wait for. The events that lead to it
are over as if their handler had been entered: a halt and an MWAIT wait have ended and the monitor is disarmed (R378, R385;
DEDUCED, log 30). -/
def shutDown (s : State) : State :=
  awake .exception { s with
    act := { s.act with shutdown := true }
    pend := { s.pend with taskTrap := false, stepTrap := false, held := [] } }

/-- The second exception of R409, met while delivering an event; `k` delivers the event that follows: serial
handling, in a state where `hold` has put the first event aside, the double fault, or shutdown. -/
def nestedException (k : Event → State → Result) (hold : State → State) (ev : Event) (e : Exc) (s : State) : Result :=
  if ev.kind == .exception && ev.vector == 8#8 then .next (shutDown s)
  else if doubleFaults ev.class (vectorClass e.vector) then k (doubleFaultEvent s) { s with free := s.free + 2 }
  else k (e.event s) (hold s)

/-- The delivery of an event goes on in the next step (R409, log 42); no instruction has completed. -/
def State.delivering (s : State) (again : Bool) (ev : Event) : State :=
  { s with pend := { s.pend with delivering := some (ev, again) }, ctx := { s.ctx with delivered := true } }

/-- An exception waits for the return from the handler of the one met at its delivery (R409, log 27), if `again` says that no
restart of an instruction raises it again. -/
def State.holdException (s : State) (again : Bool) (ev : Event) : State :=
  if again then { s with pend := { s.pend with held := s.pend.held ++ [(.exception ev.vector ev.code, 0)] } } else s

/-- Delivers an event; an exception while delivering is handled serially, as a double fault or as shutdown (R409); `again`: the
event is then held for another attempt. An exception met after the commit point of a task switch belongs to the new task: the
event that led to the switch is delivered, and no instruction's restart raises the exception again. A longer chain of serial
exceptions (an alignment check whose own delivery fails the same check never ends) goes on in the next step. -/
def deliverLoop : Nat → Bool → Event → State → Result
  | 0, again, ev, s => .next (s.delivering again ev)
  | fuel + 1, again, ev, s =>
    match deliverOnce ev s with
    | .ok _ s' => .next (awake ev.kind s')
    | .error (.refuse r) _ => .refused r
    | .error (.fault f) _ => .fault f
    | .error (.raise e) s1 =>
      nestedException (deliverLoop fuel false) (fun t => t.holdException again ev) ev e (rollback s s1)
    | .error (.trap e) s1 => nestedException (deliverLoop fuel true) id ev e s1

/-- How many deliveries of a chain of exceptions (R409) one step attempts (log 42). -/
def deliverFuel : Nat := 16

/-- Takes an interrupt or exception (R420, R409). -/
def takeEvent (ev : Event) (s : State) : Result := deliverLoop deliverFuel false ev s

/-- Takes an exception raised in a state (R420, R404). -/
def takeException (e : Exc) (s : State) : Result := takeEvent (e.event s) s

/-- Takes an exception that a task switch raised after its commit point (R326, R404, R409). -/
def takeTaskException (e : Exc) (s : State) : Result := deliverLoop deliverFuel true (e.event s) s

/-! ## Running an instruction -/

/-- The outcome of a computation started in a state: a fault abandons its effects and is taken (R405, R413). -/
def conclude (s : State) : EStateM.Result Stop State Unit → Result
  | .ok _ s' => .next s'
  | .error (.raise e) s1 => takeException e (rollback s s1)
  | .error (.trap e) s1 => takeTaskException e s1
  | .error (.refuse r) _ => .refused r
  | .error (.fault f) _ => .fault f

/-- Runs an instruction that places EIP itself; a LOCK prefix it does not allow is #UD (R351, R209). -/
def runJump (lockable : Bool) (body : M Unit) (s : State) : Result :=
  conclude s ((do require (!s.locked || lockable) .ud; body : M Unit) s)

/-- Runs an instruction and goes on to the next one (R23). -/
def runInsn (lockable : Bool) (body : M Unit) (s : State) : Result :=
  runJump lockable (do body; advance) s

/-- A software interrupt (R292 to R294): delivered with the next instruction as the saved pointer. -/
def softInt (v : Byte) (s : State) : Result :=
  if s.locked then takeException .ud s
  else takeEvent ⟨v, .soft, none, s.resumeNext⟩ s

/-- `priv()`: the instruction runs at CPL 0 only (R220). -/
def requireCpl0 : M Unit := do require ((← get).cpl == 0) (.gp 0#16)

/-! ## Returning -/

/-- EFLAGS written from a popped image with the filter of R309 for IRET and of R308 for POPF; with a 16-bit operand
the upper half stays (DEDUCED, log 11). RF: IRET takes it from a 32-bit image, POPF clears it. -/
def restoreFlags (iret is16 : Bool) (cpl : Nat) (old : Eflags) (image : Word) : Eflags :=
  let n := Eflags.ofWord image
  { cf := n.cf
    pf := n.pf
    af := n.af
    zf := n.zf
    sf := n.sf
    tf := n.tf
    intf := if cpl ≤ old.iopl.toNat then n.intf else old.intf
    df := n.df
    ovf := n.ovf
    iopl := if cpl = 0 then n.iopl else old.iopl
    nt := n.nt
    rf := iret && !is16 && n.rf
    vm := old.vm
    ac := if is16 then old.ac else n.ac
    vif := if iret && !is16 && cpl == 0 then n.vif else old.vif
    vip := if iret && !is16 && cpl == 0 then n.vip else old.vip
    id := if is16 then old.id else n.id }

/-- The checks on the code segment of a far return (R289); gives its descriptor. R289 names the relation of RPL and CPL apart
from its list of checks and orders neither: that the descriptor is read and its type tested before the relation is the model's
choice (DESIGN CHOICE, log 33). -/
def checkReturnCs (sel : Half) (off : Word) : M Desc := do
  let cpl := (← get).cpl
  if isNull sel then gp0
  let e := Exc.gp (selCode sel false)
  let d ← readDesc sel e
  require d.isCode e
  require (decide (cpl ≤ rpl sel)) e
  require (if d.conforming then decide (d.dpl ≤ rpl sel) else d.dpl == rpl sel) e
  require d.p (.np (selCode sel false))
  require (decide (off.toNat ≤ d.limit)) (.gp 0#16)
  return d

/-- The checks on the stack segment of a return to an outer level (R290 step 4). -/
def checkReturnSs (sel : Half) (cpl : Nat) : M SegReg := do
  let e := Exc.gp (selCode sel false)
  require (!isNull sel) e
  let d ← readDesc sel e
  require (rpl sel == cpl && d.isWritable && d.dpl == cpl) e
  require d.p (.ss (selCode sel false))
  return (← setAccessed sel d).toSegReg sel

/-- A data-segment register on return to an outer level: too privileged a segment is replaced by the null selector
(R290 step 6). A null selector selects no segment, whatever the cache holds. -/
def SegReg.outward (r : SegReg) (cpl : Nat) : SegReg :=
  let conformingCode := r.isCode && r.attr.typ.getLsbD 2
  if !isNull r.sel && !conformingCode && decide (r.attr.dpl.toNat < cpl) then { r with sel := 0#16 } else r

/-- All four data-segment registers on return to an outer level (R290 step 6). -/
def Segs.outward (g : Segs) (cpl : Nat) : Segs :=
  { g with ds := g.ds.outward cpl, es := g.es.outward cpl, fs := g.fs.outward cpl, gs := g.gs.outward cpl }

/-- The common part of far returns (R289, R290, R296): `k` items of the operand size lie at ESP before the calling
ESP and SS, `n` further bytes are released on both stacks; `flags` pops what gives the new flags, after EIP and CS. -/
def farReturn (z : Sz) (k n : Nat) (flags : M (Eflags → Eflags)) : M Unit := do
  let s ← get
  let off ← peek z 0
  let sel : Half := (← peek z z.bytes).setWidth 16
  let fl ← flags
  let d ← checkReturnCs sel off
  let cpl := rpl sel
  if cpl == s.cpl then
    let d ← setAccessed sel d
    modify fun s => { s.setCs sel cpl d with
      gpr := { s.gpr with esp := s.popped (k * z.bytes + n) }
      eip := d.attr.ip off
      eflags := fl s.eflags }
  else
    let esp ← peek z (k * z.bytes + n)
    let ssSel : Half := (← peek z (k * z.bytes + n + z.bytes)).setWidth 16
    let ss ← checkReturnSs ssSel cpl
    let d ← setAccessed sel d
    modify fun s =>
      let s' := (s.setSeg .ss ss).setCs sel cpl d
      { s' with
        segs := s'.segs.outward cpl
        gpr := { s.gpr with esp := ss.stackMove esp n }
        eip := d.attr.ip off
        eflags := fl s.eflags }

/-- A far return in real-address mode: the selector gives the base (R570, log 8). -/
def farReturnReal (z : Sz) (k n : Nat) (flags : M (Eflags → Eflags)) : M Unit := do
  let s ← get
  let off ← peek z 0
  let sel : Half := (← peek z z.bytes).setWidth 16
  let fl ← flags
  require (s.segs.cs.limitOk off 1) (.gp 0#16)
  modify fun s => { s.setSeg .cs (realSeg s.segs.cs sel) with
    gpr := { s.gpr with esp := s.popped (k * z.bytes + n) }
    eip := s.eipMask off
    eflags := fl s.eflags }

/-- An event is held for the return of the handler entered last (R409, log 27). -/
def Pending.due (p : Pending) (h : Held) : Bool := p.held.any fun x => x.1 == h && decide (x.2 ≤ 1)

/-- The exception held for the return of the handler entered last (R409, log 27). -/
def Pending.dueException (p : Pending) : Option (Byte × Option Word) :=
  p.held.findSome? fun x => match x with
    | (.exception v c, n) => if n ≤ 1 then some (v, c) else none
    | _ => none

/-- The handler of an event has returned: NMIs are recognised again (R296, R406), and the events that waited for it are
attempted again (R409, log 27). -/
def Pending.released (p : Pending) : Pending :=
  { p with
    nmiBlocked := false
    taskTrap := p.taskTrap || p.due .taskTrap
    stepTrap := p.stepTrap || p.due .stepTrap
    reattempt := p.dueException.or p.reattempt
    held := (p.held.filter fun x => decide (1 < x.2)).map fun x => (x.1, x.2 - 1) }

/-- IRET ends the handler of an event (R296, R406, R409). -/
def handlerDone : M Unit := modify fun s => { s with pend := s.pend.released }

/-- The third item IRET pops: it gives the flags (R309). A return to virtual-8086 mode is refused (R296, D2). -/
def popFlags (z : Sz) : M (Eflags → Eflags) := do
  let s ← get
  let image ← peek z (2 * z.bytes)
  if s.pe && z == .d && bit image 17 && s.cpl == 0 then refuse .virtual8086
  return fun f => restoreFlags true (z == .w) s.cpl f image

/-- IRET (R296): back to the previous task when NT = 1, else a far return that also restores EFLAGS (R309). -/
def iretBody : M Unit := do
  let s ← get
  let z := s.osz
  if s.pe && s.eflags.nt then
    let link ← sysRead s.sys.tr.base 2
    handlerDone
    let _ ← taskSwitch .iret (BitVec.ofNat 16 link) s.resumeNext false
  else
    if s.pe then farReturn z 3 0 (popFlags z) else farReturnReal z 3 0 (popFlags z)
    handlerDone

end Sys2Proof.Machine
end

