-- ==== Sys2Proof/Machine/Alu.lean ====
section
/-! DEFINITION. Arithmetic and logic: the eight ALU operations, TEST, INC, DEC, NOT, NEG (R610 to R619). -/
namespace Sys2Proof.Machine

/-- The eight two-operand operations (R610). -/
inductive AluOp where
  | add | or | adc | sbb | and | sub | xor | cmp
  deriving DecidableEq, Repr

/-- A bitwise operation: AF is left undefined (R602). -/
def AluOp.isLogic : AluOp → Bool
  | .or | .and | .xor => true
  | _ => false

/-- The result of an operation on operands of a width (R611 to R616). -/
def AluOp.result (o : AluOp) (z : Sz) (a b : Word) (cf : Bool) : Word :=
  match o with
  | .add => addRes z a b false
  | .adc => addRes z a b cf
  | .sub | .cmp => subRes z a b false
  | .sbb => subRes z a b cf
  | .and => a &&& b
  | .or => a ||| b
  | .xor => a ^^^ b

/-- The flags of an operation (R602, R611 to R616); `af` is the free AF of a bitwise operation (D26, log 10). -/
def AluOp.flags (o : AluOp) (z : Sz) (a b : Word) (af : Bool) (f : Eflags) : Eflags :=
  match o with
  | .add => addFlags z a b false f
  | .adc => addFlags z a b f.cf f
  | .sub | .cmp => subFlags z a b false f
  | .sbb => subFlags z a b f.cf f
  | .and => logicFlags z (a &&& b) af f
  | .or => logicFlags z (a ||| b) af f
  | .xor => logicFlags z (a ^^^ b) af f

/-- Writes EFLAGS. -/
def setFlags (f : Eflags → Eflags) : M Unit := modify fun s => { s with eflags := f s.eflags }

/-- A two-operand operation (R601, R610): the destination is checked for writing before anything changes; CMP only
reads it. -/
def aluOp (o : AluOp) (z : Sz) (dst : Access → M Place) (src : M Word) : M Unit := do
  let p ← dst (if o == .cmp then .read else .write)
  lockCheck (← get).locked p
  let b ← src
  let a ← p.get
  let af ← if o.isLogic then freshBit else pure false
  let cf := (← get).eflags.cf
  if o != .cmp then p.set (o.result z a b cf)
  setFlags (o.flags z a b af)

/-- The current operand size passed to a computation (R202). -/
def atOsz (f : Sz → M Unit) : M Unit := do f (← get).osz

/-- A register operand of operand size. -/
def regVal (z : Sz) (r : Reg) : M Word := do return (← get).gpr.read z r
/-- A byte register operand. -/
def regVal8 (r : Reg8) : M Word := do return (← get).gpr.read8 r
/-- A byte immediate extended to an operand size by its sign (R205). -/
def immSext (z : Sz) (v : Byte) : Word := z.trunc (sext8 v)

/-- `op r/m8, r8`. -/
def aluRm8R8 (o : AluOp) (dst : RM Reg8) (r : Reg8) : M Unit := aluOp o .b (fun k => place8 k dst) (regVal8 r)
/-- `op r/m, r`. -/
def aluRmR (o : AluOp) (dst : RM Reg) (r : Reg) : M Unit :=
  atOsz fun z => aluOp o z (fun k => place z k dst) (regVal z r)
/-- `op r8, r/m8`. -/
def aluR8Rm8 (o : AluOp) (r : Reg8) (src : RM Reg8) : M Unit :=
  aluOp o .b (fun _ => pure (.reg8 r)) (readRM8 src)
/-- `op r, r/m`. -/
def aluRRm (o : AluOp) (r : Reg) (src : RM Reg) : M Unit :=
  atOsz fun z => aluOp o z (fun _ => pure (.reg z r)) (readRM z src)
/-- `op r/m8, imm8`. -/
def aluRm8Imm8 (o : AluOp) (dst : RM Reg8) (v : Byte) : M Unit :=
  aluOp o .b (fun k => place8 k dst) (pure (v.setWidth 32))
/-- `op r/m, imm`. -/
def aluRmImm (o : AluOp) (dst : RM Reg) (v : Word) : M Unit :=
  atOsz fun z => aluOp o z (fun k => place z k dst) (pure (z.trunc v))
/-- `op r/m, sext(imm8)`. -/
def aluRmImm8 (o : AluOp) (dst : RM Reg) (v : Byte) : M Unit :=
  atOsz fun z => aluOp o z (fun k => place z k dst) (pure (immSext z v))

/-- TEST: the flags of AND, the result discarded (R617). -/
def testOp (z : Sz) (dst : M Place) (src : M Word) : M Unit := do
  let p ← dst
  let b ← src
  let a ← p.get
  let af ← freshBit
  setFlags (logicFlags z (a &&& b) af)

/-- A one-operand operation: the new value and the new flags from the old value (R618, R619). -/
def unaryOp (dst : M Place) (res : Word → Word) (fl : Word → Eflags → Eflags) : M Unit := do
  let p ← dst
  lockCheck (← get).locked p
  let a ← p.get
  p.set (res a)
  setFlags (fl a)

/-- INC's flags: those of adding 1, CF kept (R618). -/
def incFlags (z : Sz) (a : Word) (f : Eflags) : Eflags := { addFlags z a 1#32 false f with cf := f.cf }
/-- DEC's flags: those of subtracting 1, CF kept (R618). -/
def decFlags (z : Sz) (a : Word) (f : Eflags) : Eflags := { subFlags z a 1#32 false f with cf := f.cf }

/-- INC (R618). -/
def incOp (z : Sz) (dst : M Place) : M Unit := unaryOp dst (fun a => addRes z a 1#32 false) (incFlags z)
/-- DEC (R618). -/
def decOp (z : Sz) (dst : M Place) : M Unit := unaryOp dst (fun a => subRes z a 1#32 false) (decFlags z)
/-- NOT (R619). -/
def notOp (z : Sz) (dst : M Place) : M Unit := unaryOp dst (fun a => z.trunc (~~~a)) (fun _ f => f)
/-- NEG: the flags of subtracting from 0; its CF is "the operand was not 0" (R619). -/
def negOp (z : Sz) (dst : M Place) : M Unit :=
  unaryOp dst (fun a => subRes z 0#32 a false) (fun a => subFlags z 0#32 a false)

/-- ADD r/m8, r8 (R611). -/
def execAddRm8R8 (dst : RM Reg8) (r : Reg8) (s : State) : Result :=
  runInsn dst.isMem (aluRm8R8 .add dst r) s

/-- ADD r/m, r (R611). -/
def execAddRmR (dst : RM Reg) (r : Reg) (s : State) : Result :=
  runInsn dst.isMem (aluRmR .add dst r) s

/-- ADD r8, r/m8 (R611). -/
def execAddR8Rm8 (r : Reg8) (src : RM Reg8) (s : State) : Result :=
  runInsn false (aluR8Rm8 .add r src) s

/-- ADD r, r/m (R611). -/
def execAddRRm (r : Reg) (src : RM Reg) (s : State) : Result :=
  runInsn false (aluRRm .add r src) s

/-- ADD AL, imm8 (R611). -/
def execAddAlImm8 (imm : Byte) (s : State) : Result :=
  runInsn false (aluRm8Imm8 .add (.reg .al) imm) s

/-- ADD eAX, imm (R611). -/
def execAddEaxImm (imm : Word) (s : State) : Result :=
  runInsn false (aluRmImm .add (.reg .eax) imm) s

/-- ADD r/m8, imm8 (R611). -/
def execAddRm8Imm8 (rm : RM Reg8) (imm : Byte) (s : State) : Result :=
  runInsn rm.isMem (aluRm8Imm8 .add rm imm) s

/-- ADD r/m, imm (R611). -/
def execAddRmImm (rm : RM Reg) (imm : Word) (s : State) : Result :=
  runInsn rm.isMem (aluRmImm .add rm imm) s

/-- ADD r/m, imm8 (R611). -/
def execAddRmImm8 (rm : RM Reg) (imm : Byte) (s : State) : Result :=
  runInsn rm.isMem (aluRmImm8 .add rm imm) s

/-- OR r/m8, r8 (R615). -/
def execOrRm8R8 (dst : RM Reg8) (r : Reg8) (s : State) : Result :=
  runInsn dst.isMem (aluRm8R8 .or dst r) s

/-- OR r/m, r (R615). -/
def execOrRmR (dst : RM Reg) (r : Reg) (s : State) : Result :=
  runInsn dst.isMem (aluRmR .or dst r) s

/-- OR r8, r/m8 (R615). -/
def execOrR8Rm8 (r : Reg8) (src : RM Reg8) (s : State) : Result :=
  runInsn false (aluR8Rm8 .or r src) s

/-- OR r, r/m (R615). -/
def execOrRRm (r : Reg) (src : RM Reg) (s : State) : Result :=
  runInsn false (aluRRm .or r src) s

/-- OR AL, imm8 (R615). -/
def execOrAlImm8 (imm : Byte) (s : State) : Result :=
  runInsn false (aluRm8Imm8 .or (.reg .al) imm) s

/-- OR eAX, imm (R615). -/
def execOrEaxImm (imm : Word) (s : State) : Result :=
  runInsn false (aluRmImm .or (.reg .eax) imm) s

/-- OR r/m8, imm8 (R615). -/
def execOrRm8Imm8 (rm : RM Reg8) (imm : Byte) (s : State) : Result :=
  runInsn rm.isMem (aluRm8Imm8 .or rm imm) s

/-- OR r/m, imm (R615). -/
def execOrRmImm (rm : RM Reg) (imm : Word) (s : State) : Result :=
  runInsn rm.isMem (aluRmImm .or rm imm) s

/-- OR r/m, imm8 (R615). -/
def execOrRmImm8 (rm : RM Reg) (imm : Byte) (s : State) : Result :=
  runInsn rm.isMem (aluRmImm8 .or rm imm) s

/-- ADC r/m8, r8 (R612). -/
def execAdcRm8R8 (dst : RM Reg8) (r : Reg8) (s : State) : Result :=
  runInsn dst.isMem (aluRm8R8 .adc dst r) s

/-- ADC r/m, r (R612). -/
def execAdcRmR (dst : RM Reg) (r : Reg) (s : State) : Result :=
  runInsn dst.isMem (aluRmR .adc dst r) s

/-- ADC r8, r/m8 (R612). -/
def execAdcR8Rm8 (r : Reg8) (src : RM Reg8) (s : State) : Result :=
  runInsn false (aluR8Rm8 .adc r src) s

/-- ADC r, r/m (R612). -/
def execAdcRRm (r : Reg) (src : RM Reg) (s : State) : Result :=
  runInsn false (aluRRm .adc r src) s

/-- ADC AL, imm8 (R612). -/
def execAdcAlImm8 (imm : Byte) (s : State) : Result :=
  runInsn false (aluRm8Imm8 .adc (.reg .al) imm) s

/-- ADC eAX, imm (R612). -/
def execAdcEaxImm (imm : Word) (s : State) : Result :=
  runInsn false (aluRmImm .adc (.reg .eax) imm) s

/-- ADC r/m8, imm8 (R612). -/
def execAdcRm8Imm8 (rm : RM Reg8) (imm : Byte) (s : State) : Result :=
  runInsn rm.isMem (aluRm8Imm8 .adc rm imm) s

/-- ADC r/m, imm (R612). -/
def execAdcRmImm (rm : RM Reg) (imm : Word) (s : State) : Result :=
  runInsn rm.isMem (aluRmImm .adc rm imm) s

/-- ADC r/m, imm8 (R612). -/
def execAdcRmImm8 (rm : RM Reg) (imm : Byte) (s : State) : Result :=
  runInsn rm.isMem (aluRmImm8 .adc rm imm) s

/-- SBB r/m8, r8 (R614). -/
def execSbbRm8R8 (dst : RM Reg8) (r : Reg8) (s : State) : Result :=
  runInsn dst.isMem (aluRm8R8 .sbb dst r) s

/-- SBB r/m, r (R614). -/
def execSbbRmR (dst : RM Reg) (r : Reg) (s : State) : Result :=
  runInsn dst.isMem (aluRmR .sbb dst r) s

/-- SBB r8, r/m8 (R614). -/
def execSbbR8Rm8 (r : Reg8) (src : RM Reg8) (s : State) : Result :=
  runInsn false (aluR8Rm8 .sbb r src) s

/-- SBB r, r/m (R614). -/
def execSbbRRm (r : Reg) (src : RM Reg) (s : State) : Result :=
  runInsn false (aluRRm .sbb r src) s

/-- SBB AL, imm8 (R614). -/
def execSbbAlImm8 (imm : Byte) (s : State) : Result :=
  runInsn false (aluRm8Imm8 .sbb (.reg .al) imm) s

/-- SBB eAX, imm (R614). -/
def execSbbEaxImm (imm : Word) (s : State) : Result :=
  runInsn false (aluRmImm .sbb (.reg .eax) imm) s

/-- SBB r/m8, imm8 (R614). -/
def execSbbRm8Imm8 (rm : RM Reg8) (imm : Byte) (s : State) : Result :=
  runInsn rm.isMem (aluRm8Imm8 .sbb rm imm) s

/-- SBB r/m, imm (R614). -/
def execSbbRmImm (rm : RM Reg) (imm : Word) (s : State) : Result :=
  runInsn rm.isMem (aluRmImm .sbb rm imm) s

/-- SBB r/m, imm8 (R614). -/
def execSbbRmImm8 (rm : RM Reg) (imm : Byte) (s : State) : Result :=
  runInsn rm.isMem (aluRmImm8 .sbb rm imm) s

/-- AND r/m8, r8 (R615). -/
def execAndRm8R8 (dst : RM Reg8) (r : Reg8) (s : State) : Result :=
  runInsn dst.isMem (aluRm8R8 .and dst r) s

/-- AND r/m, r (R615). -/
def execAndRmR (dst : RM Reg) (r : Reg) (s : State) : Result :=
  runInsn dst.isMem (aluRmR .and dst r) s

/-- AND r8, r/m8 (R615). -/
def execAndR8Rm8 (r : Reg8) (src : RM Reg8) (s : State) : Result :=
  runInsn false (aluR8Rm8 .and r src) s

/-- AND r, r/m (R615). -/
def execAndRRm (r : Reg) (src : RM Reg) (s : State) : Result :=
  runInsn false (aluRRm .and r src) s

/-- AND AL, imm8 (R615). -/
def execAndAlImm8 (imm : Byte) (s : State) : Result :=
  runInsn false (aluRm8Imm8 .and (.reg .al) imm) s

/-- AND eAX, imm (R615). -/
def execAndEaxImm (imm : Word) (s : State) : Result :=
  runInsn false (aluRmImm .and (.reg .eax) imm) s

/-- AND r/m8, imm8 (R615). -/
def execAndRm8Imm8 (rm : RM Reg8) (imm : Byte) (s : State) : Result :=
  runInsn rm.isMem (aluRm8Imm8 .and rm imm) s

/-- AND r/m, imm (R615). -/
def execAndRmImm (rm : RM Reg) (imm : Word) (s : State) : Result :=
  runInsn rm.isMem (aluRmImm .and rm imm) s

/-- AND r/m, imm8 (R615). -/
def execAndRmImm8 (rm : RM Reg) (imm : Byte) (s : State) : Result :=
  runInsn rm.isMem (aluRmImm8 .and rm imm) s

/-- SUB r/m8, r8 (R613). -/
def execSubRm8R8 (dst : RM Reg8) (r : Reg8) (s : State) : Result :=
  runInsn dst.isMem (aluRm8R8 .sub dst r) s

/-- SUB r/m, r (R613). -/
def execSubRmR (dst : RM Reg) (r : Reg) (s : State) : Result :=
  runInsn dst.isMem (aluRmR .sub dst r) s

/-- SUB r8, r/m8 (R613). -/
def execSubR8Rm8 (r : Reg8) (src : RM Reg8) (s : State) : Result :=
  runInsn false (aluR8Rm8 .sub r src) s

/-- SUB r, r/m (R613). -/
def execSubRRm (r : Reg) (src : RM Reg) (s : State) : Result :=
  runInsn false (aluRRm .sub r src) s

/-- SUB AL, imm8 (R613). -/
def execSubAlImm8 (imm : Byte) (s : State) : Result :=
  runInsn false (aluRm8Imm8 .sub (.reg .al) imm) s

/-- SUB eAX, imm (R613). -/
def execSubEaxImm (imm : Word) (s : State) : Result :=
  runInsn false (aluRmImm .sub (.reg .eax) imm) s

/-- SUB r/m8, imm8 (R613). -/
def execSubRm8Imm8 (rm : RM Reg8) (imm : Byte) (s : State) : Result :=
  runInsn rm.isMem (aluRm8Imm8 .sub rm imm) s

/-- SUB r/m, imm (R613). -/
def execSubRmImm (rm : RM Reg) (imm : Word) (s : State) : Result :=
  runInsn rm.isMem (aluRmImm .sub rm imm) s

/-- SUB r/m, imm8 (R613). -/
def execSubRmImm8 (rm : RM Reg) (imm : Byte) (s : State) : Result :=
  runInsn rm.isMem (aluRmImm8 .sub rm imm) s

/-- XOR r/m8, r8 (R615). -/
def execXorRm8R8 (dst : RM Reg8) (r : Reg8) (s : State) : Result :=
  runInsn dst.isMem (aluRm8R8 .xor dst r) s

/-- XOR r/m, r (R615). -/
def execXorRmR (dst : RM Reg) (r : Reg) (s : State) : Result :=
  runInsn dst.isMem (aluRmR .xor dst r) s

/-- XOR r8, r/m8 (R615). -/
def execXorR8Rm8 (r : Reg8) (src : RM Reg8) (s : State) : Result :=
  runInsn false (aluR8Rm8 .xor r src) s

/-- XOR r, r/m (R615). -/
def execXorRRm (r : Reg) (src : RM Reg) (s : State) : Result :=
  runInsn false (aluRRm .xor r src) s

/-- XOR AL, imm8 (R615). -/
def execXorAlImm8 (imm : Byte) (s : State) : Result :=
  runInsn false (aluRm8Imm8 .xor (.reg .al) imm) s

/-- XOR eAX, imm (R615). -/
def execXorEaxImm (imm : Word) (s : State) : Result :=
  runInsn false (aluRmImm .xor (.reg .eax) imm) s

/-- XOR r/m8, imm8 (R615). -/
def execXorRm8Imm8 (rm : RM Reg8) (imm : Byte) (s : State) : Result :=
  runInsn rm.isMem (aluRm8Imm8 .xor rm imm) s

/-- XOR r/m, imm (R615). -/
def execXorRmImm (rm : RM Reg) (imm : Word) (s : State) : Result :=
  runInsn rm.isMem (aluRmImm .xor rm imm) s

/-- XOR r/m, imm8 (R615). -/
def execXorRmImm8 (rm : RM Reg) (imm : Byte) (s : State) : Result :=
  runInsn rm.isMem (aluRmImm8 .xor rm imm) s

/-- CMP r/m8, r8 (R616). -/
def execCmpRm8R8 (dst : RM Reg8) (r : Reg8) (s : State) : Result :=
  runInsn false (aluRm8R8 .cmp dst r) s

/-- CMP r/m, r (R616). -/
def execCmpRmR (dst : RM Reg) (r : Reg) (s : State) : Result :=
  runInsn false (aluRmR .cmp dst r) s

/-- CMP r8, r/m8 (R616). -/
def execCmpR8Rm8 (r : Reg8) (src : RM Reg8) (s : State) : Result :=
  runInsn false (aluR8Rm8 .cmp r src) s

/-- CMP r, r/m (R616). -/
def execCmpRRm (r : Reg) (src : RM Reg) (s : State) : Result :=
  runInsn false (aluRRm .cmp r src) s

/-- CMP AL, imm8 (R616). -/
def execCmpAlImm8 (imm : Byte) (s : State) : Result :=
  runInsn false (aluRm8Imm8 .cmp (.reg .al) imm) s

/-- CMP eAX, imm (R616). -/
def execCmpEaxImm (imm : Word) (s : State) : Result :=
  runInsn false (aluRmImm .cmp (.reg .eax) imm) s

/-- CMP r/m8, imm8 (R616). -/
def execCmpRm8Imm8 (rm : RM Reg8) (imm : Byte) (s : State) : Result :=
  runInsn false (aluRm8Imm8 .cmp rm imm) s

/-- CMP r/m, imm (R616). -/
def execCmpRmImm (rm : RM Reg) (imm : Word) (s : State) : Result :=
  runInsn false (aluRmImm .cmp rm imm) s

/-- CMP r/m, imm8 (R616). -/
def execCmpRmImm8 (rm : RM Reg) (imm : Byte) (s : State) : Result :=
  runInsn false (aluRmImm8 .cmp rm imm) s

/-- TEST r/m8, r8 (R617). -/
def execTestRm8R8 (dst : RM Reg8) (r : Reg8) (s : State) : Result :=
  runInsn false (testOp .b (place8 .read dst) (regVal8 r)) s

/-- TEST r/m, r (R617). -/
def execTestRmR (dst : RM Reg) (r : Reg) (s : State) : Result :=
  runInsn false (atOsz fun z => testOp z (place z .read dst) (regVal z r)) s

/-- TEST AL, imm8 (R617). -/
def execTestAlImm8 (imm : Byte) (s : State) : Result :=
  runInsn false (testOp .b (pure (.reg8 .al)) (pure (imm.setWidth 32))) s

/-- TEST eAX, imm (R617). -/
def execTestEaxImm (imm : Word) (s : State) : Result :=
  runInsn false (atOsz fun z => testOp z (pure (.reg z .eax)) (pure (z.trunc imm))) s

/-- TEST r/m8, imm8 (R617). -/
def execTestRm8Imm8 (rm : RM Reg8) (imm : Byte) (s : State) : Result :=
  runInsn false (testOp .b (place8 .read rm) (pure (imm.setWidth 32))) s

/-- TEST r/m, imm (R617). -/
def execTestRmImm (rm : RM Reg) (imm : Word) (s : State) : Result :=
  runInsn false (atOsz fun z => testOp z (place z .read rm) (pure (z.trunc imm))) s

/-- INC r/m8 (R618). -/
def execIncRm8 (rm : RM Reg8) (s : State) : Result :=
  runInsn rm.isMem (incOp .b (place8 .write rm)) s

/-- INC r/m (R618). -/
def execIncRm (rm : RM Reg) (s : State) : Result :=
  runInsn rm.isMem (atOsz fun z => incOp z (place z .write rm)) s

/-- DEC r/m8 (R618). -/
def execDecRm8 (rm : RM Reg8) (s : State) : Result :=
  runInsn rm.isMem (decOp .b (place8 .write rm)) s

/-- DEC r/m (R618). -/
def execDecRm (rm : RM Reg) (s : State) : Result :=
  runInsn rm.isMem (atOsz fun z => decOp z (place z .write rm)) s

/-- NOT r/m8 (R619). -/
def execNotRm8 (rm : RM Reg8) (s : State) : Result :=
  runInsn rm.isMem (notOp .b (place8 .write rm)) s

/-- NOT r/m (R619). -/
def execNotRm (rm : RM Reg) (s : State) : Result :=
  runInsn rm.isMem (atOsz fun z => notOp z (place z .write rm)) s

/-- NEG r/m8 (R619). -/
def execNegRm8 (rm : RM Reg8) (s : State) : Result :=
  runInsn rm.isMem (negOp .b (place8 .write rm)) s

/-- NEG r/m (R619). -/
def execNegRm (rm : RM Reg) (s : State) : Result :=
  runInsn rm.isMem (atOsz fun z => negOp z (place z .write rm)) s

/-- INC r (R618). -/
def execIncR (r : Reg) (s : State) : Result :=
  runInsn false (atOsz fun z => incOp z (pure (.reg z r))) s

/-- DEC r (R618). -/
def execDecR (r : Reg) (s : State) : Result :=
  runInsn false (atOsz fun z => decOp z (pure (.reg z r))) s

end Sys2Proof.Machine
end

