-- ==== Sys2Proof/Machine/BitOps.lean ====
section
/-! DEFINITION. XADD, CMPXCHG, CMPXCHG8B and the bit instructions (R620 to R623). -/
namespace Sys2Proof.Machine

/-- XADD (R620): the register takes the old destination, the destination the sum. -/
def xaddOp (z : Sz) (dst : M Place) (r : Place) : M Unit := do
  let p ← dst
  lockCheck (← get).locked p
  let a ← p.get
  let b ← r.get
  r.set a
  p.set (addRes z a b false)
  setFlags (addFlags z a b false)

/-- CMPXCHG (R621): the destination is written in both cases. -/
def cmpxchgOp (z : Sz) (dst : M Place) (acc src : Place) : M Unit := do
  let p ← dst
  lockCheck (← get).locked p
  let t ← p.get
  let a ← acc.get
  let v ← src.get
  setFlags (subFlags z a t false)
  if a == t then p.set v
  else do
    acc.set t
    p.set t

/-- CMPXCHG8B (R622): only ZF changes. -/
def cmpxchg8bOp (m : Mem) : M Unit := do
  let pas ← memAddrs m 8 8 .write
  lockCheck (← get).locked (.mem pas)
  let t ← phRead pas
  let g := (← get).gpr
  let eq := g.edx.toNat * 2 ^ 32 + g.eax.toNat == t
  phWrite pas (if eq then g.ecx.toNat * 2 ^ 32 + g.ebx.toNat else t)
  modify fun s => { s with
    eflags := { s.eflags with zf := eq }
    gpr := if eq then s.gpr else { s.gpr with edx := BitVec.ofNat 32 (t / 2 ^ 32), eax := BitVec.ofNat 32 t } }

/-- The four bit instructions (R623). -/
inductive BitOp where
  | bt | bts | btr | btc
  deriving DecidableEq, Repr

/-- The operand after a bit instruction (R623). -/
def BitOp.result (o : BitOp) (v : Word) (k : Nat) : Word :=
  match o with
  | .bt => v
  | .bts => setBit v k true
  | .btr => setBit v k false
  | .btc => setBit v k (!bit v k)

/-- The flags of a bit instruction: CF is the selected bit, ZF stays; OF, SF, AF, PF are undefined, free values
(R623, D26, log 10). -/
def bitFlags (c o sf a p : Bool) (f : Eflags) : Eflags := { f with cf := c, ovf := o, sf := sf, af := a, pf := p }

/-- A bit instruction on a place, for bit `k` of it. -/
def bitOp (o : BitOp) (dst : M Place) (k : Nat) : M Unit := do
  let p ← dst
  lockCheck (← get).locked p
  let v ← p.get
  if o != .bt then p.set (o.result v k)
  setFlags (bitFlags (bit v k) (← freshBit) (← freshBit) (← freshBit) (← freshBit))

/-- BT needs its operand for reading only, the others for writing. -/
def BitOp.access (o : BitOp) : Access := if o == .bt then .read else .write

/-- The immediate forms, and the register destination: the offset is taken modulo the operand size (R623). -/
def bitImm (o : BitOp) (dst : RM Reg) (imm : Byte) : M Unit :=
  atOsz fun z => bitOp o (place z o.access dst) (imm.toNat % z.bits)

/-- The byte distance from the operand address to the unit a signed bit offset selects (R623). -/
def bitUnit (z : Sz) (off : Word) : Int :=
  (if z == .w then (BitVec.toInt (off.setWidth 16) / 16) * 2 else (off.toInt / 32) * 4)

/-- The register forms: with a memory operand the offset is signed and selects a bit of the bit string that starts
at the operand address (R623). -/
def bitReg (o : BitOp) (dst : RM Reg) (r : Reg) : M Unit := atOsz fun z => do
  let off := (← get).gpr.read z r
  match dst with
  | .reg _ => bitOp o (place z o.access dst) (off.toNat % z.bits)
  | .mem m =>
    bitOp o (do return .mem (← memAddrsAt m (BitVec.ofInt 32 (bitUnit z off)) z.bytes z.bytes o.access))
      (off.toNat % z.bits)

/-- XADD and CMPXCHG came with the Intel486 (R620, R621). -/
def from486 : M Unit := do require ((← get).cfg.family != .i386) .ud

/-- XADD r/m8, r8 (R620). -/
def execXaddRm8R8 (dst : RM Reg8) (r : Reg8) (s : State) : Result :=
  runInsn dst.isMem (do from486; xaddOp .b (place8 .write dst) (.reg8 r)) s

/-- XADD r/m, r (R620). -/
def execXaddRmR (dst : RM Reg) (r : Reg) (s : State) : Result :=
  runInsn dst.isMem (do from486; atOsz fun z => xaddOp z (place z .write dst) (.reg z r)) s

/-- CMPXCHG r/m8, r8 (R621). -/
def execCmpxchgRm8R8 (dst : RM Reg8) (r : Reg8) (s : State) : Result :=
  runInsn dst.isMem (do from486; cmpxchgOp .b (place8 .write dst) (.reg8 .al) (.reg8 r)) s

/-- CMPXCHG r/m, r (R621). -/
def execCmpxchgRmR (dst : RM Reg) (r : Reg) (s : State) : Result :=
  runInsn dst.isMem (do from486; atOsz fun z => cmpxchgOp z (place z .write dst) (.reg z .eax) (.reg z r)) s

/-- CMPXCHG8B (R622). Pentium and later. -/
def execCmpxchg8b (m : Mem) (s : State) : Result :=
  runInsn true (do
    let fam := (← get).cfg.family
    require (fam != .i386 && fam != .i486) .ud
    cmpxchg8bOp m) s

/-- BT r/m, imm8 (R623). -/
def execBtRmImm8 (rm : RM Reg) (imm : Byte) (s : State) : Result :=
  runInsn false (bitImm .bt rm imm) s

/-- BT r/m, r (R623). -/
def execBtRmR (dst : RM Reg) (r : Reg) (s : State) : Result :=
  runInsn false (bitReg .bt dst r) s

/-- BTS r/m, imm8 (R623). -/
def execBtsRmImm8 (rm : RM Reg) (imm : Byte) (s : State) : Result :=
  runInsn rm.isMem (bitImm .bts rm imm) s

/-- BTS r/m, r (R623). -/
def execBtsRmR (dst : RM Reg) (r : Reg) (s : State) : Result :=
  runInsn dst.isMem (bitReg .bts dst r) s

/-- BTR r/m, imm8 (R623). -/
def execBtrRmImm8 (rm : RM Reg) (imm : Byte) (s : State) : Result :=
  runInsn rm.isMem (bitImm .btr rm imm) s

/-- BTR r/m, r (R623). -/
def execBtrRmR (dst : RM Reg) (r : Reg) (s : State) : Result :=
  runInsn dst.isMem (bitReg .btr dst r) s

/-- BTC r/m, imm8 (R623). -/
def execBtcRmImm8 (rm : RM Reg) (imm : Byte) (s : State) : Result :=
  runInsn rm.isMem (bitImm .btc rm imm) s

/-- BTC r/m, r (R623). -/
def execBtcRmR (dst : RM Reg) (r : Reg) (s : State) : Result :=
  runInsn dst.isMem (bitReg .btc dst r) s

end Sys2Proof.Machine
end

