-- ==== Sys2Proof/Machine/DataMove.lean ====
section
/-! DEFINITION. Data movement: MOV, MOVNTI, LEA, XCHG, and MOV with segment registers (R603 to R606, R229). -/
namespace Sys2Proof.Machine

/-- MOV between places (R603). -/
def movOp (dst : M Place) (src : M Word) : M Unit := do
  let p ← dst
  p.set (← src)

/-- The memory operand of the moffs forms: an absolute offset of address size (R205). -/
def moffs (off : Word) : Mem := .abs32 off

/-- XCHG of an r/m place and a register place: always locked in memory (R350, R606). -/
def xchgOp (dst : M Place) (r : Place) : M Unit := do
  let p ← dst
  lockCheck true p
  let a ← p.get
  let b ← r.get
  p.set b
  r.set a

/-- A selector stored in an r/m operand: zero-extended in a register of operand size, 16 bits in memory (R226, R228,
R229, R234; zero extension in a register form PRESUMED where the rule names no width, log 9), whose
address must be divisible by `align` (R88). -/
def storeSel (align : Nat) (dst : RM Reg) (v : Word) : M Unit := do
  match dst with
  | .reg r => modify fun s => s.setReg s.osz r v
  | .mem m => do
    let pas ← memAddrs m 2 align .write
    phWrite pas v.toNat

/-- Writes a segment register; a load of SS starts the shadow of one instruction (R229, R588). -/
def commitSeg (x : Seg) (r : SegReg) : M Unit :=
  modify fun s =>
    let s := s.setSeg x r
    if x == .ss then { s with act := { s.act with shadow := .ss } } else s

/-- MOV r/m8, r8 (R603). -/
def execMovRm8R8 (dst : RM Reg8) (r : Reg8) (s : State) : Result :=
  runInsn false (movOp (place8 .write dst) (regVal8 r)) s

/-- MOV r/m, r (R603). -/
def execMovRmR (dst : RM Reg) (r : Reg) (s : State) : Result :=
  runInsn false (atOsz fun z => movOp (place z .write dst) (regVal z r)) s

/-- MOV r8, r/m8 (R603). -/
def execMovR8Rm8 (r : Reg8) (src : RM Reg8) (s : State) : Result :=
  runInsn false (movOp (pure (.reg8 r)) (readRM8 src)) s

/-- MOV r, r/m (R603). -/
def execMovRRm (r : Reg) (src : RM Reg) (s : State) : Result :=
  runInsn false (atOsz fun z => movOp (pure (.reg z r)) (readRM z src)) s

/-- MOV r8, imm8 (R603). -/
def execMovR8Imm8 (r : Reg8) (imm : Byte) (s : State) : Result :=
  runInsn false (movOp (pure (.reg8 r)) (pure (imm.setWidth 32))) s

/-- MOV r, imm (R603). -/
def execMovRImm (r : Reg) (imm : Word) (s : State) : Result :=
  runInsn false (atOsz fun z => movOp (pure (.reg z r)) (pure imm)) s

/-- MOV r/m8, imm8 (R603). -/
def execMovRm8Imm8 (rm : RM Reg8) (imm : Byte) (s : State) : Result :=
  runInsn false (movOp (place8 .write rm) (pure (imm.setWidth 32))) s

/-- MOV r/m, imm (R603). -/
def execMovRmImm (rm : RM Reg) (imm : Word) (s : State) : Result :=
  runInsn false (atOsz fun z => movOp (place z .write rm) (pure imm)) s

/-- MOV AL, moffs8 (R603). -/
def execMovAlMoffs8 (off : Word) (s : State) : Result :=
  runInsn false (movOp (pure (.reg8 .al)) (readRM8 (.mem (moffs off)))) s

/-- MOV eAX, moffs (R603). -/
def execMovEaxMoffs (off : Word) (s : State) : Result :=
  runInsn false (atOsz fun z => movOp (pure (.reg z .eax)) (readRM z (.mem (moffs off)))) s

/-- MOV moffs8, AL (R603). -/
def execMovMoffs8Al (off : Word) (s : State) : Result :=
  runInsn false (movOp (place8 .write (.mem (moffs off))) (regVal8 .al)) s

/-- MOV moffs, eAX (R603). -/
def execMovMoffsEax (off : Word) (s : State) : Result :=
  runInsn false (atOsz fun z => movOp (place z .write (.mem (moffs off))) (regVal z .eax)) s

/-- MOVNTI (R604). A 32-bit store; its weak ordering is invisible to one processor (log 60). That it is there with SSE2 is
PRESUMED (log 33): no rule says on which processors. -/
def execMovnti (m : Mem) (r : Reg) (s : State) : Result :=
  runInsn false (do
    require (← get).cfg.hasSse2 .ud
    movOp (place .d .write (.mem m)) (regVal .d r)) s

/-- LEA (R605). -/
def execLea (r : Reg) (m : Mem) (s : State) : Result :=
  runInsn false (modify fun s => s.setReg s.osz r (effAddr s.gpr m)) s

/-- XCHG r/m8, r8 (R606). -/
def execXchgRm8R8 (dst : RM Reg8) (r : Reg8) (s : State) : Result :=
  runInsn dst.isMem (xchgOp (place8 .write dst) (.reg8 r)) s

/-- XCHG r/m, r (R606). -/
def execXchgRmR (dst : RM Reg) (r : Reg) (s : State) : Result :=
  runInsn dst.isMem (atOsz fun z => xchgOp (place z .write dst) (.reg z r)) s

/-- XCHG eAX, r (R606). -/
def execXchgEaxR (r : Reg) (s : State) : Result :=
  runInsn false (atOsz fun z => xchgOp (pure (.reg z r)) (.reg z .eax)) s

/-- MOV r/m, Sreg (R229). -/
def execMovRmSreg (dst : RM Reg) (sr : Seg) (s : State) : Result :=
  runInsn false (do storeSel 2 dst (((← get).segs.get sr).sel.setWidth 32)) s

/-- MOV Sreg, r/m16 (R229). MOV to CS is #UD. -/
def execMovSregRm16 (sr : Seg) (src : RM Reg) (s : State) : Result :=
  runInsn false (do
    require (sr != .cs) .ud
    let sel ← readRM .w src
    commitSeg sr (← loadSeg sr (sel.setWidth 16))) s

end Sys2Proof.Machine
end

