-- ==== Sys2Proof/Machine/FarControl.lean ====
section
/-! DEFINITION. Far transfers, call gates, software interrupts, IRET, SYSENTER and SYSEXIT (R280 to R301). -/
namespace Sys2Proof.Machine

/-- The far pointer in memory: the offset first, then the selector (R205), in one access of 6 or 4 bytes (R93). Alignment: 4
for a 48-bit pointer, 2 for a 32-bit one (R88). -/
def farPointer (m : Mem) (z : Sz) : M (Half × Word) := do
  let pas ← memAddrs m (z.bytes + 2) (if z == .d then 4 else 2) .read
  let off ← phRead (pas.take z.bytes)
  let sel ← phRead (pas.drop z.bytes)
  return (BitVec.ofNat 16 sel, BitVec.ofNat 32 off)

/-- The checks of a direct transfer to a code segment (R282). -/
def checkDirect (sel : Half) (d : Desc) (off : Word) : M Unit := do
  let cpl := (← get).cpl
  let e := Exc.gp (selCode sel false)
  require (if d.conforming then decide (d.dpl ≤ cpl) else decide (rpl sel ≤ cpl) && d.dpl == cpl) e
  require d.p (.np (selCode sel false))
  require (decide (off.toNat ≤ d.limit)) (.gp 0#16)

/-- The checks on a gate reached by a far CALL or JMP (R284, R324): privilege, then presence, then those of `gateTarget` (R284
lists the checks in no order; DESIGN CHOICE, log 33). -/
def checkGate (sel : Half) (gate : Desc) : M Unit := do
  let cpl := (← get).cpl
  require (decide (cpl ≤ gate.dpl) && decide (rpl sel ≤ gate.dpl)) (.gp (selCode sel false))
  require gate.p (.np (selCode sel false))

/-- The target of a call gate (R284): its selector is not null and names a present code segment whose privilege the
transfer allows, checked in the order null, table, type, privilege, presence (DESIGN CHOICE, log 33). -/
def gateTarget (gate : Desc) (isCall : Bool) : M Desc := do
  let cpl := (← get).cpl
  let sel := gate.gateSel
  require (!isNull sel) (.gp 0#16)
  let e := Exc.gp (selCode sel false)
  let t ← readDesc sel e
  require t.isCode e
  require (if t.conforming || isCall then decide (t.dpl ≤ cpl) else t.dpl == cpl) e
  require t.p (.np (selCode sel false))
  return t

/-- Enters a code segment at a privilege level: CS, CPL and EIP (R145, R282). -/
def enterCode (sel : Half) (cpl : Nat) (d : Desc) (off : Word) : M Unit := do
  let d ← setAccessed sel d
  modify fun s => { s.setCs sel cpl d with eip := d.attr.ip off, eflags := { s.eflags with rf := false } }

/-- A far JMP or CALL to a TSS or through a task gate (R321, R326 step 2). -/
def farTask (kind : SwitchKind) (sel : Half) (d : Desc) : M Unit := do
  let s ← get
  let tss ←
    if d.isSys 5 then do
      checkGate sel d
      pure d.gateSel
    else do
      require (decide (s.cpl ≤ d.dpl) && decide (rpl sel ≤ d.dpl)) (.gp (selCode sel false))
      pure sel
  let _ ← taskSwitch kind tss s.resumeNext false

/-- A far JMP in protected mode (R282, R288). -/
def jmpFarProt (sel : Half) (off : Word) : M Unit := do
  let cpl := (← get).cpl
  if isNull sel then gp0
  let e := Exc.gp (selCode sel false)
  let d ← readDesc sel e
  if d.isCode then
    checkDirect sel d off
    enterCode sel cpl d off
  else if d.isSys 4 || d.isSys 12 then
    checkGate sel d
    let t ← gateTarget d false
    enterCode d.gateSel cpl t d.gateOff
  else if d.isSys 5 || d.isTss then farTask .jmp sel d
  else raise e

/-- A far JMP (R282, R288); in real-address mode the selector gives the base (R570, R583, log 8). -/
def jmpFar (z : Sz) (sel : Half) (off : Word) : M Unit := do
  let s ← get
  let off := z.trunc off
  if s.pe then jmpFarProt sel off
  else do
    require (s.segs.cs.limitOk off 1) (.gp 0#16)
    set { s.setSeg .cs (realSeg s.segs.cs sel) with
      eip := s.eipMask off, eflags := { s.eflags with rf := false } }

/-- The places of a call gate's parameters on the caller's stack, the highest first, and of their copies at linear addresses
of the new stack (R286 step 7, R287): each parameter's place is checked for a read, then its copy's for a write. -/
def copyPlaces (z : Sz) : List Word → M (List (List Nat) × List (List Nat))
  | [] => pure ([], [])
  | lin :: lins => do
    let src ← peekPlace z (z.bytes * lins.length)
    let dst ← linAddrs lin z.bytes .write false
    let (srcs, dsts) ← copyPlaces z lins
    return (src :: srcs, dst :: dsts)

/-- Copies items from places to places, one after the other (R286 step 7). -/
def copyItems : List (List Nat) → List (List Nat) → M Unit
  | p :: ps, q :: qs => do phWrite q (← phRead p); copyItems ps qs
  | _, _ => pure ()

/-- A far CALL that stays on its stack: CS and the next EIP are pushed, then the code segment entered (R283, R285). -/
def callSame (z : Sz) (sel : Half) (d : Desc) (off : Word) : M Unit := do
  let s ← get
  let (ps, esp) ← pushPlaces s.segs.ss (.ss 0#16) (s.cpl == 3) z 2 s.gpr.esp
  let d ← setAccessed sel d
  pushValues ps [s.segs.cs.sel.setWidth 32, s.ctx.nextEip]
  setEsp esp
  modify fun s' => { s'.setCs sel s.cpl d with
    eip := d.attr.ip off, eflags := { s'.eflags with rf := false } }

/-- The places of a CALL through a gate to an inner level (R286 steps 6 to 8): those of SS and ESP, of the parameters on the
old stack, of their copies, of CS and the next EIP. -/
structure InnerPlaces where
  stack : List (List Nat)
  params : List (List Nat)
  copies : List (List Nat)
  back : List (List Nat)
  deriving DecidableEq, Repr

/-- Finds the places at the linear addresses `lins` of all the pushes; every one is checked before any is written (R405). -/
def innerPlaces (z : Sz) (lins : List Word) : M InnerPlaces := do
  let n := lins.length - 4
  let stack ← pushPas false z (lins.take 2)
  let (params, copies) ← copyPlaces z ((lins.drop 2).take n)
  let back ← pushPas false z (lins.drop (n + 2))
  return ⟨stack, params, copies, back⟩

/-- Steps 6 to 8 of R286 in their order: SS and ESP are pushed, the parameters copied (where the new stack overlaps them,
as that push and the copies before left them), CS and the next EIP pushed. -/
def pushInner (p : InnerPlaces) : M Unit := do
  let s ← get
  pushValues p.stack [s.segs.ss.sel.setWidth 32, s.gpr.esp]
  copyItems p.params p.copies
  pushValues p.back [s.segs.cs.sel.setWidth 32, s.ctx.nextEip]

/-- A far CALL through a call gate to a more privileged level: the stack switch (R286). -/
def callInner (z : Sz) (gate t : Desc) : M Unit := do
  let cpl := t.dpl
  let (ssSel, esp0) ← tssStack cpl false
  let ss ← innerSs ssSel cpl false
  let (lins, esp) ← pushLins ss (.ss (selCode ssSel false)) z (field gate.hi 0 5 + 4) esp0
  let places ← innerPlaces z lins
  let t ← setAccessed gate.gateSel t
  pushInner places
  modify fun s' => { (s'.setSeg .ss ss).setCs gate.gateSel cpl t with
    gpr := { s'.gpr with esp := esp }
    eip := t.attr.ip gate.gateOff
    eflags := { s'.eflags with rf := false } }

/-- A far CALL in protected mode (R283 to R286). -/
def callFarProt (z : Sz) (sel : Half) (off : Word) : M Unit := do
  let cpl := (← get).cpl
  if isNull sel then gp0
  let e := Exc.gp (selCode sel false)
  let d ← readDesc sel e
  if d.isCode then
    checkDirect sel d off
    callSame z sel d off
  else if d.isSys 4 || d.isSys 12 then
    checkGate sel d
    let t ← gateTarget d true
    let gz : Sz := if d.isSys 12 then .d else .w
    if !t.conforming && decide (t.dpl < cpl) then callInner gz d t
    else callSame gz d.gateSel t d.gateOff
  else if d.isSys 5 || d.isTss then farTask .call sel d
  else raise e

/-- A far CALL (R283 to R286); it disarms the monitor (R385). In real-address mode the selector gives the base
(R570, log 8). -/
def callFar (z : Sz) (sel : Half) (off : Word) : M Unit := do
  let s ← get
  let off := z.trunc off
  if s.pe then callFarProt z sel off
  else do
    require (s.segs.cs.limitOk off 1) (.gp 0#16)
    let (ps, esp) ← pushPlaces s.segs.ss (.ss 0#16) false z 2 s.gpr.esp
    pushValues ps [s.segs.cs.sel.setWidth 32, s.ctx.nextEip]
    setEsp esp
    modify fun s' => { s'.setSeg .cs (realSeg s'.segs.cs sel) with
      eip := s.eipMask off, eflags := { s'.eflags with rf := false } }
  modify disarm

/-- A far RET that releases `n` bytes (R289, R290). -/
def retFarBody (n : Nat) : M Unit := do
  let s ← get
  let fl : M (Eflags → Eflags) := pure fun f => { f with rf := false }
  if s.pe then farReturn s.osz 2 n fl else farReturnReal s.osz 2 n fl

/-- BOUND (R295): #BR when the signed index is outside the bounds. -/
def boundBody (r : Reg) (m : Mem) : M Unit := do
  let s ← get
  let z := s.osz
  let lo ← memAddrs m z.bytes z.bytes .read
  let hi ← memAddrsAt m (BitVec.ofNat 32 z.bytes) z.bytes z.bytes .read
  let sgn (v : Word) : Int := if z == .w then BitVec.toInt (v.setWidth 16) else v.toInt
  let x := sgn (s.gpr.read z r)
  let l := sgn (BitVec.ofNat 32 (← phRead lo))
  let h := sgn (BitVec.ofNat 32 (← phRead hi))
  require (decide (l ≤ x ∧ x ≤ h)) .br

/-- The flat segments of SYSENTER and SYSEXIT (R300, R301): base 0, limit FFFFFFFFH, accessed, present, 32-bit, page
granular. The rules name no AVL bit (0 here), and R301 no G bit for SYSEXIT (1 here, as R300 has it): DESIGN CHOICE, log
36. -/
def flatSeg (sel : Half) (code : Bool) (dpl : BitVec 2) : SegReg :=
  ⟨sel, 0#32, 0xFFFFFFFF#32, ⟨if code then 0xB#4 else 0x3#4, true, dpl, true, false, true, true⟩⟩

/-- Bits 15:0 of SYSENTER_CS_MSR. -/
def State.sysenterSel (s : State) : Half := s.msr.sysenterCs.setWidth 16

/-- SYSENTER (R300). -/
def sysenterBody : M Unit := do
  let s ← get
  require s.cfg.hasSep .ud
  require (s.pe && !isNull s.sysenterSel) (.gp 0#16)
  let cs := withRpl s.sysenterSel 0
  modify fun s => { disarm s with
    eflags := { s.eflags with vm := false, intf := false, rf := false }
    segs := { s.segs with cs := flatSeg cs true 0#2, ss := flatSeg (cs + 8#16) false 0#2 }
    eip := s.msr.sysenterEip.setWidth 32
    gpr := { s.gpr with esp := s.msr.sysenterEsp.setWidth 32 } }

/-- SYSEXIT (R301). -/
def sysexitBody : M Unit := do
  let s ← get
  require s.cfg.hasSep .ud
  require (s.pe && s.cpl == 0 && !isNull s.sysenterSel) (.gp 0#16)
  modify fun s => { disarm s with
    eflags := { s.eflags with rf := false }
    segs := { s.segs with cs := flatSeg ((s.sysenterSel + 16#16) ||| 3#16) true 3#2,
                          ss := flatSeg ((s.sysenterSel + 24#16) ||| 3#16) false 3#2 }
    eip := s.gpr.edx
    gpr := { s.gpr with esp := s.gpr.ecx } }

/-- JMP ptr16 32 (R282). -/
def execJmpPtr1632 (sel : Half) (off : Word) (s : State) : Result :=
  runJump false (atOsz fun z => jmpFar z sel off) s

/-- JMP m16 32 (R282). -/
def execJmpM1632 (m : Mem) (s : State) : Result :=
  runJump false (atOsz fun z => do let (sel, off) ← farPointer m z; jmpFar z sel off) s

/-- CALL ptr16 32 (R283). -/
def execCallPtr1632 (sel : Half) (off : Word) (s : State) : Result :=
  runJump false (atOsz fun z => callFar z sel off) s

/-- CALL m16 32 (R283). -/
def execCallM1632 (m : Mem) (s : State) : Result :=
  runJump false (atOsz fun z => do let (sel, off) ← farPointer m z; callFar z sel off) s

/-- RET far (R289). -/
def execRetFar (s : State) : Result :=
  runJump false (retFarBody 0) s

/-- RET far imm16 (R289). -/
def execRetFarImm16 (imm : Half) (s : State) : Result :=
  runJump false (retFarBody imm.toNat) s

/-- INT 3 (R293). A software interrupt of vector 3 (R433). -/
def execInt3 (s : State) : Result :=
  softInt 3#8 s

/-- INT imm8 (R292). -/
def execIntImm8 (imm : Byte) (s : State) : Result :=
  softInt imm s

/-- INTO (R294). -/
def execInto (s : State) : Result :=
  if s.eflags.ovf then softInt 4#8 s else runInsn false (pure ()) s

/-- BOUND (R295). -/
def execBound (r : Reg) (m : Mem) (s : State) : Result :=
  runInsn false (boundBody r m) s

/-- IRET (R296). -/
def execIret (s : State) : Result :=
  runJump false iretBody s

/-- SYSENTER (R300). -/
def execSysenter (s : State) : Result :=
  runJump false sysenterBody s

/-- SYSEXIT (R301). -/
def execSysexit (s : State) : Result :=
  runJump false sysexitBody s

/-- UD2 (R209). Raises #UD. -/
def execUd2 (s : State) : Result :=
  runInsn false (raise .ud) s

end Sys2Proof.Machine
end

