-- ==== Sys2Proof/Machine/Io.lean ====
section
/-! DEFINITION. IN and OUT (R608). -/
namespace Sys2Proof.Machine

/-- Whether the I/O permission bit map allows an access (R608, R322): every bit of the accessed ports lies within the
TSS limit and is 0. Only a 32-bit TSS has a map; which bit stands for a port is DEDUCED (log 12). Ports do not wrap: an access
at port FFFFH that is wider than a byte also needs the bits that follow the last port's in the map, and is one access at its
first port (DESIGN CHOICE, log 12). -/
def ioMapAllows (port n : Nat) : M Bool := do
  let tr := (← get).sys.tr
  if !tr.attr.typ.getLsbD 3 || decide (tr.limit.toNat < 103) then return false
  let base ← sysRead (tr.base + 102#32) 2
  if tr.limit.toNat ≤ base ∨ tr.limit.toNat < base + (port + n - 1) / 8 then return false
  let bytes := (port + n - 1) / 8 - port / 8 + 1
  let v ← sysRead (tr.base + BitVec.ofNat 32 (base + port / 8)) bytes
  return v / 2 ^ (port % 8) % 2 ^ n == 0

/-- The permission check of IN and OUT (R608). -/
def ioCheck (port n : Nat) : M Unit := do
  let s ← get
  if s.prot && decide (s.iopl < s.cpl) then require (← ioMapAllows port n) (.gp 0#16)

/-- IN (R608): the value is the host's (R590), a free value of port, width and time. -/
def inOp (z : Sz) (dst : Place) (port : Nat) : M Unit := do
  ioCheck port z.bytes
  dst.set (z.trunc (Config.ioRead port z.bytes (← fresh)))

/-- OUT (R608): the write is recorded for the host (R590). -/
def outOp (z : Sz) (src : Place) (port : Nat) : M Unit := do
  ioCheck port z.bytes
  let v ← src.get
  modify fun s => { s with bus := s.bus ++ [.ioWrite port z.bytes v] }

/-- The port number in DX (R608). -/
def State.dxPort (s : State) : Nat := s.gpr.edx.toNat % 65536

/-- IN AL, imm8 (R608). -/
def execInAlImm8 (imm : Byte) (s : State) : Result :=
  runInsn false (inOp .b (.reg8 .al) imm.toNat) s

/-- IN eAX, imm8 (R608). -/
def execInEaxImm8 (imm : Byte) (s : State) : Result :=
  runInsn false (atOsz fun z => inOp z (.reg z .eax) imm.toNat) s

/-- IN AL, DX (R608). -/
def execInAlDx (s : State) : Result :=
  runInsn false (inOp .b (.reg8 .al) s.dxPort) s

/-- IN eAX, DX (R608). -/
def execInEaxDx (s : State) : Result :=
  runInsn false (atOsz fun z => inOp z (.reg z .eax) s.dxPort) s

/-- OUT imm8, AL (R608). -/
def execOutImm8Al (imm : Byte) (s : State) : Result :=
  runInsn false (outOp .b (.reg8 .al) imm.toNat) s

/-- OUT imm8, eAX (R608). -/
def execOutImm8Eax (imm : Byte) (s : State) : Result :=
  runInsn false (atOsz fun z => outOp z (.reg z .eax) imm.toNat) s

/-- OUT DX, AL (R608). -/
def execOutDxAl (s : State) : Result :=
  runInsn false (outOp .b (.reg8 .al) s.dxPort) s

/-- OUT DX, eAX (R608). -/
def execOutDxEax (s : State) : Result :=
  runInsn false (atOsz fun z => outOp z (.reg z .eax) s.dxPort) s

end Sys2Proof.Machine
end

