-- ==== Sys2Proof/Machine/Msr.lean ====
section
/-! DEFINITION. RDMSR, WRMSR, RDTSC, RDPMC, CPUID (R238 to R243). -/
namespace Sys2Proof.Machine

/-- The value of an implemented MSR (R45, D14). The MSRs of a feature that the implementation lacks are not implemented
(DESIGN CHOICE, log 32); IA32_APIC_BASE came with the P6 family (R120, R487; log 32). -/
def State.readMsr (s : State) (i : Word) : Option Quad :=
  match i.toNat with
  | 0x10 => if s.cfg.hasTsc then some s.msr.tsc else none
  | 0x1B => if s.cfg.hasApic && s.fromP6 then some s.msr.apicBase else none
  | 0x174 => if s.cfg.hasSep then some s.msr.sysenterCs else none
  | 0x175 => if s.cfg.hasSep then some s.msr.sysenterEsp else none
  | 0x176 => if s.cfg.hasSep then some s.msr.sysenterEip else none
  | _ => s.msr.extra.lookup i

/-- A 64-bit value in EDX:EAX (R238). -/
def State.setEdxEax (s : State) (v : Quad) : State :=
  { s with gpr := { s.gpr with edx := (v >>> 32).setWidth 32, eax := v.setWidth 32 } }

/-- EDX:EAX as a 64-bit value (R239). -/
def State.edxEax (s : State) : Quad := s.gpr.edx ++ s.gpr.eax

/-- RDMSR (R238). -/
def rdmsrBody : M Unit := do
  let s ← get
  require s.cfg.hasMsr .ud
  requireCpl0
  match s.readMsr s.gpr.ecx with
  | some v => set (s.setEdxEax v)
  | none => gp0

/-- The reserved bits of IA32_APIC_BASE (R487): 7:0, 10:9 and 63:36. -/
def apicBaseReserved : Quad := 0xFFFFFFF0000006FF#64

/-- WRMSR to IA32_APIC_BASE (R487, R488): writes to the BSP flag are ignored (D14); setting the global enable flag
after it was cleared is refused (D23). -/
def writeApicBase (v : Quad) : M Unit := do
  let s ← get
  require (v &&& apicBaseReserved == 0#64) (.gp 0#16)
  if v.getLsbD 11 && s.apic.disabled then refuse .apicReenable
  let bsp := s.msr.apicBase &&& 0x100#64
  set { s with
    msr := { s.msr with apicBase := (v &&& ~~~0x100#64) ||| bsp }
    apic := { s.apic with disabled := s.apic.disabled || !v.getLsbD 11 } }

/-- One entry of a list of MSRs replaced. -/
def setExtra (xs : List (Word × Quad)) (i : Word) (v : Quad) : List (Word × Quad) :=
  xs.map fun x => if x.1 == i then (i, v) else x

/-- WRMSR (R239): on the P6 family a write to the time-stamp counter clears its upper half. -/
def wrmsrBody : M Unit := do
  let s ← get
  require s.cfg.hasMsr .ud
  requireCpl0
  let i := s.gpr.ecx
  let v := s.edxEax
  if (s.readMsr i).isNone then gp0
  match i.toNat with
  | 0x10 =>
    set { s with msr := { s.msr with tsc := if s.cfg.family == Config.Family.p6 then v &&& 0xFFFFFFFF#64 else v } }
  | 0x1B => writeApicBase v
  | 0x174 => set { s with msr := { s.msr with sysenterCs := v } }
  | 0x175 => set { s with msr := { s.msr with sysenterEsp := v } }
  | 0x176 => set { s with msr := { s.msr with sysenterEip := v } }
  | _ => set { s with msr := { s.msr with extra := setExtra s.msr.extra i v } }

/-- RDTSC (R240). -/
def rdtscBody : M Unit := do
  let s ← get
  require s.cfg.hasTsc .ud
  require (!(bit s.sys.cr4 2 && s.cpl != 0)) (.gp 0#16)
  set (s.setEdxEax s.msr.tsc)

/-- RDPMC (R241): no counter exists (R47). -/
def rdpmcBody : M Unit := do
  let s ← get
  require (bit s.sys.cr4 8 || s.cpl == 0) (.gp 0#16)
  gp0

/-- The feature word in EDX of CPUID leaf 1 (R243): the bits that a rule or a parameter decides; the others are opaque
(log 13). -/
def featuresEdx (s : State) : Word :=
  let c := s.cfg
  let w := Config.cpuidFeatures.2.2 &&& ~~~0x168B2BF8#32
  let f (k : Nat) (b : Bool) : Word := if b then 1#32 <<< k else 0#32
  w ||| f 3 c.hasPse ||| f 4 c.hasTsc ||| f 5 c.hasMsr ||| f 6 c.hasPae ||| f 7 c.hasMce |||
    f 8 (c.family != .i386 && c.family != .i486) ||| f 9 s.apicOn ||| f 11 c.hasSep ||| f 13 c.hasPge |||
    f 16 c.hasPat ||| f 17 c.hasPse36 ||| f 19 (c.family == .p4Xeon) ||| f 23 c.hasMmx ||| f 25 c.hasSse ||| f 26 c.hasSse2 |||
    f 28 c.hasHtt

/-- The feature word in ECX of CPUID leaf 1: bits 0 and 3 from the parameters, the others opaque (R243, log 13). -/
def featuresEcx (s : State) : Word := setBit (setBit Config.cpuidFeatures.2.1 0 s.cfg.hasSse3) 3 s.cfg.hasMonitor

/-- What CPUID returns in EAX, EBX, ECX, EDX (R243, D13): an input above the highest leaf returns that leaf's data. -/
def cpuidResult (s : State) (input : Word) : Word × Word × Word × Word :=
  let leaf := if s.cfg.maxLeaf < input.toNat then s.cfg.maxLeaf else input.toNat
  match leaf with
  | 0 => (BitVec.ofNat 32 s.cfg.maxLeaf, 0x756E6547#32, 0x6C65746E#32, 0x49656E69#32)
  | 1 =>
    (s.cfg.signature,
      (s.cfg.initialApicId.setWidth 32 <<< 24) ||| BitVec.ofNat 32 (s.cfg.nLogical % 256 * 65536) |||
        (Config.cpuidFeatures.1 &&& 0xFFFF#32),
      featuresEcx s, featuresEdx s)
  | 5 => (BitVec.ofNat 32 s.cfg.monitorLineMin, BitVec.ofNat 32 s.cfg.monitorLineMax, 0#32, 0#32)
  | n => Config.cpuidLeaf (BitVec.ofNat 32 n)

/-- CPUID (R243). -/
def cpuidState (s : State) : State :=
  let r := cpuidResult s s.gpr.eax
  { s with gpr := { s.gpr with eax := r.1, ebx := r.2.1, ecx := r.2.2.1, edx := r.2.2.2 } }

/-- RDMSR (R238). -/
def execRdmsr (s : State) : Result :=
  runInsn false rdmsrBody s

/-- WRMSR (R239). -/
def execWrmsr (s : State) : Result :=
  runInsn false wrmsrBody s

/-- RDTSC (R240). -/
def execRdtsc (s : State) : Result :=
  runInsn false rdtscBody s

/-- RDPMC (R241). The model has no counter, so every ECX raises #GP(0) (R47, D15). -/
def execRdpmc (s : State) : Result :=
  runInsn false rdpmcBody s

/-- CPUID (R243). -/
def execCpuid (s : State) : Result :=
  runInsn false (modify cpuidState) s

end Sys2Proof.Machine
end

