-- ==== Sys2Proof/Machine/NearControl.lean ====
section
/-! DEFINITION. Near control transfers and NOP (R630 to R634). -/
namespace Sys2Proof.Machine

/-- The sixteen conditions (R631). -/
inductive Cc where
  | o | no | b | ae | e | ne | be | a | s | ns | p | np | l | ge | le | g
  deriving DecidableEq, Repr

/-- Whether a condition holds (R631). -/
def Cc.holds (c : Cc) (f : Eflags) : Bool :=
  match c with
  | .o => f.ovf
  | .no => !f.ovf
  | .b => f.cf
  | .ae => !f.cf
  | .e => f.zf
  | .ne => !f.zf
  | .be => f.cf || f.zf
  | .a => !f.cf && !f.zf
  | .s => f.sf
  | .ns => !f.sf
  | .p => f.pf
  | .np => !f.pf
  | .l => f.sf != f.ovf
  | .ge => f.sf == f.ovf
  | .le => f.zf || f.sf != f.ovf
  | .g => !f.zf && f.sf == f.ovf

/-- A relative displacement of operand size: 16-bit forms are sign-extended. R205 and R630 to R632 give rel8 and rel32 only; that
the rel32 forms have 2 bytes with a 16-bit operand size is PRESUMED (log 9). -/
def relZ (z : Sz) (rel : Word) : Word := if z == .w then sext16 (rel.setWidth 16) else rel

/-- A jump relative to the next instruction (R630). -/
def jumpRel (d : Word) : M Unit := do
  let t ← nearTarget ((← get).ctx.nextEip + d)
  jumpTo t

/-- A conditional jump (R631). -/
def jccRel (c : Cc) (d : Sz → Word) : M Unit := do
  let s ← get
  if c.holds s.eflags then jumpRel (d s.osz) else advance

/-- A near call to an absolute offset (R632): the target is checked before the push is committed. -/
def callNear (target : Word) : M Unit := do
  let s ← get
  let t ← nearTarget target
  push s.osz s.ctx.nextEip
  jumpTo t

/-- A near return that releases `n` further bytes (R633). -/
def retNear (n : Nat) : M Unit := do
  let s ← get
  let t ← nearTarget (← peek s.osz 0)
  setEsp (s.popped (s.osz.bytes + n))
  jumpTo t

/-- JMP rel8 (R630). -/
def execJmpRel8 (rel : Byte) (s : State) : Result :=
  runJump false (jumpRel (sext8 rel)) s

/-- JMP rel32 (R630). -/
def execJmpRel32 (rel : Word) (s : State) : Result :=
  runJump false (atOsz fun z => jumpRel (relZ z rel)) s

/-- JMP r/m32 (R630). -/
def execJmpRm32 (rm : RM Reg) (s : State) : Result :=
  runJump false (atOsz fun z => do jumpTo (← nearTarget (← readRM z rm))) s

/-- JO rel8 (R631). -/
def execJoRel8 (rel : Byte) (s : State) : Result :=
  runJump false (jccRel .o fun _ => sext8 rel) s

/-- JO rel32 (R631). -/
def execJoRel32 (rel : Word) (s : State) : Result :=
  runJump false (jccRel .o fun z => relZ z rel) s

/-- JNO rel8 (R631). -/
def execJnoRel8 (rel : Byte) (s : State) : Result :=
  runJump false (jccRel .no fun _ => sext8 rel) s

/-- JNO rel32 (R631). -/
def execJnoRel32 (rel : Word) (s : State) : Result :=
  runJump false (jccRel .no fun z => relZ z rel) s

/-- JB rel8 (R631). -/
def execJbRel8 (rel : Byte) (s : State) : Result :=
  runJump false (jccRel .b fun _ => sext8 rel) s

/-- JB rel32 (R631). -/
def execJbRel32 (rel : Word) (s : State) : Result :=
  runJump false (jccRel .b fun z => relZ z rel) s

/-- JAE rel8 (R631). -/
def execJaeRel8 (rel : Byte) (s : State) : Result :=
  runJump false (jccRel .ae fun _ => sext8 rel) s

/-- JAE rel32 (R631). -/
def execJaeRel32 (rel : Word) (s : State) : Result :=
  runJump false (jccRel .ae fun z => relZ z rel) s

/-- JE rel8 (R631). -/
def execJeRel8 (rel : Byte) (s : State) : Result :=
  runJump false (jccRel .e fun _ => sext8 rel) s

/-- JE rel32 (R631). -/
def execJeRel32 (rel : Word) (s : State) : Result :=
  runJump false (jccRel .e fun z => relZ z rel) s

/-- JNE rel8 (R631). -/
def execJneRel8 (rel : Byte) (s : State) : Result :=
  runJump false (jccRel .ne fun _ => sext8 rel) s

/-- JNE rel32 (R631). -/
def execJneRel32 (rel : Word) (s : State) : Result :=
  runJump false (jccRel .ne fun z => relZ z rel) s

/-- JBE rel8 (R631). -/
def execJbeRel8 (rel : Byte) (s : State) : Result :=
  runJump false (jccRel .be fun _ => sext8 rel) s

/-- JBE rel32 (R631). -/
def execJbeRel32 (rel : Word) (s : State) : Result :=
  runJump false (jccRel .be fun z => relZ z rel) s

/-- JA rel8 (R631). -/
def execJaRel8 (rel : Byte) (s : State) : Result :=
  runJump false (jccRel .a fun _ => sext8 rel) s

/-- JA rel32 (R631). -/
def execJaRel32 (rel : Word) (s : State) : Result :=
  runJump false (jccRel .a fun z => relZ z rel) s

/-- JS rel8 (R631). -/
def execJsRel8 (rel : Byte) (s : State) : Result :=
  runJump false (jccRel .s fun _ => sext8 rel) s

/-- JS rel32 (R631). -/
def execJsRel32 (rel : Word) (s : State) : Result :=
  runJump false (jccRel .s fun z => relZ z rel) s

/-- JNS rel8 (R631). -/
def execJnsRel8 (rel : Byte) (s : State) : Result :=
  runJump false (jccRel .ns fun _ => sext8 rel) s

/-- JNS rel32 (R631). -/
def execJnsRel32 (rel : Word) (s : State) : Result :=
  runJump false (jccRel .ns fun z => relZ z rel) s

/-- JP rel8 (R631). -/
def execJpRel8 (rel : Byte) (s : State) : Result :=
  runJump false (jccRel .p fun _ => sext8 rel) s

/-- JP rel32 (R631). -/
def execJpRel32 (rel : Word) (s : State) : Result :=
  runJump false (jccRel .p fun z => relZ z rel) s

/-- JNP rel8 (R631). -/
def execJnpRel8 (rel : Byte) (s : State) : Result :=
  runJump false (jccRel .np fun _ => sext8 rel) s

/-- JNP rel32 (R631). -/
def execJnpRel32 (rel : Word) (s : State) : Result :=
  runJump false (jccRel .np fun z => relZ z rel) s

/-- JL rel8 (R631). -/
def execJlRel8 (rel : Byte) (s : State) : Result :=
  runJump false (jccRel .l fun _ => sext8 rel) s

/-- JL rel32 (R631). -/
def execJlRel32 (rel : Word) (s : State) : Result :=
  runJump false (jccRel .l fun z => relZ z rel) s

/-- JGE rel8 (R631). -/
def execJgeRel8 (rel : Byte) (s : State) : Result :=
  runJump false (jccRel .ge fun _ => sext8 rel) s

/-- JGE rel32 (R631). -/
def execJgeRel32 (rel : Word) (s : State) : Result :=
  runJump false (jccRel .ge fun z => relZ z rel) s

/-- JLE rel8 (R631). -/
def execJleRel8 (rel : Byte) (s : State) : Result :=
  runJump false (jccRel .le fun _ => sext8 rel) s

/-- JLE rel32 (R631). -/
def execJleRel32 (rel : Word) (s : State) : Result :=
  runJump false (jccRel .le fun z => relZ z rel) s

/-- JG rel8 (R631). -/
def execJgRel8 (rel : Byte) (s : State) : Result :=
  runJump false (jccRel .g fun _ => sext8 rel) s

/-- JG rel32 (R631). -/
def execJgRel32 (rel : Word) (s : State) : Result :=
  runJump false (jccRel .g fun z => relZ z rel) s

/-- JECXZ rel8 (R631). CX with 16-bit address size. -/
def execJecxzRel8 (rel : Byte) (s : State) : Result :=
  runJump false (do
    let s ← get
    let c := if s.dctx.asz16 then Sz.w.trunc s.gpr.ecx else s.gpr.ecx
    if c == 0#32 then jumpRel (sext8 rel) else advance) s

/-- CALL rel32 (R632). -/
def execCallRel32 (rel : Word) (s : State) : Result :=
  runJump false (do let s ← get; callNear (s.ctx.nextEip + relZ s.osz rel)) s

/-- CALL r/m32 (R632). -/
def execCallRm32 (rm : RM Reg) (s : State) : Result :=
  runJump false (atOsz fun z => do callNear (← readRM z rm)) s

/-- RET (R633). -/
def execRet (s : State) : Result :=
  runJump false (retNear 0) s

/-- RET imm16 (R633). -/
def execRetImm16 (imm : Half) (s : State) : Result :=
  runJump false (retNear imm.toNat) s

/-- NOP (R634). -/
def execNop (s : State) : Result :=
  runInsn false (pure ()) s

end Sys2Proof.Machine
end

