-- ==== Sys2Proof/Machine/Prefix.lean ====
section
/-! DEFINITION. The prefix rows: each records itself for the instruction it precedes (R201, R202, R351). -/
namespace Sys2Proof.Machine

/-- Records a prefix for the instruction in progress (R201). -/
def withPfx (f : Pfx → Pfx) (s : State) : Result := .next { s with ctx := { s.ctx with pfx := f s.ctx.pfx } }

/-- LOCK (R351). The instruction that follows decides whether it may be locked. -/
def execLock (s : State) : Result :=
  withPfx (fun p => { p with lock := true }) s

/-- REPNE (R201). Without effect on the instructions of the table (R217). -/
def execRepne (s : State) : Result :=
  withPfx (fun p => { p with rep := some .repne }) s

/-- REP (R201). Before 90H it makes PAUSE; otherwise without effect on the instructions of the table (R217). -/
def execRep (s : State) : Result :=
  withPfx (fun p => { p with rep := some .rep }) s

/-- CS: (R201). -/
def execSegCs (s : State) : Result :=
  withPfx (fun p => { p with seg := some .cs }) s

/-- SS: (R201). -/
def execSegSs (s : State) : Result :=
  withPfx (fun p => { p with seg := some .ss }) s

/-- DS: (R201). -/
def execSegDs (s : State) : Result :=
  withPfx (fun p => { p with seg := some .ds }) s

/-- ES: (R201). -/
def execSegEs (s : State) : Result :=
  withPfx (fun p => { p with seg := some .es }) s

/-- FS: (R201). -/
def execSegFs (s : State) : Result :=
  withPfx (fun p => { p with seg := some .fs }) s

/-- GS: (R201). -/
def execSegGs (s : State) : Result :=
  withPfx (fun p => { p with seg := some .gs }) s

/-- OPSIZE (R202). -/
def execOpsize (s : State) : Result :=
  withPfx (fun p => { p with opsize := true }) s

/-- ADDRSIZE (R202). -/
def execAddrsize (s : State) : Result :=
  withPfx (fun p => { p with addrsize := true }) s

end Sys2Proof.Machine
end

