-- ==== Sys2Proof/Machine/SysRegs.lean ====
section
/-! DEFINITION. Descriptor-table, control and debug registers, CLI and STI (R221 to R236, R306, R307). -/
namespace Sys2Proof.Machine

/-- The instructions that real-address and virtual-8086 mode do not recognise are #UD there (R209, R436). -/
def requireProt : M Unit := do require (← get).prot .ud

/-- Reads a pseudo-descriptor (R133, R221): the limit, then the base, cut to 24 bits with a 16-bit operand size. -/
def loadTable (m : Mem) : M TableReg := do
  let lim ← memAddrs m 2 2 .read
  let base ← memAddrsAt m 2#32 4 4 .read
  let l ← phRead lim
  let b ← phRead base
  let b := if (← get).osz == .w then b % 2 ^ 24 else b
  return ⟨BitVec.ofNat 32 b, BitVec.ofNat 16 l⟩

/-- Stores a pseudo-descriptor (R133, R222, R224); the top byte of the base stored with a 16-bit operand size is
implementation-specific (U27): a free value. Alignment at CPL 3: the limit as a word, the base at +2 as a doubleword, so that
an address of 2 modulo 4 passes (R87) and one of 0 modulo 4 does not, though R88's table asks 4 of GDTR's contents (DEDUCED,
log 22). -/
def storeTable (m : Mem) (t : TableReg) : M Unit := do
  let lim ← memAddrs m 2 2 .write
  let base ← memAddrsAt m 2#32 4 4 .write
  let b ← if (← get).osz == .w then do
      let f := Config.freeWord (← fresh)
      pure (t.base.toNat % 2 ^ 24 + f.toNat % 256 * 2 ^ 24)
    else pure t.base.toNat
  phWrite lim t.limit.toNat
  phWrite base b

/-- LLDT (R225). -/
def lldtBody (sel : Half) : M Unit := do
  if isNull sel then
    modify fun s => { s with sys := { s.sys with ldtr := { s.sys.ldtr with sel := sel } } }
  else
    let e := Exc.gp (selCode sel false)
    require (!sel.getLsbD 2) e
    let d ← readDesc sel e
    require (d.isSys 2) e
    require d.p (.np (selCode sel false))
    modify fun s => { s with sys := { s.sys with ldtr := d.toSegReg sel } }

/-- LTR (R227): the descriptor is marked busy in memory, in one locked access (R94). -/
def ltrBody (sel : Half) : M Unit := do
  require (!isNull sel) (.gp 0#16)
  let e := Exc.gp (selCode sel false)
  require (!sel.getLsbD 2) e
  let d ← readDesc sel e
  require d.tssAvail e
  require d.p (.np (selCode sel false))
  phWrite (← busyAddr sel) (busyByte d true)
  let tr := { d.toSegReg sel with attr := { d.attr with typ := if d.tss32 then 11#4 else 3#4 } }
  modify fun s => { s with sys := { s.sys with tr := tr } }

/-- A control register (R230). -/
def SysRegs.readCr (r : SysRegs) : CrN → Word
  | .cr0 => r.cr0 | .cr2 => r.cr2 | .cr3 => r.cr3 | .cr4 => r.cr4

/-- The writable bits of CR0 (R35): PG, CD, NW, AM, WP, NE, TS, EM, MP, PE. -/
def cr0Mask : Word := 0xE005002F#32

/-- CR0 after a write: reserved bits keep their values, ET reads 1 (R232). -/
def cr0Next (old v : Word) : Word := (old &&& ~~~cr0Mask) ||| (v &&& cr0Mask) ||| 0x10#32

/-- Whether a write may set these bits of CR4: no reserved bit, no feature the implementation lacks (R39, R232); that TSD
belongs to HAS_TSC, OSFXSR and OSXMMEXCPT to HAS_SSE is the model's choice (log 38). -/
def cr4Allowed (c : Config.Params) (v : Word) : Bool :=
  v.toNat < 2 ^ 11 && (!bit v 2 || c.hasTsc) && (!bit v 4 || c.hasPse) && (!bit v 5 || c.hasPae) &&
    (!bit v 6 || c.hasMce) && (!bit v 7 || c.hasPge) && (!(bit v 9 || bit v 10) || c.hasSse)

/-- Loads the four PDPTEs if a condition holds (R161, R232). -/
def loadPdptesIf (c : Bool) (cr3 : Word) : M Unit := do
  if c then
    let es ← readPdptes cr3 (.gp 0#16)
    modify fun s => { s with sys := s.sys.setPdptes es }

/-- MOV to CR0 (R232, R183). -/
def writeCr0 (v : Word) : M Unit := do
  let s ← get
  require (!(bit v 31 && !bit v 0)) (.gp 0#16)
  require (!(bit v 29 && !bit v 30)) (.gp 0#16)
  loadPdptesIf (bit v 31 && !s.pg && bit s.sys.cr4 5) s.sys.cr3
  modify fun s' =>
    let s' := { s' with sys := { s'.sys with cr0 := cr0Next s.sys.cr0 v } }
    if bit s.sys.cr0 31 != bit v 31 || bit s.sys.cr0 0 != bit v 0 || bit s.sys.cr0 16 != bit v 16 then s'.flushAll
    else s'

/-- MOV to CR3 (R232, R180). -/
def writeCr3 (v : Word) : M Unit := do
  let s ← get
  loadPdptesIf (s.pg && bit s.sys.cr4 5) v
  modify fun s => State.flushLocal { s with sys := { s.sys with cr3 := v } }

/-- MOV to CR4 (R232, R183). -/
def writeCr4 (v : Word) : M Unit := do
  let s ← get
  require (cr4Allowed s.cfg v) (.gp 0#16)
  loadPdptesIf (bit v 5 && !bit s.sys.cr4 5 && s.pg) s.sys.cr3
  modify fun s' =>
    let s' := { s' with sys := { s'.sys with cr4 := v } }
    if bit s.sys.cr4 4 != bit v 4 || bit s.sys.cr4 5 != bit v 5 || bit s.sys.cr4 7 != bit v 7 then s'.flushAll
    else s'

/-- MOV to a control register (R232); a write to CR0, CR3 or CR4 disarms the monitor (R385). -/
def writeCr (c : CrN) (v : Word) : M Unit :=
  match c with
  | .cr0 => do writeCr0 v; modify disarm
  | .cr2 => modify fun s => { s with sys := { s.sys with cr2 := v } }
  | .cr3 => do writeCr3 v; modify disarm
  | .cr4 => do writeCr4 v; modify disarm

/-- The status flags are left undefined (R230): free values. -/
def freeStatusFlags : M Unit := do
  let c ← freshBit
  let p ← freshBit
  let a ← freshBit
  let z ← freshBit
  let sf ← freshBit
  let o ← freshBit
  setFlags fun f => { f with cf := c, pf := p, af := a, zf := z, sf := sf, ovf := o }

/-- CR0 after LMSW: bits 3:1 from the operand, PE set but never cleared (R233). The TLB is invalidated when PE
changes (R183). -/
def lmswWrite (s : State) (v : Word) : State :=
  let cr0 := (s.sys.cr0 &&& ~~~0xE#32) ||| (v &&& 0xF#32)
  let s' := { s with sys := { s.sys with cr0 := cr0 } }
  if bit cr0 0 != s.pe then s'.flushAll else s'

/-- DR4 and DR5 are #UD when CR4.DE = 1 (R236). -/
def checkDr (d : DrN) : M Unit := do require (!((d == .dr4 || d == .dr5) && bit (← get).sys.cr4 3)) .ud

/-- A debug register; DR4 and DR5 alias DR6 and DR7 (R236). -/
def SysRegs.readDr (r : SysRegs) : DrN → Word
  | .dr0 => r.dr0 | .dr1 => r.dr1 | .dr2 => r.dr2 | .dr3 => r.dr3
  | .dr4 | .dr6 => r.dr6
  | .dr5 | .dr7 => r.dr7

/-- A debug register replaced (R236). -/
def SysRegs.writeDr (r : SysRegs) (d : DrN) (v : Word) : SysRegs :=
  match d with
  | .dr0 => { r with dr0 := v }
  | .dr1 => { r with dr1 := v }
  | .dr2 => { r with dr2 := v }
  | .dr3 => { r with dr3 := v }
  | .dr4 | .dr6 => { r with dr6 := v }
  | .dr5 | .dr7 => { r with dr7 := v }

/-- Whether CLI and STI act on VIF instead of IF (R306, R307). -/
def State.usesVif (s : State) : Bool := s.prot && bit s.sys.cr4 1 && s.cpl == 3

/-- CLI (R306). -/
def cliBody : M Unit := do
  let s ← get
  if s.cpl ≤ s.iopl then setFlags fun f => { f with intf := false }
  else if s.usesVif then setFlags fun f => { f with vif := false }
  else gp0

/-- STI (R307): setting IF from 0 starts the shadow of one instruction. -/
def stiBody : M Unit := do
  let s ← get
  if s.cpl ≤ s.iopl then
    setFlags fun f => { f with intf := true }
    if !s.eflags.intf then modify fun s => { s with act := { s.act with shadow := .sti } }
  else if s.usesVif then
    require (!s.eflags.vip) (.gp 0#16)
    setFlags fun f => { f with vif := true }
  else gp0

/-- SGDT (R222). -/
def execSgdt (m : Mem) (s : State) : Result :=
  runInsn false (do storeTable m (← get).sys.gdtr) s

/-- SIDT (R224). -/
def execSidt (m : Mem) (s : State) : Result :=
  runInsn false (do storeTable m (← get).sys.idtr) s

/-- LGDT (R221). -/
def execLgdt (m : Mem) (s : State) : Result :=
  runInsn false (do
    requireCpl0
    let t ← loadTable m
    modify fun s => { s with sys := { s.sys with gdtr := t } }) s

/-- LIDT (R223). -/
def execLidt (m : Mem) (s : State) : Result :=
  runInsn false (do
    requireCpl0
    let t ← loadTable m
    modify fun s => { s with sys := { s.sys with idtr := t } }) s

/-- SLDT (R226). -/
def execSldt (rm : RM Reg) (s : State) : Result :=
  runInsn false (do requireProt; storeSel 4 rm ((← get).sys.ldtr.sel.setWidth 32)) s

/-- STR (R228). -/
def execStr (rm : RM Reg) (s : State) : Result :=
  runInsn false (do requireProt; storeSel 4 rm ((← get).sys.tr.sel.setWidth 32)) s

/-- LLDT (R225). -/
def execLldt (rm : RM Reg) (s : State) : Result :=
  runInsn false (do requireProt; requireCpl0; lldtBody ((← readRM .w rm).setWidth 16)) s

/-- LTR (R227). -/
def execLtr (rm : RM Reg) (s : State) : Result :=
  runInsn false (do requireProt; requireCpl0; ltrBody ((← readRM .w rm).setWidth 16)) s

/-- SMSW (R234). -/
def execSmsw (rm : RM Reg) (s : State) : Result :=
  runInsn false (do storeSel 2 rm (Sz.w.trunc (← get).sys.cr0)) s

/-- LMSW (R233). -/
def execLmsw (rm : RM Reg) (s : State) : Result :=
  runInsn false (do
    requireCpl0
    let v ← readRM .w rm
    modify fun s => disarm (lmswWrite s v)) s

/-- CLTS (R235). It leaves the monitor armed: R385 names LMSW beside the writes to CR0, and not CLTS (DESIGN CHOICE, log
40). -/
def execClts (s : State) : Result :=
  runInsn false (do requireCpl0; modify fun s => { s with sys := { s.sys with cr0 := setBit s.sys.cr0 3 false } }) s

/-- MOV r32, CRn (R230). -/
def execMovR32Crn (r : Reg) (c : CrN) (s : State) : Result :=
  runInsn false (do
    requireCpl0
    modify fun s => { s with gpr := s.gpr.set r (s.sys.readCr c) }
    freeStatusFlags) s

/-- MOV CRn, r32 (R232). -/
def execMovCrnR32 (c : CrN) (r : Reg) (s : State) : Result :=
  runInsn false (do requireCpl0; writeCr c ((← get).gpr.get r)) s

/-- MOV r32, DRn (R236). -/
def execMovR32Drn (r : Reg) (d : DrN) (s : State) : Result :=
  runInsn false (do
    checkDr d
    requireCpl0
    modify fun s => { s with gpr := s.gpr.set r (s.sys.readDr d) }) s

/-- MOV DRn, r32 (R236). -/
def execMovDrnR32 (d : DrN) (r : Reg) (s : State) : Result :=
  runInsn false (do
    checkDr d
    requireCpl0
    modify fun s => { s with sys := s.sys.writeDr d (s.gpr.get r) }) s

/-- CLI (R306). -/
def execCli (s : State) : Result :=
  runInsn false cliBody s

/-- STI (R307). -/
def execSti (s : State) : Result :=
  runInsn false stiBody s

end Sys2Proof.Machine
end

