-- ==== Sys2Proof/Machine/ProtCheck.lean ====
section
/-! DEFINITION. Pointer validation: LAR, LSL, VERR, VERW, ARPL (R260 to R266). -/
namespace Sys2Proof.Machine

/-- `privileged_ok` of R261. -/
def privilegedOk (cpl : Nat) (sel : Half) (d : Desc) : Bool :=
  d.conforming || (decide (cpl ≤ d.dpl) && decide (rpl sel ≤ d.dpl))

/-- Writes ZF, the only flag these instructions change (R260). -/
def setZf (b : Bool) : M Unit := setFlags fun f => { f with zf := b }

/-- The descriptor types LAR accepts (R262). -/
def larType (d : Desc) : Bool := d.s || [1, 2, 3, 4, 5, 9, 11, 12].contains d.typ
/-- The descriptor types LSL accepts (R264). -/
def lslType (d : Desc) : Bool := d.s || [1, 2, 3, 9, 11].contains d.typ

/-- The access rights LAR loads (R262): bits 19:16 are undefined in the 32-bit result (D17, U4), a free value. -/
def larResult (z : Sz) (d : Desc) (free : Word) : Word :=
  if z == .w then d.hi &&& 0xFF00#32 else (d.hi &&& 0x00F0FF00#32) ||| (free &&& 0x000F0000#32)

/-- LAR (R262). -/
def larBody (r : Reg) (sel : Half) : M Unit := do
  let s ← get
  match ← visible sel with
  | none => setZf false
  | some d =>
    if larType d && privilegedOk s.cpl sel d then
      let f ← if s.osz == .w then pure 0#32 else do pure (Config.freeWord (← fresh))
      modify fun s => s.setReg s.osz r (larResult s.osz d f)
      setZf true
    else setZf false

/-- LSL (R264). -/
def lslBody (r : Reg) (sel : Half) : M Unit := do
  let s ← get
  match ← visible sel with
  | none => setZf false
  | some d =>
    if lslType d && privilegedOk s.cpl sel d then
      modify fun s => s.setReg s.osz r (BitVec.ofNat 32 d.limit)
      setZf true
    else setZf false

/-- VERR and VERW (R263). -/
def verifyBody (write : Bool) (sel : Half) : M Unit := do
  let s ← get
  match ← visible sel with
  | none => setZf false
  | some d =>
    setZf (d.s && privilegedOk s.cpl sel d && (if write then d.isWritable else d.isReadable))

/-- ARPL (R265): only bits 1:0 of the destination can change. A destination in memory is checked for writing also when it
stays as it is (DESIGN CHOICE, log 33). -/
def arplBody (dst : RM Reg) (r : Reg) : M Unit := do
  let p ← place .w .write dst
  let d ← p.get
  let rp := (← get).gpr.read .w r
  if d.toNat % 4 < rp.toNat % 4 then
    p.set (BitVec.ofNat 32 (d.toNat / 4 * 4 + rp.toNat % 4))
    setZf true
  else setZf false

/-- LAR (R262). -/
def execLar (r : Reg) (src : RM Reg) (s : State) : Result :=
  runInsn false (do requireProt; larBody r ((← readRM .w src).setWidth 16)) s

/-- LSL (R264). -/
def execLsl (r : Reg) (src : RM Reg) (s : State) : Result :=
  runInsn false (do requireProt; lslBody r ((← readRM .w src).setWidth 16)) s

/-- VERR (R263). -/
def execVerr (rm : RM Reg) (s : State) : Result :=
  runInsn false (do requireProt; verifyBody false ((← readRM .w rm).setWidth 16)) s

/-- VERW (R263). -/
def execVerw (rm : RM Reg) (s : State) : Result :=
  runInsn false (do requireProt; verifyBody true ((← readRM .w rm).setWidth 16)) s

/-- ARPL (R265). -/
def execArpl (dst : RM Reg) (r : Reg) (s : State) : Result :=
  runInsn false (do requireProt; arplBody dst r) s

end Sys2Proof.Machine
end

