-- ==== Sys2Proof/Machine/Stack.lean ====
section
/-! DEFINITION. PUSH, POP, PUSHF, POPF (R607, R308, R310). -/
namespace Sys2Proof.Machine

/-- POP into an r/m operand (R607): the address of a memory operand is computed with the incremented ESP. -/
def popRmOp (dst : RM Reg) : M Unit := do
  let s ← get
  let z := s.osz
  let v ← peek z 0
  setEsp (s.popped z.bytes)
  (← place z .write dst).set v

/-- PUSH of a segment register: the selector zero-extended to the operand size (R607). -/
def pushSeg (x : Seg) : M Unit := do
  let s ← get
  push s.osz ((s.segs.get x).sel.setWidth 32)

/-- POP into a segment register, loaded with the checks of R143 (R607). -/
def popSeg (x : Seg) : M Unit := do
  let s ← get
  let v ← peek s.osz 0
  let r ← loadSeg x (v.setWidth 16)
  commitSeg x r
  setEsp (s.popped s.osz.bytes)

/-- The image PUSHF pushes: VM and RF cleared (R310). -/
def pushfImage (f : Eflags) : Word := f.toWord &&& 0x00FCFFFF#32

/-- POPF (R308). -/
def popfBody : M Unit := do
  let s ← get
  let z := s.osz
  let v ← peek z 0
  setFlags fun f => restoreFlags false (z == .w) s.cpl f v
  setEsp (s.popped z.bytes)

/-- PUSH r (R607). -/
def execPushR (r : Reg) (s : State) : Result :=
  runInsn false (do let s ← get; push s.osz (s.gpr.read s.osz r)) s

/-- PUSH imm8 (R607). -/
def execPushImm8 (imm : Byte) (s : State) : Result :=
  runInsn false (atOsz fun z => push z (immSext z imm)) s

/-- PUSH imm32 (R607). -/
def execPushImm32 (imm : Word) (s : State) : Result :=
  runInsn false (atOsz fun z => push z imm) s

/-- PUSH r/m (R607). -/
def execPushRm (rm : RM Reg) (s : State) : Result :=
  runInsn false (atOsz fun z => do push z (← readRM z rm)) s

/-- POP r (R607). -/
def execPopR (r : Reg) (s : State) : Result :=
  runInsn false (popRmOp (.reg r)) s

/-- POP r/m (R607). -/
def execPopRm (rm : RM Reg) (s : State) : Result :=
  runInsn false (popRmOp rm) s

/-- PUSH ES (R607). -/
def execPushEs (s : State) : Result :=
  runInsn false (pushSeg .es) s

/-- PUSH CS (R607). -/
def execPushCs (s : State) : Result :=
  runInsn false (pushSeg .cs) s

/-- PUSH SS (R607). -/
def execPushSs (s : State) : Result :=
  runInsn false (pushSeg .ss) s

/-- PUSH DS (R607). -/
def execPushDs (s : State) : Result :=
  runInsn false (pushSeg .ds) s

/-- PUSH FS (R607). -/
def execPushFs (s : State) : Result :=
  runInsn false (pushSeg .fs) s

/-- PUSH GS (R607). -/
def execPushGs (s : State) : Result :=
  runInsn false (pushSeg .gs) s

/-- POP ES (R607). -/
def execPopEs (s : State) : Result :=
  runInsn false (popSeg .es) s

/-- POP SS (R607). -/
def execPopSs (s : State) : Result :=
  runInsn false (popSeg .ss) s

/-- POP DS (R607). -/
def execPopDs (s : State) : Result :=
  runInsn false (popSeg .ds) s

/-- POP FS (R607). -/
def execPopFs (s : State) : Result :=
  runInsn false (popSeg .fs) s

/-- POP GS (R607). -/
def execPopGs (s : State) : Result :=
  runInsn false (popSeg .gs) s

/-- PUSHF (R310). -/
def execPushf (s : State) : Result :=
  runInsn false (do let s ← get; push s.osz (pushfImage s.eflags)) s

/-- POPF (R308). -/
def execPopf (s : State) : Result :=
  runInsn false popfBody s

end Sys2Proof.Machine
end

