-- ==== Sys2Proof/Machine/Sync.lean ====
section
/-! DEFINITION. Fences, cache and TLB maintenance, HLT, PAUSE, MONITOR, MWAIT, RSM, and the state instructions of the x87 and
SIMD units (R360 to R390, R212). -/
namespace Sys2Proof.Machine

/-- LFENCE and MFENCE came with the Pentium 4 (R106); that CLFLUSH did so too is a DESIGN CHOICE (log 14). -/
def fromP4 : M Unit := do require ((← get).cfg.family == .p4Xeon) .ud

/-- INVLPG (R365): the operand is not accessed; its page's translations go. A TLB invalidation disarms the monitor
(R385). -/
def invlpgBody (m : Mem) : M Unit :=
  modify fun s => disarm (s.flushPage ((s.segs.get (s.memSeg m)).base + effAddr s.gpr m))

/-- Memory after INVD: each byte of WB memory that differs from its last written-back value is that value or the current
one, by a free choice (R366, D19). -/
def invdMemory (k : Nat) (wbType : Nat → Bool) (mem wb : Memory) : Memory :=
  if mem == wb then mem
  else
    ((mem ++ wb).map Prod.fst).foldl
      (fun m a => if wbType a && mem.read a != wb.read a && Config.invdLost k a then m.write a (wb.read a) else m) mem

/-- INVD (R366). -/
def invdBody : M Unit := do
  let k ← fresh
  modify fun s =>
    let m := invdMemory k (fun a => s.memType a == .wb) s.mem s.memWb
    { s with mem := m, memWb := m }

/-- The bytes at physical addresses are written back: INVD does not lose them any more (R366, D19). -/
def State.writeBack (s : State) (pas : List Nat) : State :=
  { s with memWb := s.memWb.writes (pas.map fun a => (a, s.mem.read a)) }

/-- CLFLUSH (R368): the cache line of 64 bytes (DESIGN CHOICE, log 14) that holds the operand's linear address is written
back. The address is translated as a read at level 0 would be, at any level, and without exception or trace; one that has
no translation is in no cache. -/
def clflushBody (m : Mem) : M Unit := do
  let s ← get
  match translate ((s.segs.get (s.memSeg m)).base + effAddr s.gpr m) .read false s with
  | .ok p _ => set (s.writeBack (addrsFrom (p / 64 * 64) 64))
  | .error _ _ => pure ()

/-- The conditions MONITOR and MWAIT share (R382, R383). -/
def requireMonitor : M Unit := do
  let s ← get
  require (s.cfg.hasMonitor && s.cpl == 0) .ud
  require (s.gpr.ecx == 0#32) (.gp 0#16)

/-- MONITOR (R382): arms the aligned line that holds the byte at DS:EAX, or at the override segment, whatever its memory type
(DESIGN CHOICE, log 40). -/
def monitorBody : M Unit := do
  requireMonitor
  let s ← get
  let pas ← dataAddrs (s.ctx.pfx.seg.getD .ds) s.gpr.eax 1 1 .read
  let n := s.cfg.monitorLineMin
  modify fun s => { s with act := { s.act with monitor := some ⟨pas.headD 0 / n * n, n⟩ } }

/-- MWAIT (R383): waits if the monitor is armed. -/
def mwaitBody : M Unit := do
  requireMonitor
  modify fun s => { s with act := { s.act with mwaiting := s.act.monitor.isSome } }

/-- RSM (R390): in SMM it restores the processor state that SMM entry saved; elsewhere it is #UD. -/
def rsmBody : M Unit := do
  match (← get).smm with
  | none => raise .ud
  | some p =>
    modify fun s => { s with gpr := p.gpr, eip := p.eip, eflags := p.eflags, segs := p.segs, sys := p.sys, smm := none }

/-- The #NM conditions of FXSAVE and FXRSTOR, which are classed with the x87 instructions (R437; the class is a DESIGN
CHOICE, log 17). -/
def requireFpu : M Unit := do
  let s ← get
  require (!bit s.sys.cr0 2 && !bit s.sys.cr0 3) .nm

/-- The conditions of an SSE-family instruction: #NM (R437) first (R212), then #UD (R436). -/
def requireSse : M Unit := do
  let s ← get
  require (!bit s.sys.cr0 3) .nm
  require (s.cfg.hasSse && !bit s.sys.cr0 2 && bit s.sys.cr4 9) .ud

/-- LFENCE (R361). No effect in a model that performs loads in order (log 60). -/
def execLfence (s : State) : Result :=
  runInsn false (fromP4) s

/-- MFENCE (R362). Waits for the store buffer, which one processor cannot observe (log 60). -/
def execMfence (s : State) : Result :=
  runInsn false (fromP4) s

/-- SFENCE (R360). Waits for the store buffer, which one processor cannot observe (log 60). -/
def execSfence (s : State) : Result :=
  runInsn false (do require (← get).cfg.hasSse .ud) s

/-- INVLPG (R365). -/
def execInvlpg (m : Mem) (s : State) : Result :=
  runInsn false (do from486; requireCpl0; invlpgBody m) s

/-- INVD (R366). -/
def execInvd (s : State) : Result :=
  runInsn false (do requireCpl0; invdBody) s

/-- WBINVD (R367). -/
def execWbinvd (s : State) : Result :=
  runInsn false (do requireCpl0; modify fun s => { s with memWb := s.mem }) s

/-- CLFLUSH (R368). No architectural effect but on what a later INVD may lose. -/
def execClflush (m : Mem) (s : State) : Result :=
  runInsn false (do fromP4; clflushBody m) s

/-- HLT (R378). -/
def execHlt (s : State) : Result :=
  runInsn false (do requireCpl0; modify fun s => { s with act := { s.act with halted := true } }) s

/-- PAUSE (R381). -/
def execPause (s : State) : Result :=
  runInsn false (pure ()) s

/-- MONITOR (R382). -/
def execMonitor (s : State) : Result :=
  runInsn false monitorBody s

/-- MWAIT (R383). -/
def execMwait (s : State) : Result :=
  runInsn false mwaitBody s

/-- RSM (R390). -/
def execRsm (s : State) : Result :=
  runJump false rsmBody s

/-- FXSAVE (R212). -/
def execFxsave (m : Mem) (s : State) : Result :=
  runInsn false (do let _ := m; requireFpu; refuse .fpuState) s

/-- FXRSTOR (R212). -/
def execFxrstor (m : Mem) (s : State) : Result :=
  runInsn false (do let _ := m; requireFpu; refuse .fpuState) s

/-- LDMXCSR (R212). -/
def execLdmxcsr (m : Mem) (s : State) : Result :=
  runInsn false (do let _ := m; requireSse; refuse .fpuState) s

/-- STMXCSR (R212). -/
def execStmxcsr (m : Mem) (s : State) : Result :=
  runInsn false (do let _ := m; requireSse; refuse .fpuState) s

end Sys2Proof.Machine
end

