-- ==== Sys2Proof/Machine/Dispatch.lean ====
section
/-! DEFINITION. One arm a constructor of `Instr`: the meaning of each instruction. -/
namespace Sys2Proof.Machine

def exec (i : Instr) (s : State) : Host.Outcome State Fault Refusal :=
  match i with
  | .monitor => Sys2Proof.Machine.execMonitor s
  | .mwait => Sys2Proof.Machine.execMwait s
  | .lfence => Sys2Proof.Machine.execLfence s
  | .mfence => Sys2Proof.Machine.execMfence s
  | .sfence => Sys2Proof.Machine.execSfence s
  | .sldt rm => Sys2Proof.Machine.execSldt rm s
  | .str rm => Sys2Proof.Machine.execStr rm s
  | .lldt rm => Sys2Proof.Machine.execLldt rm s
  | .ltr rm => Sys2Proof.Machine.execLtr rm s
  | .verr rm => Sys2Proof.Machine.execVerr rm s
  | .verw rm => Sys2Proof.Machine.execVerw rm s
  | .sgdt m => Sys2Proof.Machine.execSgdt m s
  | .sidt m => Sys2Proof.Machine.execSidt m s
  | .lgdt m => Sys2Proof.Machine.execLgdt m s
  | .lidt m => Sys2Proof.Machine.execLidt m s
  | .smsw rm => Sys2Proof.Machine.execSmsw rm s
  | .lmsw rm => Sys2Proof.Machine.execLmsw rm s
  | .invlpg m => Sys2Proof.Machine.execInvlpg m s
  | .fxsave m => Sys2Proof.Machine.execFxsave m s
  | .fxrstor m => Sys2Proof.Machine.execFxrstor m s
  | .ldmxcsr m => Sys2Proof.Machine.execLdmxcsr m s
  | .stmxcsr m => Sys2Proof.Machine.execStmxcsr m s
  | .clflush m => Sys2Proof.Machine.execClflush m s
  | .cmpxchg8b m => Sys2Proof.Machine.execCmpxchg8b m s
  | .btRmImm8 rm imm => Sys2Proof.Machine.execBtRmImm8 rm imm s
  | .btsRmImm8 rm imm => Sys2Proof.Machine.execBtsRmImm8 rm imm s
  | .btrRmImm8 rm imm => Sys2Proof.Machine.execBtrRmImm8 rm imm s
  | .btcRmImm8 rm imm => Sys2Proof.Machine.execBtcRmImm8 rm imm s
  | .lar r src => Sys2Proof.Machine.execLar r src s
  | .lsl r src => Sys2Proof.Machine.execLsl r src s
  | .clts => Sys2Proof.Machine.execClts s
  | .invd => Sys2Proof.Machine.execInvd s
  | .wbinvd => Sys2Proof.Machine.execWbinvd s
  | .ud2 => Sys2Proof.Machine.execUd2 s
  | .movR32Crn r c => Sys2Proof.Machine.execMovR32Crn r c s
  | .movR32Drn r d => Sys2Proof.Machine.execMovR32Drn r d s
  | .movCrnR32 c r => Sys2Proof.Machine.execMovCrnR32 c r s
  | .movDrnR32 d r => Sys2Proof.Machine.execMovDrnR32 d r s
  | .wrmsr => Sys2Proof.Machine.execWrmsr s
  | .rdtsc => Sys2Proof.Machine.execRdtsc s
  | .rdmsr => Sys2Proof.Machine.execRdmsr s
  | .rdpmc => Sys2Proof.Machine.execRdpmc s
  | .sysenter => Sys2Proof.Machine.execSysenter s
  | .sysexit => Sys2Proof.Machine.execSysexit s
  | .cpuid => Sys2Proof.Machine.execCpuid s
  | .rsm => Sys2Proof.Machine.execRsm s
  | .movnti m r => Sys2Proof.Machine.execMovnti m r s
  | .pushFs => Sys2Proof.Machine.execPushFs s
  | .pushGs => Sys2Proof.Machine.execPushGs s
  | .popFs => Sys2Proof.Machine.execPopFs s
  | .popGs => Sys2Proof.Machine.execPopGs s
  | .xaddRm8R8 dst r => Sys2Proof.Machine.execXaddRm8R8 dst r s
  | .xaddRmR dst r => Sys2Proof.Machine.execXaddRmR dst r s
  | .cmpxchgRm8R8 dst r => Sys2Proof.Machine.execCmpxchgRm8R8 dst r s
  | .cmpxchgRmR dst r => Sys2Proof.Machine.execCmpxchgRmR dst r s
  | .btRmR dst r => Sys2Proof.Machine.execBtRmR dst r s
  | .btsRmR dst r => Sys2Proof.Machine.execBtsRmR dst r s
  | .btrRmR dst r => Sys2Proof.Machine.execBtrRmR dst r s
  | .btcRmR dst r => Sys2Proof.Machine.execBtcRmR dst r s
  | .joRel32 rel => Sys2Proof.Machine.execJoRel32 rel s
  | .jnoRel32 rel => Sys2Proof.Machine.execJnoRel32 rel s
  | .jbRel32 rel => Sys2Proof.Machine.execJbRel32 rel s
  | .jaeRel32 rel => Sys2Proof.Machine.execJaeRel32 rel s
  | .jeRel32 rel => Sys2Proof.Machine.execJeRel32 rel s
  | .jneRel32 rel => Sys2Proof.Machine.execJneRel32 rel s
  | .jbeRel32 rel => Sys2Proof.Machine.execJbeRel32 rel s
  | .jaRel32 rel => Sys2Proof.Machine.execJaRel32 rel s
  | .jsRel32 rel => Sys2Proof.Machine.execJsRel32 rel s
  | .jnsRel32 rel => Sys2Proof.Machine.execJnsRel32 rel s
  | .jpRel32 rel => Sys2Proof.Machine.execJpRel32 rel s
  | .jnpRel32 rel => Sys2Proof.Machine.execJnpRel32 rel s
  | .jlRel32 rel => Sys2Proof.Machine.execJlRel32 rel s
  | .jgeRel32 rel => Sys2Proof.Machine.execJgeRel32 rel s
  | .jleRel32 rel => Sys2Proof.Machine.execJleRel32 rel s
  | .jgRel32 rel => Sys2Proof.Machine.execJgRel32 rel s
  | .callM1632 m => Sys2Proof.Machine.execCallM1632 m s
  | .jmpM1632 m => Sys2Proof.Machine.execJmpM1632 m s
  | .movRm8Imm8 rm imm => Sys2Proof.Machine.execMovRm8Imm8 rm imm s
  | .movRmImm rm imm => Sys2Proof.Machine.execMovRmImm rm imm s
  | .pushRm rm => Sys2Proof.Machine.execPushRm rm s
  | .popRm rm => Sys2Proof.Machine.execPopRm rm s
  | .addRm8Imm8 rm imm => Sys2Proof.Machine.execAddRm8Imm8 rm imm s
  | .addRmImm rm imm => Sys2Proof.Machine.execAddRmImm rm imm s
  | .addRmImm8 rm imm => Sys2Proof.Machine.execAddRmImm8 rm imm s
  | .orRm8Imm8 rm imm => Sys2Proof.Machine.execOrRm8Imm8 rm imm s
  | .orRmImm rm imm => Sys2Proof.Machine.execOrRmImm rm imm s
  | .orRmImm8 rm imm => Sys2Proof.Machine.execOrRmImm8 rm imm s
  | .adcRm8Imm8 rm imm => Sys2Proof.Machine.execAdcRm8Imm8 rm imm s
  | .adcRmImm rm imm => Sys2Proof.Machine.execAdcRmImm rm imm s
  | .adcRmImm8 rm imm => Sys2Proof.Machine.execAdcRmImm8 rm imm s
  | .sbbRm8Imm8 rm imm => Sys2Proof.Machine.execSbbRm8Imm8 rm imm s
  | .sbbRmImm rm imm => Sys2Proof.Machine.execSbbRmImm rm imm s
  | .sbbRmImm8 rm imm => Sys2Proof.Machine.execSbbRmImm8 rm imm s
  | .andRm8Imm8 rm imm => Sys2Proof.Machine.execAndRm8Imm8 rm imm s
  | .andRmImm rm imm => Sys2Proof.Machine.execAndRmImm rm imm s
  | .andRmImm8 rm imm => Sys2Proof.Machine.execAndRmImm8 rm imm s
  | .subRm8Imm8 rm imm => Sys2Proof.Machine.execSubRm8Imm8 rm imm s
  | .subRmImm rm imm => Sys2Proof.Machine.execSubRmImm rm imm s
  | .subRmImm8 rm imm => Sys2Proof.Machine.execSubRmImm8 rm imm s
  | .xorRm8Imm8 rm imm => Sys2Proof.Machine.execXorRm8Imm8 rm imm s
  | .xorRmImm rm imm => Sys2Proof.Machine.execXorRmImm rm imm s
  | .xorRmImm8 rm imm => Sys2Proof.Machine.execXorRmImm8 rm imm s
  | .cmpRm8Imm8 rm imm => Sys2Proof.Machine.execCmpRm8Imm8 rm imm s
  | .cmpRmImm rm imm => Sys2Proof.Machine.execCmpRmImm rm imm s
  | .cmpRmImm8 rm imm => Sys2Proof.Machine.execCmpRmImm8 rm imm s
  | .testRm8Imm8 rm imm => Sys2Proof.Machine.execTestRm8Imm8 rm imm s
  | .testRmImm rm imm => Sys2Proof.Machine.execTestRmImm rm imm s
  | .incRm8 rm => Sys2Proof.Machine.execIncRm8 rm s
  | .incRm rm => Sys2Proof.Machine.execIncRm rm s
  | .decRm8 rm => Sys2Proof.Machine.execDecRm8 rm s
  | .decRm rm => Sys2Proof.Machine.execDecRm rm s
  | .notRm8 rm => Sys2Proof.Machine.execNotRm8 rm s
  | .notRm rm => Sys2Proof.Machine.execNotRm rm s
  | .negRm8 rm => Sys2Proof.Machine.execNegRm8 rm s
  | .negRm rm => Sys2Proof.Machine.execNegRm rm s
  | .jmpRm32 rm => Sys2Proof.Machine.execJmpRm32 rm s
  | .callRm32 rm => Sys2Proof.Machine.execCallRm32 rm s
  | .pause => Sys2Proof.Machine.execPause s
  | .lock => Sys2Proof.Machine.execLock s
  | .repne => Sys2Proof.Machine.execRepne s
  | .rep => Sys2Proof.Machine.execRep s
  | .segCs => Sys2Proof.Machine.execSegCs s
  | .segSs => Sys2Proof.Machine.execSegSs s
  | .segDs => Sys2Proof.Machine.execSegDs s
  | .segEs => Sys2Proof.Machine.execSegEs s
  | .segFs => Sys2Proof.Machine.execSegFs s
  | .segGs => Sys2Proof.Machine.execSegGs s
  | .opsize => Sys2Proof.Machine.execOpsize s
  | .addrsize => Sys2Proof.Machine.execAddrsize s
  | .bound r m => Sys2Proof.Machine.execBound r m s
  | .arpl dst r => Sys2Proof.Machine.execArpl dst r s
  | .movRmSreg dst sr => Sys2Proof.Machine.execMovRmSreg dst sr s
  | .movSregRm16 sr src => Sys2Proof.Machine.execMovSregRm16 sr src s
  | .callPtr1632 sel off => Sys2Proof.Machine.execCallPtr1632 sel off s
  | .jmpPtr1632 sel off => Sys2Proof.Machine.execJmpPtr1632 sel off s
  | .retFar => Sys2Proof.Machine.execRetFar s
  | .retFarImm16 imm => Sys2Proof.Machine.execRetFarImm16 imm s
  | .int3 => Sys2Proof.Machine.execInt3 s
  | .intImm8 imm => Sys2Proof.Machine.execIntImm8 imm s
  | .into => Sys2Proof.Machine.execInto s
  | .iret => Sys2Proof.Machine.execIret s
  | .pushf => Sys2Proof.Machine.execPushf s
  | .popf => Sys2Proof.Machine.execPopf s
  | .hlt => Sys2Proof.Machine.execHlt s
  | .cli => Sys2Proof.Machine.execCli s
  | .sti => Sys2Proof.Machine.execSti s
  | .nop => Sys2Proof.Machine.execNop s
  | .inAlImm8 imm => Sys2Proof.Machine.execInAlImm8 imm s
  | .inEaxImm8 imm => Sys2Proof.Machine.execInEaxImm8 imm s
  | .inAlDx => Sys2Proof.Machine.execInAlDx s
  | .inEaxDx => Sys2Proof.Machine.execInEaxDx s
  | .outImm8Al imm => Sys2Proof.Machine.execOutImm8Al imm s
  | .outImm8Eax imm => Sys2Proof.Machine.execOutImm8Eax imm s
  | .outDxAl => Sys2Proof.Machine.execOutDxAl s
  | .outDxEax => Sys2Proof.Machine.execOutDxEax s
  | .movRm8R8 dst r => Sys2Proof.Machine.execMovRm8R8 dst r s
  | .movRmR dst r => Sys2Proof.Machine.execMovRmR dst r s
  | .movR8Rm8 r src => Sys2Proof.Machine.execMovR8Rm8 r src s
  | .movRRm r src => Sys2Proof.Machine.execMovRRm r src s
  | .movAlMoffs8 off => Sys2Proof.Machine.execMovAlMoffs8 off s
  | .movEaxMoffs off => Sys2Proof.Machine.execMovEaxMoffs off s
  | .movMoffs8Al off => Sys2Proof.Machine.execMovMoffs8Al off s
  | .movMoffsEax off => Sys2Proof.Machine.execMovMoffsEax off s
  | .lea r m => Sys2Proof.Machine.execLea r m s
  | .xchgRm8R8 dst r => Sys2Proof.Machine.execXchgRm8R8 dst r s
  | .xchgRmR dst r => Sys2Proof.Machine.execXchgRmR dst r s
  | .pushImm8 imm => Sys2Proof.Machine.execPushImm8 imm s
  | .pushImm32 imm => Sys2Proof.Machine.execPushImm32 imm s
  | .pushEs => Sys2Proof.Machine.execPushEs s
  | .pushCs => Sys2Proof.Machine.execPushCs s
  | .pushSs => Sys2Proof.Machine.execPushSs s
  | .pushDs => Sys2Proof.Machine.execPushDs s
  | .popEs => Sys2Proof.Machine.execPopEs s
  | .popSs => Sys2Proof.Machine.execPopSs s
  | .popDs => Sys2Proof.Machine.execPopDs s
  | .addRm8R8 dst r => Sys2Proof.Machine.execAddRm8R8 dst r s
  | .addRmR dst r => Sys2Proof.Machine.execAddRmR dst r s
  | .addR8Rm8 r src => Sys2Proof.Machine.execAddR8Rm8 r src s
  | .addRRm r src => Sys2Proof.Machine.execAddRRm r src s
  | .addAlImm8 imm => Sys2Proof.Machine.execAddAlImm8 imm s
  | .addEaxImm imm => Sys2Proof.Machine.execAddEaxImm imm s
  | .orRm8R8 dst r => Sys2Proof.Machine.execOrRm8R8 dst r s
  | .orRmR dst r => Sys2Proof.Machine.execOrRmR dst r s
  | .orR8Rm8 r src => Sys2Proof.Machine.execOrR8Rm8 r src s
  | .orRRm r src => Sys2Proof.Machine.execOrRRm r src s
  | .orAlImm8 imm => Sys2Proof.Machine.execOrAlImm8 imm s
  | .orEaxImm imm => Sys2Proof.Machine.execOrEaxImm imm s
  | .adcRm8R8 dst r => Sys2Proof.Machine.execAdcRm8R8 dst r s
  | .adcRmR dst r => Sys2Proof.Machine.execAdcRmR dst r s
  | .adcR8Rm8 r src => Sys2Proof.Machine.execAdcR8Rm8 r src s
  | .adcRRm r src => Sys2Proof.Machine.execAdcRRm r src s
  | .adcAlImm8 imm => Sys2Proof.Machine.execAdcAlImm8 imm s
  | .adcEaxImm imm => Sys2Proof.Machine.execAdcEaxImm imm s
  | .sbbRm8R8 dst r => Sys2Proof.Machine.execSbbRm8R8 dst r s
  | .sbbRmR dst r => Sys2Proof.Machine.execSbbRmR dst r s
  | .sbbR8Rm8 r src => Sys2Proof.Machine.execSbbR8Rm8 r src s
  | .sbbRRm r src => Sys2Proof.Machine.execSbbRRm r src s
  | .sbbAlImm8 imm => Sys2Proof.Machine.execSbbAlImm8 imm s
  | .sbbEaxImm imm => Sys2Proof.Machine.execSbbEaxImm imm s
  | .andRm8R8 dst r => Sys2Proof.Machine.execAndRm8R8 dst r s
  | .andRmR dst r => Sys2Proof.Machine.execAndRmR dst r s
  | .andR8Rm8 r src => Sys2Proof.Machine.execAndR8Rm8 r src s
  | .andRRm r src => Sys2Proof.Machine.execAndRRm r src s
  | .andAlImm8 imm => Sys2Proof.Machine.execAndAlImm8 imm s
  | .andEaxImm imm => Sys2Proof.Machine.execAndEaxImm imm s
  | .subRm8R8 dst r => Sys2Proof.Machine.execSubRm8R8 dst r s
  | .subRmR dst r => Sys2Proof.Machine.execSubRmR dst r s
  | .subR8Rm8 r src => Sys2Proof.Machine.execSubR8Rm8 r src s
  | .subRRm r src => Sys2Proof.Machine.execSubRRm r src s
  | .subAlImm8 imm => Sys2Proof.Machine.execSubAlImm8 imm s
  | .subEaxImm imm => Sys2Proof.Machine.execSubEaxImm imm s
  | .xorRm8R8 dst r => Sys2Proof.Machine.execXorRm8R8 dst r s
  | .xorRmR dst r => Sys2Proof.Machine.execXorRmR dst r s
  | .xorR8Rm8 r src => Sys2Proof.Machine.execXorR8Rm8 r src s
  | .xorRRm r src => Sys2Proof.Machine.execXorRRm r src s
  | .xorAlImm8 imm => Sys2Proof.Machine.execXorAlImm8 imm s
  | .xorEaxImm imm => Sys2Proof.Machine.execXorEaxImm imm s
  | .cmpRm8R8 dst r => Sys2Proof.Machine.execCmpRm8R8 dst r s
  | .cmpRmR dst r => Sys2Proof.Machine.execCmpRmR dst r s
  | .cmpR8Rm8 r src => Sys2Proof.Machine.execCmpR8Rm8 r src s
  | .cmpRRm r src => Sys2Proof.Machine.execCmpRRm r src s
  | .cmpAlImm8 imm => Sys2Proof.Machine.execCmpAlImm8 imm s
  | .cmpEaxImm imm => Sys2Proof.Machine.execCmpEaxImm imm s
  | .testRm8R8 dst r => Sys2Proof.Machine.execTestRm8R8 dst r s
  | .testRmR dst r => Sys2Proof.Machine.execTestRmR dst r s
  | .testAlImm8 imm => Sys2Proof.Machine.execTestAlImm8 imm s
  | .testEaxImm imm => Sys2Proof.Machine.execTestEaxImm imm s
  | .jmpRel8 rel => Sys2Proof.Machine.execJmpRel8 rel s
  | .jmpRel32 rel => Sys2Proof.Machine.execJmpRel32 rel s
  | .joRel8 rel => Sys2Proof.Machine.execJoRel8 rel s
  | .jnoRel8 rel => Sys2Proof.Machine.execJnoRel8 rel s
  | .jbRel8 rel => Sys2Proof.Machine.execJbRel8 rel s
  | .jaeRel8 rel => Sys2Proof.Machine.execJaeRel8 rel s
  | .jeRel8 rel => Sys2Proof.Machine.execJeRel8 rel s
  | .jneRel8 rel => Sys2Proof.Machine.execJneRel8 rel s
  | .jbeRel8 rel => Sys2Proof.Machine.execJbeRel8 rel s
  | .jaRel8 rel => Sys2Proof.Machine.execJaRel8 rel s
  | .jsRel8 rel => Sys2Proof.Machine.execJsRel8 rel s
  | .jnsRel8 rel => Sys2Proof.Machine.execJnsRel8 rel s
  | .jpRel8 rel => Sys2Proof.Machine.execJpRel8 rel s
  | .jnpRel8 rel => Sys2Proof.Machine.execJnpRel8 rel s
  | .jlRel8 rel => Sys2Proof.Machine.execJlRel8 rel s
  | .jgeRel8 rel => Sys2Proof.Machine.execJgeRel8 rel s
  | .jleRel8 rel => Sys2Proof.Machine.execJleRel8 rel s
  | .jgRel8 rel => Sys2Proof.Machine.execJgRel8 rel s
  | .jecxzRel8 rel => Sys2Proof.Machine.execJecxzRel8 rel s
  | .callRel32 rel => Sys2Proof.Machine.execCallRel32 rel s
  | .ret => Sys2Proof.Machine.execRet s
  | .retImm16 imm => Sys2Proof.Machine.execRetImm16 imm s
  | .movR8Imm8 r imm => Sys2Proof.Machine.execMovR8Imm8 r imm s
  | .movRImm r imm => Sys2Proof.Machine.execMovRImm r imm s
  | .xchgEaxR r => Sys2Proof.Machine.execXchgEaxR r s
  | .pushR r => Sys2Proof.Machine.execPushR r s
  | .popR r => Sys2Proof.Machine.execPopR r s
  | .incR r => Sys2Proof.Machine.execIncR r s
  | .decR r => Sys2Proof.Machine.execDecR r s

end Sys2Proof.Machine
end

