-- ==== Sys2Proof/Machine/Events.lean ====
section
/-! DEFINITION. What happens between instructions (R411 to R413): the platform's inputs (R590), RESET (R571), INIT
(R573), SMM entry and exit (D20), and the acceptance of interrupts (R406, R412, R547). -/
namespace Sys2Proof.Machine

/-! ## RESET, INIT, SMM -/

/-- The pins keep their levels, whatever is pending goes (R571). -/
def Pending.pinsOnly (p : Pending) : Pending :=
  { Pending.reset with lint0 := p.lint0, lint1 := p.lint1, stpclk := p.stpclk, a20m := p.a20m, ignne := p.ignne,
                       intaVector := p.intaVector }

/-- RESET (R570, R571): every register at its reset value; memory is the platform's and stays; the caches are invalid, so
nothing is left to be written back: `memWb` becomes memory. The selection of the bootstrap processor, which R463 makes anew
after every RESET, gives the same role each time, the parameter `isBsp` (DESIGN CHOICE, log 35). -/
def State.afterReset (s : State) : State :=
  { State.resetWith s.cfg with
    mem := s.mem, memWb := s.mem, pend := s.pend.pinsOnly, bus := s.bus, inputs := s.inputs, free := s.free }

/-- CR0 after INIT: CD and NW stay, bit 4 is 1, the others 0 (R571). -/
def initCr0 (cr0 : Word) : Word := (cr0 &&& 0x60000000#32) ||| 0x10#32

/-- The BSP flag (R487). -/
def State.bspFlag (s : State) : Bool := s.msr.apicBase.getLsbD 8

/-- INIT (R573): the registers of R571's "after INIT" column; MSRs, floating-point state, memory and caches stay; the
local APIC as after reset but for its ID and arbitration ID (R553). An application processor waits for a SIPI. -/
def State.afterInit (s : State) : State :=
  let p := Proc.reset s.cfg.signature (initCr0 s.sys.cr0)
  { s with
    gpr := p.gpr, eip := p.eip, eflags := p.eflags, segs := p.segs, sys := p.sys
    apic := { Apic.reset s.apic.id s.apic.arbId with disabled := s.apic.disabled }
    tlb := []
    act := Activity.reset s.bspFlag
    pend := s.pend.pinsOnly
    ctx := InsnCtx.idle }

/-- A start-up IPI starts a waiting processor at 000VV000H (R465). -/
def State.startSipi (s : State) (v : Byte) : State :=
  { s with
    act := { s.act with waitSipi := false }
    pend := { s.pend with sipi := none }
    eip := 0#32
    segs := { s.segs with cs := { s.segs.cs with sel := v.setWidth 16 <<< 8, base := v.setWidth 32 <<< 12 } } }

/-- SMM entry (D20): the processor state is saved; a halt or an MWAIT wait ends (R378, R385). -/
def State.enterSmm (s : State) : State :=
  { s with
    smm := some ⟨s.gpr, s.eip, s.eflags, s.segs, s.sys⟩
    pend := { s.pend with smi := false }
    apic := s.apic.taken .smi
    act := { s.act with halted := false, mwaiting := false, monitor := none } }

/-- The host's `smm_leave` (D20): the saved processor state comes back, as with RSM (R390). -/
def State.leaveSmm (s : State) : State :=
  match s.smm with
  | some p => { s with gpr := p.gpr, eip := p.eip, eflags := p.eflags, segs := p.segs, sys := p.sys, smm := none }
  | none => s

/-! ## Inputs -/

/-- A LINT pin takes a new level (R508, R551). Only that is an edge, not a write to its LVT entry or the SVR that makes a steady
pin active (DESIGN CHOICE, log 41). -/
def lintInput (e : Lvt) (f : Pending → Pending) : M Unit := do
  let was := (← get).pinActive e
  modify fun s => { s with pend := f s.pend }
  lintEdge e was

/-- Records the errors a message on the APIC bus met (R513: bits 0 to 3 exist there only), each with an error interrupt of its
own (DESIGN CHOICE, log 41). -/
def busErrors (bits : BitVec 4) : M Unit :=
  modify fun s =>
    if s.apicOn && !s.isXapic then
      (List.range 4).foldl (fun t k => if bits.getLsbD k then t.apicError k else t) s
    else s

/-- One event of the platform (R590). -/
def applyInput (i : Input) : M Unit := do
  let s ← get
  match i with
  | .reset => set s.afterReset
  | .initPin => set s.postInit
  | .nmi => set s.postNmi
  | .smi => set s.postSmi
  | .smmLeave => set s.leaveSmm
  | .lint0 a v => lintInput .lint0 fun p => { p with lint0 := a, intaVector := v }
  | .lint1 a => lintInput .lint1 fun p => { p with lint1 := a }
  | .stpclk a => set { s with pend := { s.pend with stpclk := a } }
  | .a20m a =>
    let t := { s with pend := { s.pend with a20m := a } }
    set (if a != s.pend.a20m then disarm t else t)
  | .ignne a => set { s with pend := { s.pend with ignne := a } }
  | .message m => acceptMessage m
  | .msi addr data chosen => acceptMsi addr data chosen
  | .ipiAccepted => set { s with apic := { s.apic with busWait := false } }
  | .busError bits => busErrors bits
  | .thermal => if s.apicOn && s.cfg.family == .p4Xeon then localDeliver .thermal
  | .perfOverflow =>
    if s.apicOn && s.fromP6 then perfDeliver
  | .timerTick => timerTick
  | .tscTicks n => set { s with msr := { s.msr with tsc := s.msr.tsc + BitVec.ofNat 64 n } }
  | .store addr bytes => set (s.agentWrite (pairFrom addr bytes))
  | .mwaitWake => set (if s.act.mwaiting then disarm s else s)
  | .binit =>
    let t := disarm s
    set { t with act := { t.act with halted := false } }
  | .mcerr => set (disarm s)

/-- A list of events, in order. -/
def applyInputs : List Input → M Unit
  | [] => pure ()
  | i :: is => do
    applyInput i
    applyInputs is

/-- The interrupt request the local APIC asserts to the core follows the vector it offers; a request whose interrupt
has become masked stays asserted until it is acknowledged (R544, R547). -/
def State.updateIntr (s : State) : State :=
  if !s.apicOn then { s with apic := { s.apic with intr := none } }
  else match s.apic.offer with
    | some v => { s with apic := { s.apic with intr := some (BitVec.ofNat 8 v) } }
    | none => s

/-- An instruction boundary: the platform's next events, the local interrupts that are levels or wait for a slot, and
the APIC's request to the core. -/
def boundary : M Unit := do
  let s ← get
  match s.inputs with
  | [] => pure ()
  | is :: rest =>
    set { s with inputs := rest }
    applyInputs is
  pollLocal
  modify State.updateIntr

/-! ## Acceptance of interrupts -/

/-- The local APIC's request: the offered vector, or the spurious vector for a request that has become masked. -/
def State.apicRequest (s : State) : Option Request :=
  if !s.apicOn then none
  else match s.apic.offer, s.apic.intr with
    | some v, _ => some (.apic (BitVec.ofNat 8 v))
    | none, some _ => some .spurious
    | none, none => none

/-- A request is not held back for the return from a handler (R409, log 27). -/
def State.requestOpen (s : State) (r : Request) : Bool := !s.pend.held.any fun h => h.1 == .request r

/-- The maskable request (R412): the 8259A's or the local APIC's, unless it is held back. Both at once: a free choice
(log 20). -/
def State.maskableRequest (s : State) : Option Request :=
  let ext := s.intrLine && s.requestOpen .extInt
  match s.apicRequest.filter s.requestOpen with
  | none => if ext then some .extInt else none
  | some r => if ext && Config.freeBit s.free then some .extInt else some r

/-- The request accepted at this boundary (R408, R413): an NMI unless blocked or held back, a maskable one if IF = 1. The
shadow of a load of SS holds off both, that of STI maskable ones only (R407, over R413's pseudocode, log 31). -/
def State.request (s : State) : Option Request :=
  if s.pend.nmi && !s.pend.nmiBlocked && s.requestOpen .nmi && s.act.shadow != .ss then some .nmi
  else if s.eflags.intf && s.act.shadow == .none then s.maskableRequest
  else none

/-- The vector of a request (R406, R412, R547). -/
def State.requestVector (s : State) : Request → Byte
  | .nmi => 2#8
  | .extInt => s.pend.intaVector
  | .apic v => v
  | .spurious => s.apic.svr.setWidth 8

/-- The acknowledge of a request (R406, R412, R544, R547). -/
def State.acknowledge (s : State) : Request → State
  | .nmi => { s with pend := { s.pend with nmi := false, nmiBlocked := true }, apic := s.apic.taken .nmi }
  | .extInt => { s with pend := { s.pend with extInt := false }, apic := s.apic.taken .extInt, free := s.free + 1 }
  | .apic v => { s with apic := s.apic.dispense v.toNat, free := s.free + 1 }
  | .spurious => { s with apic := { s.apic with intr := none }, free := s.free + 1 }

/-- The request put back when its delivery met an exception: it is attempted again when that exception's handler returns
(R409, log 27). NMIs stay blocked; the request is held back until then. -/
def State.putBack (s s0 : State) (r : Request) : State :=
  { s with
    apic := s0.apic
    pend := { s0.pend with
      nmiBlocked := s.pend.nmiBlocked
      held := s0.pend.held ++ [(.request r, 0)] } }

/-- Delivers an event between instructions; an exception met while delivering it is taken instead, in a state where the
event is held for another attempt (R409). -/
def deliverOr (ev : Event) (held : State → State) (a : State) : Result :=
  match deliverOnce ev a with
  | .ok _ t => .next (awake ev.kind t)
  | .error (.raise e) t => takeException e (held (rollback a t))
  | .error (.trap e) t => takeTaskException e t
  | .error (.refuse r) _ => .refused r
  | .error (.fault f) _ => .fault f

/-- Takes an interrupt (R412, R413, R420). A shadow of STI in force stays so for the handler's first instruction: R413 ends
a shadow only where an instruction is executed (DEDUCED, log 31). -/
def takeInterrupt (r : Request) (s : State) : Result :=
  deliverOr ⟨s.requestVector r, .external, none, s.resumeHere⟩ (fun t => t.putBack s r) (s.acknowledge r)

/-- Attempts a held exception again, in the state its handler has returned to (R409, log 27). -/
def reattempt (v : Byte) (code : Option Word) (s : State) : Result :=
  deliverLoop deliverFuel true ⟨v, .exception, code, { s.resumeHere with rf := true }⟩
    { s with pend := { s.pend with reattempt := none } }

/-- Goes on with the delivery that the step before did not end (R409, log 42). -/
def goOn (ev : Event) (again : Bool) (s : State) : Result :=
  deliverLoop deliverFuel again ev { s with pend := { s.pend with delivering := none } }

/-! ## Debug traps -/

/-- The debug traps that wait (R431) are reported in DR6, BT and BS, and no longer wait. R408 puts the T-flag trap in class 2
and the single-step trap in class 4 and no rule merges them: that one #DB reports both where both wait is the model's choice
(DESIGN CHOICE, log 21). -/
def State.reportTraps (s : State) : State :=
  let dr6 := if s.pend.taskTrap then setBit s.sys.dr6 15 true else s.sys.dr6
  { s with
    sys := { s.sys with dr6 := if s.pend.stepTrap then setBit dr6 14 true else dr6 }
    pend := { s.pend with taskTrap := false, stepTrap := false } }

/-- Debug traps whose delivery met an exception wait for the return from its handler (R409, log 27). -/
def State.holdTraps (s : State) (p : Pending) : State :=
  { s with pend := { s.pend with
      held := s.pend.held ++ (if p.taskTrap then [(.taskTrap, 0)] else []) ++
        if p.stepTrap then [(.stepTrap, 0)] else [] } }

/-- Takes the debug traps that wait: #DB in the state reached (R413, R431). The T-flag trap and the single-step trap that
wait together are one #DB (DESIGN CHOICE, log 21). -/
def takeDebugTrap (s : State) : Result :=
  deliverOr (Exc.db.event s) (fun t => t.holdTraps s.pend) s.reportTraps

/-- A debug trap can be taken at this boundary: it does not fall within the shadow of a load of SS (R229). -/
def State.trapsOpen (s : State) : Bool := s.act.shadow != .ss

/-- No instruction executes: SMM belongs to the host (D20), STPCLK# holds the processor (R470; an application
processor of the P6 family does not respond to it, R552). -/
def State.stopped (s : State) : Bool :=
  s.smm.isSome || (s.pend.stpclk && (s.cfg.family != .p6 || s.bspFlag))

/-- The processor executes no instruction at this boundary (R413, R457). -/
def State.idle (s : State) : Bool := s.act.halted || s.act.shutdown || s.act.mwaiting

end Sys2Proof.Machine
end

