-- ==== Sys2Proof/Machine/Fetch.lean ====
section
/-! DEFINITION. Fetching and decoding an instruction (R201, R207, R408), running its items, and what surrounds an
instruction in a step (R413). -/
namespace Sys2Proof.Machine

/-- Some bytes of the instruction stream from their physical addresses; the local APIC page is no memory to fetch
from (R484). -/
def fetchBytes (pas : List Nat) : M (List Byte) := do
  let s ← get
  if pas.any s.inApic then throw (.fault .apicFetch)
  return pas.map s.physByte

/-- The linear address of the instruction pointer (R130, R23, D5). -/
def State.fetchLin (s : State) : Word := s.segs.cs.base + s.eipMask s.eip

/-- How many bytes of the instruction stream lie within the CS limit, at most 15 (R141, R201). -/
def State.fetchRoom (s : State) : Nat :=
  ((List.range maxLen).takeWhile fun k => s.segs.cs.limitOk (s.eipMask s.eip) (k + 1)).length

/-- Whether the implementation has the extension an opcode came with (R436). The x87 unit is always there. -/
def fpuPresent (c : Config.Params) : FpuClass → Bool
  | .x87 | .wait => true
  | .mmx => c.hasMmx
  | .sse => c.hasSse
  | .sse2 => c.hasSse2
  | .sse3 => c.hasSse3

/-- The #NM condition of a floating-point or SIMD opcode (R437). -/
def fpuNotAvailable (s : State) : FpuClass → Bool
  | .x87 => bit s.sys.cr0 2 || bit s.sys.cr0 3
  | .wait => bit s.sys.cr0 1 && bit s.sys.cr0 3
  | _ => bit s.sys.cr0 3

/-- The #UD condition of a floating-point or SIMD opcode (R436): the extension is absent, CR0.EM = 1, or CR4.OSFXSR = 0 for
the SSE family. -/
def fpuInvalid (s : State) (k : FpuClass) : Bool :=
  !fpuPresent s.cfg k || match k with
    | .x87 | .wait => false
    | .mmx => bit s.sys.cr0 2
    | _ => bit s.sys.cr0 2 || !bit s.sys.cr4 9

/-- The exceptions of a floating-point or SIMD opcode: #UD for a LOCK prefix (R351; before the others by DESIGN CHOICE, log
17), then #NM (R437, first by R212), then #UD (R436); past them the opcode is refused (R212, D4). -/
def fpuOpcode {α : Type} (k : FpuClass) (lock : Bool) : M α := do
  let s ← get
  require (!lock) .ud
  require (!fpuNotAvailable s k) .nm
  require (!fpuInvalid s k) .ud
  refuse .fpuSimd

/-- Fetches and decodes the instruction at CS:EIP: its items and its length (R207). The page after the one EIP points
into is read only if the instruction reaches it. Beyond the CS limit or 15 bytes: #GP(0) (R201, R408). -/
def fetchInsn : M (List Instr × Nat) := do
  let s ← get
  let room := s.fetchRoom
  require (room != 0) (.gp 0#16)
  let user := s.cpl == 3
  let lin := s.fetchLin
  let n1 := min room (4096 - lin.toNat % 4096)
  let p1 ← translate lin .exec user
  let b1 ← fetchBytes (addrsFrom p1 n1)
  match decodeInsn s.segs.cs.attr.db b1 with
  | .items is len => return (is, len)
  | .invalid => raise .ud
  | .fpu k lock => fpuOpcode k lock
  | .needMore =>
    require (n1 != room) (.gp 0#16)
    let p2 ← translate (lin + BitVec.ofNat 32 n1) .exec user
    let b2 ← fetchBytes (addrsFrom p2 (room - n1))
    match decodeInsn s.segs.cs.attr.db (b1 ++ b2) with
    | .items is len => return (is, len)
    | .invalid => raise .ud
    | .fpu k lock => fpuOpcode k lock
    | .needMore => gp0

/-- The state an instruction of some length starts in: no prefix read yet, the next instruction pointer known, EIP cut to
IP in a 16-bit segment (R23). -/
def beginInsn (len : Nat) (s : State) : State :=
  { s with eip := s.eipMask s.eip, ctx := ⟨s.eipMask (s.eip + BitVec.ofNat 32 len), Pfx.none, false⟩ }

/-- Runs the prefixes and the instruction they precede. -/
def runItems : List Instr → State → Result
  | [], s => .next s
  | i :: is, s =>
    match exec i s with
    | .next t => runItems is t
    | .fault f => .fault f
    | .refused r => .refused r

/-- Whether the instruction that begins in a state is single-stepped (R431), if the model implements that (D15). -/
def State.stepping (s : State) : Bool := s.eflags.tf && s.cfg.modelTf

/-- A single-stepped instruction that completed leaves a trap for the next boundary (R413, R431). One that ended in an
exception has not completed. -/
def singleStep (stepping : Bool) : Result → Result
  | .next t => .next (if stepping && !t.ctx.delivered then { t with pend := { t.pend with stepTrap := true } } else t)
  | r => r

/-- Fetches, decodes and executes one instruction (R413); virtual-8086 mode is refused (R21, D2). -/
def runInstruction (s : State) : Result :=
  if s.v86 then .refused .virtual8086
  else match fetchInsn s with
    | .ok (is, len) t => singleStep s.stepping (runItems is (beginInsn len t))
    | .error (.raise e) t => takeException e (rollback s t)
    | .error (.trap e) t => takeTaskException e t
    | .error (.refuse r) _ => .refused r
    | .error (.fault f) _ => .fault f

/-- The interrupt shadow lasts one boundary (R413). -/
def State.clearShadow (s : State) : State := { s with act := { s.act with shadow := .none } }

/-- The part of a step after the events of its boundary, in the order of R408 and R413: a delivery that goes on (log 42),
wait-for-SIPI, an exception attempted again (log 27), the trap of a task switch, INIT, SMI, STPCLK#, the single-step trap,
interrupts, a state that executes nothing, an instruction. A single-step trap that waits together with the trap of a task
switch is taken with it, at its place, so before INIT and SMI (DESIGN CHOICE, log 21). -/
def afterBoundary (s : State) : Result :=
  if let some (ev, again) := s.pend.delivering then goOn ev again s
  else if s.act.waitSipi then
    match s.pend.sipi with
    | some v => .next (s.startSipi v)
    | none => .next s
  else if let some (v, code) := s.pend.reattempt then reattempt v code s
  else if s.pend.taskTrap && s.trapsOpen && s.smm.isNone then takeDebugTrap s
  else if s.pend.init && s.smm.isNone then .next s.afterInit
  else if s.pend.smi && s.smm.isNone then .next s.enterSmm
  else if s.stopped then .next s
  else if s.pend.stepTrap && s.trapsOpen then takeDebugTrap s
  else match s.request with
    | some r => takeInterrupt r s
    | none => if s.idle then .next s.clearShadow else runInstruction s.clearShadow

/-- The physical addresses the next instruction is fetched from, as many as the longest instruction has bytes. -/
def State.fetchAddrs (s : State) : List Nat :=
  match linAddrs s.fetchLin maxLen .exec (s.cpl == 3) s with
  | .ok pas _ => pas
  | .error _ _ => []

/-- Bytes placed in memory, as if loaded from outside. -/
def State.place (s : State) (ws : List (Nat × Byte)) : State :=
  { s with mem := s.mem.writes ws, memWb := s.memWb.writes ws }

end Sys2Proof.Machine
end

