-- ==== Sys2Proof/Machine/Step.lean ====
section
/-! DEFINITION. One step of the machine (R413), and where a step fetches its next instruction. -/
namespace Sys2Proof.Machine

/-- One step (R413): the events of the boundary, then what follows from them. -/
def step (s : State) : Host.Outcome State Fault Refusal :=
  match boundary s with
  | .ok _ t => afterBoundary t
  | .error (.raise e) t => takeException e t
  | .error (.trap e) t => takeTaskException e t
  | .error (.refuse r) _ => .refused r
  | .error (.fault f) _ => .fault f

/-- The state with an instruction of the opcode table where the next step fetches: its bits as
spec/opcode_table.json numbers them, 0 above `nbits`. -/
def State.withFetchWord (s : State) (nbits w : Nat) : State :=
  s.place (s.fetchAddrs.zip (leBytes maxLen (w % 2 ^ nbits)))

end Sys2Proof.Machine
end

