-- ==== Sys2Proof/Safety.lean ====
section
/-! DEFINITION. The terms statements about the machine use: plain memory operands and their values, where an
instruction leaves the instruction pointer, which bytes of memory stay, what a safe run is. -/
namespace Sys2Proof.Machine

/-! ## Runs -/

/-- A run of a number of steps meets no fault and no refusal. -/
def SafeRun : Nat → State → Prop
  | 0, _ => True
  | n + 1, s => ∃ t, step s = .next t ∧ SafeRun n t

/-! ## Plain memory -/

/-- Physical addresses outside the local APIC's register page (R484). -/
def State.plain (s : State) (pas : List Nat) : Prop := pas.any s.inApic = false

/-- The little-endian number at physical addresses (R83). -/
def State.valueAt (s : State) (pas : List Nat) : Nat := leNat (pas.map s.physByte)

/-- The state after a little-endian number is stored at physical addresses (R83). -/
def State.storeAt (s : State) (pas : List Nat) (v : Nat) : State := s.physWrite (pas.zip (leBytes pas.length v))

/-- A place is a register or plain memory. -/
def Place.plain (s : State) : Place → Prop
  | .mem pas => s.plain pas
  | _ => True

/-- The value of a plain place. -/
def Place.value (s : State) : Place → Word
  | .reg z r => s.gpr.read z r
  | .reg8 r => s.gpr.read8 r
  | .mem pas => BitVec.ofNat 32 (s.valueAt pas)

/-- The state after a value is written to a plain place. -/
def Place.put (s : State) (v : Word) : Place → State
  | .reg z r => s.setReg z r v
  | .reg8 r => s.setReg8 r v
  | .mem pas => s.storeAt pas v.toNat

/-- The physical addresses a place occupies. -/
def Place.bytes : Place → List Nat
  | .mem pas => pas
  | _ => []

/-- Whether a place is in memory. -/
def Place.isMem : Place → Bool
  | .mem _ => true
  | _ => false

/-- EFLAGS replaced. -/
def State.withFlags (s : State) (f : Eflags) : State := { s with eflags := f }

/-- ESP replaced. -/
def State.withEsp (s : State) (v : Word) : State := { s with gpr := { s.gpr with esp := v } }

/-- The free-value counter moved on by `n` uses. -/
def State.used (s : State) (n : Nat) : State := { s with free := s.free + n }

/-! ## Where an instruction ends -/

/-- An instruction is complete at an offset of its code segment; RF is cleared (R24). -/
def State.goto (s : State) (target : Word) : State :=
  { s with eip := target, eflags := { s.eflags with rf := false } }

/-- An instruction is complete at the next one (R23). -/
def State.done (s : State) : State := s.goto s.ctx.nextEip

/-! ## Frames -/

/-- The update of a page entry that a page walk makes (R172): bits 5 and 6 (accessed, dirty) of the entry's first byte may
have been set, nothing else changed. -/
def AdSet (s t : State) (a : Nat) : Prop :=
  s.pg = true ∧ a % 4 = 0 ∧ t.physByte a = s.physByte a ||| (t.physByte a &&& 0x60#8)

/-- Every byte of memory outside the given addresses is as before, but for the accessed and dirty flags that a page walk
sets while paging is on. -/
def MemFrame (s t : State) (pas : List Nat) : Prop :=
  ∀ a, a ∉ pas → t.physByte a = s.physByte a ∨ AdSet s t a

/-- The address checks of an instruction changed nothing but what the walk of page tables changes: accessed and dirty flags
in memory, the TLB, the free-value counter, and a monitor that a page entry's update disarms; and nothing at all with
paging off. -/
structure SameButWalk (s t : State) : Prop where
  /-- The fields a walk changes -/
  fields : t = { s with mem := t.mem, tlb := t.tlb, free := t.free, act := t.act }
  /-- The activity state stays, or the monitor is disarmed (R385) -/
  act : t.act = s.act ∨ t.act = (disarm s).act
  /-- Memory stays, but for accessed and dirty flags (R172) -/
  mem : MemFrame s t []
  /-- Without paging there is no walk (R165) -/
  off : s.pg = false → t = s

/-- An instruction completes: it answers `t`; its address checks lead from `s` to `s1`; memory is as before outside
the bytes given. -/
def Completes (i : Instr) (s s1 t : State) (bytes : List Nat) : Prop :=
  exec i s = .next t ∧ SameButWalk s s1 ∧ MemFrame s t bytes

/-- A LOCK prefix is absent, or allowed (R351). -/
def State.lockOk (s : State) (lockable : Bool) : Prop := (!s.locked || lockable) = true

/-! ## Descriptors in memory -/

/-- The descriptor a selector names lies within its table and in plain memory, can be read, and is `d` (R131); the
reading leads to `s1`. -/
def DescAt (s : State) (sel : Half) (d : Desc) (s1 : State) : Prop :=
  ∃ lin pas, s.descAddr sel = some lin ∧ linAddrs lin 8 .read false s = .ok pas s1 ∧ s1.plain pas ∧
    d = ⟨BitVec.ofNat 32 (s1.valueAt pas), BitVec.ofNat 32 (s1.valueAt pas / 2 ^ 32)⟩

/-- The accessed flag of a code or data descriptor is set (R144): it was set before, or the byte of the descriptor that
holds its type, at `bytes`, is written with the flag set. `d1` is the descriptor after that. -/
def Accessed (s : State) (sel : Half) (d d1 : Desc) (bytes : List Nat) (s1 : State) : Prop :=
  (d.typ.testBit 0 = true ∧ d1 = d ∧ bytes = [] ∧ s1 = s) ∨
  (d.typ.testBit 0 = false ∧ d1 = { d with hi := d.hi ||| 0x100#32 } ∧
    ∃ lin t, s.descAddr sel = some lin ∧ linAddrs (lin + 5#32) 1 .write false s = .ok bytes t ∧ t.plain bytes ∧
      s1 = t.storeAt bytes (d1.hi.toNat / 256 % 256))

/-- The number in `n` bytes of plain memory at a linear address, read as an implicit system access (R12), is `v`. -/
def SysItem (s : State) (lin : Word) (n v : Nat) (s1 : State) : Prop :=
  ∃ pas, linAddrs lin n .read false s = .ok pas s1 ∧ s1.plain pas ∧ v = s1.valueAt pas

/-- A segment register loads a selector (R143): its new contents, the byte of memory that takes an accessed flag, the
state after the checks. -/
inductive SegLoads (s : State) (x : Seg) (sel : Half) : SegReg → List Nat → State → Prop where
  /-- real-address mode: the base is the selector times 16 -/
  | real : s.prot = false →
      SegLoads s x sel { s.segs.get x with sel := sel, base := sel.setWidth 32 <<< 4 } [] s
  /-- a null selector in DS, ES, FS or GS -/
  | null : s.prot = true → x ≠ .ss → isNull sel = true → SegLoads s x sel { s.segs.get x with sel := sel } [] s
  /-- data or readable code in DS, ES, FS or GS, the privilege checked unless it is conforming code -/
  | data (d d1 : Desc) (bytes : List Nat) (s1 s2 : State) : s.prot = true → x ≠ .ss → isNull sel = false →
      DescAt s sel d s1 → d.isReadable = true → (d.conforming = true ∨ s.cpl ≤ d.dpl ∧ rpl sel ≤ d.dpl) →
      d.p = true → Accessed s1 sel d d1 bytes s2 → SegLoads s x sel (d1.toSegReg sel) bytes s2
  /-- writable data of the current privilege level in SS -/
  | stack (d d1 : Desc) (bytes : List Nat) (s1 s2 : State) : s.prot = true → x = .ss → isNull sel = false →
      DescAt s sel d s1 → rpl sel = s.cpl → d.isWritable = true → d.dpl = s.cpl →
      d.p = true → Accessed s1 sel d d1 bytes s2 → SegLoads s x sel (d1.toSegReg sel) bytes s2

/-! ## The stack -/

/-- The item of a width `k` bytes above the stack pointer can be read, at the addresses `pas` (R607). -/
def StackPlace (s : State) (z : Sz) (k : Nat) (pas : List Nat) (s1 : State) : Prop :=
  dataAddrs .ss (s.segs.ss.stackOff (s.segs.ss.stackMove s.gpr.esp k)) z.bytes z.bytes .read s = .ok pas s1

/-- The item of a width `k` bytes above the stack pointer lies in plain memory, can be read, and is `v` (R607). -/
def StackItem (s : State) (z : Sz) (k : Nat) (v : Word) (s1 : State) : Prop :=
  ∃ pas, StackPlace s z k pas s1 ∧ s1.plain pas ∧ v = BitVec.ofNat 32 (s1.valueAt pas)

/-- The state after values are stored in turn, each at its physical addresses. -/
def State.storeAll : State → List (List Nat) → List Word → State
  | s, pas :: ps, v :: vs => (s.storeAt pas v.toNat).storeAll ps vs
  | s, _, _ => s

/-- The state after items are copied in turn from places to places: each as the copies before it left it. -/
def State.copyAll : State → List (List Nat) → List (List Nat) → State
  | s, p :: ps, q :: qs => (s.storeAt q (s.valueAt p)).copyAll ps qs
  | s, _, _ => s

/-- Each of some places is in plain memory. -/
def State.plains (s : State) (ps : List (List Nat)) : Prop := ∀ pas ∈ ps, s.plain pas

/-- The pointer to the stack of a privilege level in the current TSS (R286 step 2, R322, R334). -/
def TssPointer (s : State) (cpl : Nat) (ssSel : Half) (esp : Word) (s2 : State) : Prop :=
  ∃ e ss s1, esp = BitVec.ofNat 32 e ∧ ssSel = BitVec.ofNat 16 ss ∧
    if s.sys.tr.attr.typ.getLsbD 3 then
      8 * cpl + 9 ≤ s.sys.tr.limit.toNat ∧ SysItem s (s.sys.tr.base + BitVec.ofNat 32 (8 * cpl + 4)) 4 e s1 ∧
        SysItem s1 (s.sys.tr.base + BitVec.ofNat 32 (8 * cpl + 8)) 2 ss s2
    else
      4 * cpl + 5 ≤ s.sys.tr.limit.toNat ∧ SysItem s (s.sys.tr.base + BitVec.ofNat 32 (4 * cpl + 2)) 2 e s1 ∧
        SysItem s1 (s.sys.tr.base + BitVec.ofNat 32 (4 * cpl + 4)) 2 ss s2

/-- A selector names a stack segment for a privilege level (R286 steps 2 and 3, R290 step 4). -/
def StackSegment (s : State) (sel : Half) (cpl : Nat) (r : SegReg) (bytes : List Nat) (s2 : State) : Prop :=
  ∃ d d1 s1, isNull sel = false ∧ DescAt s sel d s1 ∧ rpl sel = cpl ∧ d.dpl = cpl ∧ d.isWritable = true ∧
    d.p = true ∧ Accessed s1 sel d d1 bytes s2 ∧ r = d1.toSegReg sel

/-! ## Far transfers -/

/-- The far pointer at a memory operand (R205, R93): the offset of operand size, then the selector. -/
def FarPtr (s : State) (m : Mem) (sel : Half) (off : Word) (s1 : State) : Prop :=
  ∃ p, memAddrs m (s.osz.bytes + 2) (if s.osz == .d then 4 else 2) .read s = .ok p s1 ∧ s1.plain p ∧
    off = BitVec.ofNat 32 (s1.valueAt (p.take s.osz.bytes)) ∧ sel = BitVec.ofNat 16 (s1.valueAt (p.drop s.osz.bytes))

/-- A far JMP or CALL reaches a code segment without a change of privilege level: directly (R282), or through a call
gate (R284, R285). The selector, the descriptor, the offset, and the width of a CALL's pushes. -/
inductive CodeTarget (s : State) (sel : Half) (off : Word) : Half → Desc → Word → Sz → State → Prop where
  /-- the selector names a code segment -/
  | direct (d : Desc) (s1 : State) : isNull sel = false → DescAt s sel d s1 → d.isCode = true →
      (if d.conforming then d.dpl ≤ s.cpl else rpl sel ≤ s.cpl ∧ d.dpl = s.cpl) → d.p = true →
      off.toNat ≤ d.limit → CodeTarget s sel off sel d off s.osz s1
  /-- the selector names a call gate; the offset of the instruction is not used -/
  | gate (g d : Desc) (s1 s2 : State) : isNull sel = false → DescAt s sel g s1 →
      (g.isSys 4 = true ∨ g.isSys 12 = true) → s.cpl ≤ g.dpl → rpl sel ≤ g.dpl → g.p = true →
      isNull g.gateSel = false → DescAt s1 g.gateSel d s2 → d.isCode = true →
      (if d.conforming then d.dpl ≤ s.cpl else d.dpl = s.cpl) → d.p = true →
      CodeTarget s sel off g.gateSel d g.gateOff (if g.isSys 12 then .d else .w) s2

/-- An offset as the instruction pointer of a code segment: 16 bits of it where D = 0 (R23). -/
def Desc.entry (d : Desc) (off : Word) : Word := if bit d.hi 22 then off else off &&& 0xFFFF#32

/-- A far JMP that stays in its task (R282, R288, R570): the state after it and the byte that takes an accessed flag. -/
inductive FarJumps (s : State) (sel : Half) (off : Word) : State → List Nat → Prop where
  /-- real-address mode -/
  | real : s.pe = false → s.segs.cs.limitOk off 1 = true →
      FarJumps s sel off
        ((s.setSeg .cs { s.segs.cs with sel := sel, base := sel.setWidth 32 <<< 4 }).goto (s.eipMask off)) []
  /-- protected mode; CS takes the current privilege level (R145) -/
  | prot (cs : Half) (d d1 : Desc) (o : Word) (z : Sz) (bytes : List Nat) (s1 s2 : State) : s.prot = true →
      CodeTarget s sel off cs d o z s1 → Accessed s1 cs d d1 bytes s2 →
      FarJumps s sel off ((s2.setSeg .cs (d1.toSegReg (withRpl cs s.cpl))).goto (d.entry o)) bytes

/-- The places of a call gate's parameters on the caller's stack, the highest first (R286 step 7, R287), and of their copies
at given linear addresses of the new stack. -/
inductive Copies (z : Sz) : List Word → State → List (List Nat) → List (List Nat) → State → Prop where
  | none (s : State) : Copies z [] s [] [] s
  | more (lin : Word) (lins : List Word) (p q : List Nat) (ps qs : List (List Nat)) (s s1 s2 s3 : State) :
      StackPlace s z (z.bytes * lins.length) p s1 → linAddrs lin z.bytes .write false s1 = .ok q s2 →
      Copies z lins s2 ps qs s3 → Copies z (lin :: lins) s (p :: ps) (q :: qs) s3

/-- A far CALL that stays in its task (R283 to R287, R570): the state after it, but for the monitor, and the bytes it
stores to. -/
inductive FarCalls (s : State) (sel : Half) (off : Word) : State → List Nat → Prop where
  /-- real-address mode -/
  | real (p q : List Nat) (esp : Word) (s1 : State) : s.pe = false → s.segs.cs.limitOk off 1 = true →
      pushPlaces s.segs.ss (.ss 0#16) false s.osz 2 s.gpr.esp s = .ok ([p, q], esp) s1 → s1.plains [p, q] →
      FarCalls s sel off
        ((((s1.storeAll [p, q] [s.segs.cs.sel.setWidth 32, s.ctx.nextEip]).withEsp esp).setSeg .cs
          { s.segs.cs with sel := sel, base := sel.setWidth 32 <<< 4 }).goto (s.eipMask off)) (p ++ q)
  /-- protected mode, on the same stack: CS and EIP are pushed -/
  | same (cs : Half) (d d1 : Desc) (o : Word) (z : Sz) (p q bytes : List Nat) (esp : Word) (s1 s2 s3 : State) :
      s.prot = true → CodeTarget s sel off cs d o z s1 →
      pushPlaces s.segs.ss (.ss 0#16) (s.cpl == 3) z 2 s.gpr.esp s1 = .ok ([p, q], esp) s2 →
      Accessed s2 cs d d1 bytes s3 → s3.plains [p, q] →
      FarCalls s sel off
        ((((s3.storeAll [p, q] [s.segs.cs.sel.setWidth 32, s.ctx.nextEip]).withEsp esp).setSeg .cs
          (d1.toSegReg (withRpl cs s.cpl))).goto (d.entry o)) (p ++ q ++ bytes)
  /-- protected mode, through a call gate to a more privileged level: the stack of that level takes SS and ESP, then the
  parameters, each as the stores before it left it, then CS and EIP; its segment has room for all of them -/
  | inner (g d d1 : Desc) (ssSel : Half) (esp0 esp : Word) (ss : SegReg) (lins : List Word)
      (ps1 params ps2 ps3 : List (List Nat)) (z : Sz) (n : Nat) (b1 b2 : List Nat) (s1 s2 s3 s4 s5 s6 s7 s8 : State) :
      s.prot = true → isNull sel = false → DescAt s sel g s1 → (g.isSys 4 = true ∨ g.isSys 12 = true) →
      s.cpl ≤ g.dpl → rpl sel ≤ g.dpl → g.p = true → isNull g.gateSel = false → DescAt s1 g.gateSel d s2 →
      d.isCode = true → d.conforming = false → d.dpl < s.cpl → d.p = true →
      z = (if g.isSys 12 then .d else .w) → n = g.hi.toNat % 32 →
      TssPointer s2 d.dpl ssSel esp0 s3 → StackSegment s3 ssSel d.dpl ss b1 s4 →
      pushLins ss (.ss (selCode ssSel false)) z (n + 4) esp0 s4 = .ok (lins, esp) s4 →
      pushPas false z (lins.take 2) s4 = .ok ps1 s5 → Copies z ((lins.drop 2).take n) s5 params ps2 s6 →
      pushPas false z (lins.drop (n + 2)) s6 = .ok ps3 s7 →
      Accessed s7 g.gateSel d d1 b2 s8 → s8.plains (ps1 ++ params ++ ps2 ++ ps3) →
      FarCalls s sel off
        (((((((s8.storeAll ps1 [s.segs.ss.sel.setWidth 32, s.gpr.esp]).copyAll params ps2).storeAll ps3
          [s.segs.cs.sel.setWidth 32, s.ctx.nextEip]).setSeg .ss ss).setSeg .cs
          (d1.toSegReg (withRpl g.gateSel d.dpl))).withEsp esp).goto (d.entry g.gateOff))
        ((ps1 ++ ps2 ++ ps3).flatten ++ b1 ++ b2)

/-- A data-segment register on a return to an outer level (R290 step 6): too privileged a data or nonconforming code
segment is given up for the null selector; a null selector stays. -/
def SegReg.kept (r : SegReg) (cpl : Nat) : SegReg :=
  if isNull r.sel = false ∧ r.attr.dpl.toNat < cpl ∧ ¬ (r.isCode = true ∧ r.attr.typ.getLsbD 2 = true) then
    { r with sel := 0#16 }
  else r

/-- A far return (R289, R290, R296): `k` items of the operand size lie at the stack pointer before an outer stack's ESP and
SS, `n` further bytes are released; `more` says what else is popped after EIP and CS (IRET's EFLAGS). The state after it
but for EFLAGS, and the bytes that take an accessed flag. -/
inductive FarReturns (s : State) (more : State → State → Prop) (z : Sz) (k n : Nat) : State → List Nat → Prop where
  /-- real-address mode -/
  | real (off cs : Word) (s1 s2 s3 : State) : s.pe = false → StackItem s z 0 off s1 → StackItem s1 z z.bytes cs s2 →
      more s2 s3 → s.segs.cs.limitOk off 1 = true →
      FarReturns s more z k n
        { (s3.withEsp (s.popped (k * z.bytes + n))).setSeg .cs
          { s.segs.cs with sel := cs.setWidth 16, base := (cs.setWidth 16).setWidth 32 <<< 4 } with eip := s.eipMask off } []
  /-- protected mode, to the same level -/
  | same (off cs : Word) (d d1 : Desc) (bytes : List Nat) (s1 s2 s2' s3 s4 : State) : s.prot = true →
      StackItem s z 0 off s1 → StackItem s1 z z.bytes cs s2 → more s2 s2' → isNull (cs.setWidth 16) = false →
      DescAt s2' (cs.setWidth 16) d s3 → d.isCode = true → rpl (cs.setWidth 16) = s.cpl →
      (if d.conforming then d.dpl ≤ s.cpl else d.dpl = s.cpl) → d.p = true → off.toNat ≤ d.limit →
      Accessed s3 (cs.setWidth 16) d d1 bytes s4 →
      FarReturns s more z k n
        { (s4.withEsp (s.popped (k * z.bytes + n))).setSeg .cs (d1.toSegReg (withRpl (cs.setWidth 16) s.cpl)) with
          eip := d.entry off } bytes
  /-- protected mode, to an outer level: SS and ESP come from the stack, data segments of inner levels are given up -/
  | outer (off cs esp ssw : Word) (d d1 : Desc) (ss : SegReg) (cpl : Nat) (b1 b2 : List Nat)
      (s1 s2 s2' s3 s4 s5 s6 s7 : State) : s.prot = true →
      StackItem s z 0 off s1 → StackItem s1 z z.bytes cs s2 → more s2 s2' → isNull (cs.setWidth 16) = false →
      DescAt s2' (cs.setWidth 16) d s3 → d.isCode = true → cpl = rpl (cs.setWidth 16) → s.cpl < cpl →
      (if d.conforming then d.dpl ≤ cpl else d.dpl = cpl) → d.p = true → off.toNat ≤ d.limit →
      StackItem s3 z (k * z.bytes + n) esp s4 → StackItem s4 z (k * z.bytes + n + z.bytes) ssw s5 →
      StackSegment s5 (ssw.setWidth 16) cpl ss b1 s6 → Accessed s6 (cs.setWidth 16) d d1 b2 s7 →
      FarReturns s more z k n
        { s7 with
          gpr := { s.gpr with esp := ss.stackMove esp n }
          eip := d.entry off
          segs := { s.segs with
            ss := ss
            cs := d1.toSegReg (withRpl (cs.setWidth 16) cpl)
            ds := s.segs.ds.kept cpl
            es := s.segs.es.kept cpl
            fs := s.segs.fs.kept cpl
            gs := s.segs.gs.kept cpl } } (b1 ++ b2)

/-! ## Task switches -/

/-- What the bytes of a TSS say (R322, R334): a 16-bit TSS has no FS, GS, CR3 and T flag, and its registers' upper halves
are 0. -/
def taskImage (is32 : Bool) (s : State) (pas : List Nat) : TssImage :=
  let w (k : Nat) : Word := BitVec.ofNat 32 (s.valueAt ((pas.drop k).take (if is32 then 4 else 2)))
  let h (k : Nat) : Half := BitVec.ofNat 16 (s.valueAt ((pas.drop k).take 2))
  if is32 then
    { cr3 := w 28, eip := w 32, flags := w 36, gpr := ⟨w 40, w 44, w 48, w 52, w 56, w 60, w 64, w 68⟩
      es := h 72, cs := h 76, ss := h 80, ds := h 84, fs := h 88, gs := h 92, ldt := h 96
      trap := (s.valueAt ((pas.drop 100).take 1)).testBit 0 }
  else
    { cr3 := s.sys.cr3, eip := w 14, flags := w 16, gpr := ⟨w 18, w 20, w 22, w 24, w 26, w 28, w 30, w 32⟩
      es := h 34, cs := h 36, ss := h 38, ds := h 40, fs := 0#16, gs := 0#16, ldt := h 42, trap := false }

/-- The dynamic fields of a TSS that take the state of a suspended task (R322, R326 step 8, R334): offset, width, value. -/
def savedFields (is32 : Bool) (s : State) (p : Resume) (flags : Word) : List (Nat × Nat × Nat) :=
  let g := s.gpr
  let r (x : SegReg) : Nat := x.sel.toNat
  if is32 then
    [(32, 4, p.eip.toNat), (36, 4, flags.toNat), (40, 4, g.eax.toNat), (44, 4, g.ecx.toNat), (48, 4, g.edx.toNat),
      (52, 4, g.ebx.toNat), (56, 4, g.esp.toNat), (60, 4, g.ebp.toNat), (64, 4, g.esi.toNat), (68, 4, g.edi.toNat),
      (72, 2, r s.segs.es), (76, 2, p.cs.toNat), (80, 2, r s.segs.ss), (84, 2, r s.segs.ds), (88, 2, r s.segs.fs),
      (92, 2, r s.segs.gs)]
  else
    [(14, 2, p.eip.toNat), (16, 2, flags.toNat), (18, 2, g.eax.toNat), (20, 2, g.ecx.toNat), (22, 2, g.edx.toNat),
      (24, 2, g.ebx.toNat), (26, 2, g.esp.toNat), (28, 2, g.ebp.toNat), (30, 2, g.esi.toNat), (32, 2, g.edi.toNat),
      (34, 2, r s.segs.es), (36, 2, p.cs.toNat), (38, 2, r s.segs.ss), (40, 2, r s.segs.ds)]

/-- The state after fields of a TSS are stored in turn; `pas` are the addresses of its bytes from offset `first` on. -/
def State.storeFields (s : State) (pas : List Nat) (first : Nat) : List (Nat × Nat × Nat) → State
  | [] => s
  | (k, n, v) :: fs => (s.storeAt ((pas.drop (k - first)).take n) v).storeFields pas first fs

/-- A register whose descriptor is not loaded: its hidden part is any value (U14; log 23). -/
def anySeg (sel : Half) (k : Nat) : SegReg :=
  let a := Config.freeWord (k + 2)
  { sel := sel, base := Config.freeWord k, limit := Config.freeWord (k + 1)
    attr := { typ := a.extractLsb' 0 4, s := bit a 4, dpl := a.extractLsb' 5 2, p := bit a 7, avl := bit a 8,
              db := bit a 9, g := bit a 10 } }

/-- The new task's state before its descriptors are loaded (R326 steps 9 and 12, R330): registers, flags and selectors come
from its TSS, NT is set for a CALL or an event, whose task returns before the handlers for which events are held (R409,
log 27), CR3 is loaded with paging on, which drops the TLB's non-global entries, and
CR0.TS is set. -/
def State.taskLoaded (s : State) (nest : Bool) (im : TssImage) (pd : Option (List Quad)) : State :=
  let cr3 := if s.pg then im.cr3 else s.sys.cr3
  let sys := match pd with
    | some es => s.sys.setPdptes es
    | none => s.sys
  let f := Eflags.ofWord im.flags
  let k := s.free
  { disarm s with
    pend := { s.pend with held := if nest then s.pend.held.map fun h => (h.1, h.2 + 1) else s.pend.held }
    gpr := im.gpr
    eip := im.eip
    eflags := { f with nt := f.nt || nest }
    segs := { es := anySeg im.es k, cs := anySeg im.cs (k + 3), ss := anySeg im.ss (k + 6), ds := anySeg im.ds (k + 9)
              fs := anySeg im.fs (k + 12), gs := anySeg im.gs (k + 15) }
    sys := { sys with cr3 := cr3, ldtr := anySeg im.ldt (k + 18), cr0 := s.sys.cr0 ||| 8#32 }
    tlb := if s.pg = true ∧ s.sys.cr3 ≠ im.cr3 then s.tlb.filter fun e => e.global && bit s.sys.cr4 7 else s.tlb
    free := k + 21 }

/-- The descriptors of the data-segment registers of a new task that are not null can be read; each allows the load
(R327, R143). -/
inductive DataDescs (cpl : Nat) : List (Seg × Half) → State → List TaskSeg → State → Prop where
  | nil (s : State) : DataDescs cpl [] s [] s
  | null (x : Seg) (sel : Half) (xs : List (Seg × Half)) (ds : List TaskSeg) (s t : State) : isNull sel = true →
      DataDescs cpl xs s ds t → DataDescs cpl ((x, sel) :: xs) s ds t
  | desc (x : Seg) (sel : Half) (d : Desc) (xs : List (Seg × Half)) (ds : List TaskSeg) (s s1 t : State) :
      isNull sel = false → DescAt s sel d s1 → d.isReadable = true → d.p = true →
      (d.conforming = true ∨ cpl ≤ d.dpl ∧ rpl sel ≤ d.dpl) → DataDescs cpl xs s1 ds t →
      DataDescs cpl ((x, sel) :: xs) s (⟨x, sel, d⟩ :: ds) t

/-- Data-segment registers take their descriptors in turn. -/
inductive DataLoads : List TaskSeg → State → List Nat → State → Prop where
  | nil (s : State) : DataLoads [] s [] s
  | more (x : Seg) (sel : Half) (d d1 : Desc) (xs : List TaskSeg) (b bs : List Nat) (s s1 t : State) :
      Accessed s sel d d1 b s1 → DataLoads xs (s1.setSeg x (d1.toSegReg sel)) bs t →
      DataLoads (⟨x, sel, d⟩ :: xs) s (b ++ bs) t

/-- The descriptors of a new task are loaded (R326 step 13, R327): LDTR, CS, SS, then the data segments. -/
inductive Qualifies (im : TssImage) (s : State) : List Nat → State → Prop where
  | mk (cd cd1 sd sd1 : Desc) (ds : List TaskSeg) (b1 b2 b3 : List Nat) (s1 s2 s3 s4 s5 s6 t : State) :
      (isNull im.ldt = true ∧ s1 = s ∨
        isNull im.ldt = false ∧ im.ldt.getLsbD 2 = false ∧ ∃ d u, DescAt s im.ldt d u ∧ d.isSys 2 = true ∧ d.p = true ∧
          s1 = { u with sys := { u.sys with ldtr := d.toSegReg im.ldt } }) →
      isNull im.cs = false → DescAt s1 im.cs cd s2 → cd.isCode = true → cd.dpl = rpl im.cs → cd.p = true →
      isNull im.ss = false → DescAt s2 im.ss sd s3 → sd.isWritable = true → sd.p = true → sd.dpl = rpl im.cs →
      sd.dpl = rpl im.ss →
      Accessed s3 im.cs cd cd1 b1 s4 →
      Accessed { s4.setSeg .cs (cd1.toSegReg im.cs) with eip := cd.entry s4.eip } im.ss sd sd1 b2 s5 →
      DataDescs (rpl im.cs) [(.ds, im.ds), (.es, im.es), (.fs, im.fs), (.gs, im.gs)]
        (s5.setSeg .ss (sd1.toSegReg im.ss)) ds s6 →
      DataLoads ds s6 b3 t → Qualifies im s (b1 ++ b2 ++ b3) t

/-- The old task is left (R326 steps 6 to 11, R328): a JMP or IRET clears its busy flag, its state goes to its TSS with
the CS, EIP and RF of `p` (IRET: NT = 0), a CALL or an event stores the link to it, all but IRET set the new task's busy flag,
and TR names the new task. -/
def State.taskLeft (s : State) (kind : SwitchKind) (sel : Half) (d : Desc) (p : Resume)
    (old link busy0 busy1 : List Nat) : State :=
  let old32 := s.sys.tr.attr.typ.getLsbD 3
  let flags : Eflags := { s.eflags with rf := p.rf, nt := s.eflags.nt && decide (kind ≠ .iret) }
  let u0 := if kind = .jmp ∨ kind = .iret then s.storeAt busy0 (s.valueAt busy0 &&& 0xFD) else s
  let u1 := u0.storeFields old (if old32 then 32 else 14) (savedFields old32 s p flags.toWord)
  let u2 := if kind = .call ∨ kind = .int then u1.storeAt link s.sys.tr.sel.toNat else u1
  let u3 := if kind ≠ .iret then u2.storeAt busy1 ((d.hi ||| 0x200#32).toNat / 256 % 256) else u2
  { u3 with sys := { u3.sys with tr := Desc.toSegReg { d with hi := d.hi ||| 0x200#32 } sel } }

/-- A task switch to the TSS that a selector names completes (R326): the checks of steps 1 to 5 pass, and lead to `s8`; the
old task is left, the new task's state is loaded. A JMP or IRET needs TR's selector to name a descriptor of the GDT (R131). The
PDPTEs are those that the new TSS's CR3 names before the old task's state is saved (DESIGN CHOICE, log 23). -/
def Switches (kind : SwitchKind) (sel : Half) (p : Resume) (ext : Bool) (s t : State) (written : List Nat) : Prop :=
  let old32 := s.sys.tr.attr.typ.getLsbD 3
  let busyLin (x : Half) : Word := s.sys.gdtr.base + BitVec.ofNat 32 (x.toNat / 8 * 8 + 5)
  let nests := kind = .call ∨ kind = .int
  let leaves := kind = .jmp ∨ kind = .iret
  ∃ (d : Desc) (oldAll old new link busy0 busy1 bytes : List Nat) (pd : Option (List Quad)) (im0 im : TssImage)
      (s1 s2 s3 s4 s5 s6 s7 s8 u w : State),
    sel.getLsbD 2 = false ∧ isNull sel = false ∧ DescAt s sel d s1 ∧ d.isTss = true ∧ d.p = true ∧
    (d.tssAvail = true ↔ kind ≠ .iret) ∧ (if d.tss32 then 103 else 43) ≤ d.limit ∧
    (if old32 then 103 else 43) ≤ s.sys.tr.limit.toNat ∧
    linAddrs s.sys.tr.base (if old32 then 104 else 44) .read false s1 = .ok oldAll s2 ∧
    linAddrs (s.sys.tr.base + BitVec.ofNat 32 (if old32 then 32 else 14)) (if old32 then 64 else 28) .write false s2 =
      .ok old s3 ∧
    linAddrs d.base (if d.tss32 then 104 else 44) .read false s3 = .ok new s4 ∧
    (nests ∧ linAddrs d.base 2 .write false s4 = .ok link s5 ∨ ¬ nests ∧ link = [] ∧ s5 = s4) ∧
    (leaves ∧ s.namesGdt s.sys.tr.sel = true ∧ linAddrs (busyLin s.sys.tr.sel) 1 .write false s5 = .ok busy0 s6 ∨
      ¬ leaves ∧ busy0 = [] ∧ s6 = s5) ∧
    (kind ≠ .iret ∧ linAddrs (busyLin sel) 1 .write false s6 = .ok busy1 s7 ∨ kind = .iret ∧ busy1 = [] ∧ s7 = s6) ∧
    s7.plains [old, new, link, busy0, busy1] ∧ im0 = taskImage d.tss32 s7 new ∧ bit im0.flags 17 = false ∧
    (if s.pg = true ∧ bit s.sys.cr4 5 = true ∧ d.tss32 = true then
      ∃ es, readPdptes im0.cr3 (.gp (zeroCode ext)) s7 = .ok es s7 ∧ pd = some es else pd = none) ∧
    underCr3 im0.cr3 pd (taskDescsPaged im0) s7 = .ok () s8 ∧
    u = s8.taskLeft kind sel d p old link busy0 busy1 ∧ im = taskImage d.tss32 u new ∧
    Qualifies im (u.taskLoaded (decide nests) im pd) bytes w ∧
    t = { w with pend := { w.pend with taskTrap := w.pend.taskTrap || (im.trap && w.cfg.modelTf) } } ∧
    written = old ++ link ++ busy0 ++ busy1 ++ bytes

/-- A far JMP or CALL names a task (R321, R326 step 2): a TSS descriptor, or a task gate, that the privilege level may
use. -/
inductive TaskTarget (s : State) (sel : Half) : Half → State → Prop where
  | tss (d : Desc) (s1 : State) : isNull sel = false → DescAt s sel d s1 → d.isTss = true → s.cpl ≤ d.dpl →
      rpl sel ≤ d.dpl → TaskTarget s sel sel s1
  | gate (g : Desc) (s1 : State) : isNull sel = false → DescAt s sel g s1 → g.isSys 5 = true → s.cpl ≤ g.dpl →
      rpl sel ≤ g.dpl → g.p = true → TaskTarget s sel g.gateSel s1

/-! ## Delivery of events -/

/-- Whether an event is external to the program, the EXT bit of error codes (R403). -/
def Event.ext (ev : Event) : Bool := ev.kind != .soft

/-- The items that delivery pushes on the interrupted program's stack, in push order (R422). -/
def Event.items (ev : Event) (s : State) : List Word :=
  [Eflags.toWord { s.eflags with rf := ev.resume.rf }, ev.resume.cs.setWidth 32, ev.resume.eip] ++ ev.code.toList

/-- The flags of the handler (R426): an interrupt gate clears IF, a trap gate leaves it. -/
def Eflags.handler (f : Eflags) (interruptGate : Bool) : Eflags :=
  { f with tf := false, vm := false, rf := false, nt := false, intf := f.intf && !interruptGate }

/-- The IDT holds an interrupt or trap gate for an event, and its code segment is present (R420 steps 2 to 7). -/
def GateFor (ev : Event) (s : State) (g d : Desc) (s2 : State) : Prop :=
  ∃ v s1, s.prot = true ∧ 8 * ev.vector.toNat + 7 ≤ s.sys.idtr.limit.toNat ∧
    SysItem s (s.sys.idtr.base + BitVec.ofNat 32 (8 * ev.vector.toNat)) 8 v s1 ∧
    g = ⟨BitVec.ofNat 32 v, BitVec.ofNat 32 (v / 2 ^ 32)⟩ ∧ g.s = false ∧ g.typ ∈ [6, 7, 14, 15] ∧
    (ev.kind = .soft → s.cpl ≤ g.dpl) ∧ g.p = true ∧ isNull g.gateSel = false ∧ DescAt s1 g.gateSel d s2 ∧
    d.isCode = true ∧ d.dpl ≤ s.cpl ∧ d.p = true

/-- The IDT holds a task gate for an event (R420 steps 2 to 6, R427). -/
def TaskGateFor (ev : Event) (s : State) (g : Desc) (s1 : State) : Prop :=
  ∃ v, s.prot = true ∧ 8 * ev.vector.toNat + 7 ≤ s.sys.idtr.limit.toNat ∧
    SysItem s (s.sys.idtr.base + BitVec.ofNat 32 (8 * ev.vector.toNat)) 8 v s1 ∧
    g = ⟨BitVec.ofNat 32 v, BitVec.ofNat 32 (v / 2 ^ 32)⟩ ∧ g.s = false ∧ g.typ = 5 ∧
    (ev.kind = .soft → s.cpl ≤ g.dpl) ∧ g.p = true

/-- An event is delivered without a task switch (R420 to R426): the state after delivery, and the bytes stored to. -/
inductive Delivers (ev : Event) (s : State) : State → List Nat → Prop where
  /-- real-address mode: FLAGS, CS and IP are pushed, CS:IP comes from the vector table (R571; log 8) -/
  | real (v : Nat) (ps : List (List Nat)) (esp : Word) (s1 s2 : State) : s.pe = false →
      4 * ev.vector.toNat + 3 ≤ s.sys.idtr.limit.toNat →
      SysItem s (s.sys.idtr.base + BitVec.ofNat 32 (4 * ev.vector.toNat)) 4 v s1 →
      pushPlaces s.segs.ss (.ss 0#16) false .w 3 s.gpr.esp s1 = .ok (ps, esp) s2 →
      s.segs.cs.limitOk (BitVec.ofNat 32 (v % 2 ^ 16)) 1 = true → s2.plains ps →
      Delivers ev s
        { ((s2.storeAll ps [Eflags.toWord { s.eflags with rf := ev.resume.rf }, ev.resume.cs.setWidth 32,
            ev.resume.eip]).withEsp esp).setSeg .cs
          { s.segs.cs with
            sel := BitVec.ofNat 16 (v / 2 ^ 16), base := (BitVec.ofNat 16 (v / 2 ^ 16)).setWidth 32 <<< 4 } with
          eip := BitVec.ofNat 32 (v % 2 ^ 16)
          eflags := { s.eflags with tf := false, intf := false, rf := false } } ps.flatten
  /-- through a gate, at the current privilege level (R422) -/
  | same (g d d1 : Desc) (ps : List (List Nat)) (esp : Word) (bytes : List Nat) (s1 s2 s3 : State) :
      GateFor ev s g d s1 → (d.conforming = true ∨ d.dpl = s.cpl) →
      pushPlaces s.segs.ss (.ss (zeroCode ev.ext)) (s.cpl == 3) (if g.typ.testBit 3 then .d else .w)
        (ev.items s).length s.gpr.esp s1 = .ok (ps, esp) s2 →
      g.gateOff.toNat ≤ d.limit → Accessed s2 g.gateSel d d1 bytes s3 → s3.plains ps →
      Delivers ev s
        { ((s3.storeAll ps (ev.items s)).withEsp esp).setSeg .cs (d1.toSegReg (withRpl g.gateSel s.cpl)) with
          eip := d.entry g.gateOff
          eflags := s.eflags.handler (!g.typ.testBit 0) } (ps.flatten ++ bytes)
  /-- through a gate, to a more privileged level: the stack of that level takes SS and ESP first (R423) -/
  | inner (g d d1 : Desc) (ssSel : Half) (esp0 esp : Word) (ss : SegReg) (ps : List (List Nat)) (b1 b2 : List Nat)
      (s1 s2 s3 s4 s5 : State) :
      GateFor ev s g d s1 → d.conforming = false → d.dpl < s.cpl →
      TssPointer s1 d.dpl ssSel esp0 s2 → StackSegment s2 ssSel d.dpl ss b1 s3 →
      pushPlaces ss (.ss (selCode ssSel ev.ext)) false (if g.typ.testBit 3 then .d else .w)
        ((ev.items s).length + 2) esp0 s3 = .ok (ps, esp) s4 →
      Accessed s4 g.gateSel d d1 b2 s5 → s5.plains ps →
      Delivers ev s
        { (((s5.storeAll ps ([s.segs.ss.sel.setWidth 32, s.gpr.esp] ++ ev.items s)).withEsp esp).setSeg .ss
            ss).setSeg .cs (d1.toSegReg (withRpl g.gateSel d.dpl)) with
          eip := d.entry g.gateOff
          eflags := s.eflags.handler (!g.typ.testBit 0) } (ps.flatten ++ b1 ++ b2)

/-- What follows the delivery of an event: the processor is awake, the monitor disarmed (R378, R385; log 40); only a software
interrupt has completed the instruction that led to it (R413). -/
def State.awakened (s : State) (kind : EventKind) : State :=
  { s with
    act := { s.act with halted := false, mwaiting := false, monitor := none }
    ctx := { s.ctx with delivered := kind != .soft } }

/-- What follows the delivery of an event without a task switch: `awakened`, and the handler entered is to return before those
of the exceptions for which events are held (R409, log 27); with a switch it is `taskLoaded` that counts it. -/
def State.taken (s : State) (kind : EventKind) : State :=
  State.awakened { s with pend := { s.pend with held := s.pend.held.map fun h => (h.1, h.2 + 1) } } kind

/-! ## I/O permission -/

/-- An access of `n` bytes at an I/O port is allowed (R608): by IOPL, in real-address mode (PRESUMED, log 12 and log 8), or by
the bit map of a 32-bit TSS (R322; its layout DEDUCED, log 12). That an access may run past port FFFFH is the model's choice
(DESIGN CHOICE, log 12). -/
inductive IoAllowed (s : State) (port n : Nat) : State → Prop where
  /-- CPL ≤ IOPL (R608), or not in protected mode: real-address mode (PRESUMED, log 12 and log 8) -/
  | level : (s.prot = true → s.cpl ≤ s.iopl) → IoAllowed s port n s
  /-- the bits of the ports lie within the TSS limit and are 0 (R608, R322); that bit `port % 8` of the byte at
  `base + port / 8` stands for a port is DEDUCED (log 12) -/
  | map (base v : Nat) (s1 s2 : State) : s.prot = true → s.iopl < s.cpl → s.sys.tr.attr.typ.getLsbD 3 = true →
      103 ≤ s.sys.tr.limit.toNat → SysItem s (s.sys.tr.base + 102#32) 2 base s1 → base < s.sys.tr.limit.toNat →
      base + (port + n - 1) / 8 ≤ s.sys.tr.limit.toNat →
      SysItem s1 (s.sys.tr.base + BitVec.ofNat 32 (base + port / 8)) ((port + n - 1) / 8 - port / 8 + 1) v s2 →
      v / 2 ^ (port % 8) % 2 ^ n = 0 → IoAllowed s port n s2

end Sys2Proof.Machine
end

