-- ==== Sys2Proof/Certificates/Slice0/Obligations.lean ====
section
/-! DEFINITION. The statements for the provers, and the terms they need: instructions grouped by shape, the places and
values of their operands. -/
namespace Sys2Proof.Machine

/-! ## Instructions by shape -/

/-- The forms of a two-operand operation whose destination is an r/m operand or the accumulator (R610). -/
inductive AluForm where
  | rm8R8 (dst : RM Reg8) (r : Reg8)
  | rmR (dst : RM Reg) (r : Reg)
  | rm8Imm8 (dst : RM Reg8) (v : Byte)
  | rmImm (dst : RM Reg) (v : Word)
  | rmImm8 (dst : RM Reg) (v : Byte)
  | alImm8 (v : Byte)
  | eaxImm (v : Word)

/-- The operand size of a form. -/
def AluForm.size (s : State) : AluForm → Sz
  | .rm8R8 .. | .rm8Imm8 .. | .alImm8 .. => .b
  | _ => s.osz

/-- The destination of a form, checked for an access. -/
def AluForm.dst (s : State) (k : Access) : AluForm → M Place
  | .rm8R8 d _ | .rm8Imm8 d _ => place8 k d
  | .rmR d _ | .rmImm d _ | .rmImm8 d _ => place s.osz k d
  | .alImm8 _ => place8 k (.reg .al)
  | .eaxImm _ => place s.osz k (.reg .eax)

/-- The source operand of a form: a register, or an immediate, sign-extended in the 83H group (R205). -/
def AluForm.src (s : State) : AluForm → Word
  | .rm8R8 _ r => s.gpr.read8 r
  | .rmR _ r => s.gpr.read s.osz r
  | .rm8Imm8 _ v | .alImm8 v => v.setWidth 32
  | .rmImm _ v | .eaxImm v => s.osz.trunc v
  | .rmImm8 _ v => s.osz.trunc (v.signExtend 32)

/-- Whether the destination of a form is in memory. -/
def AluForm.isMem : AluForm → Bool
  | .rm8R8 d _ | .rm8Imm8 d _ => d.isMem
  | .rmR d _ | .rmImm d _ | .rmImm8 d _ => d.isMem
  | _ => false

/-- The instruction of an operation and a form (R610). -/
def AluForm.instr : AluForm → AluOp → Instr
  | .rm8R8 d r, .add => .addRm8R8 d r
  | .rm8R8 d r, .or => .orRm8R8 d r
  | .rm8R8 d r, .adc => .adcRm8R8 d r
  | .rm8R8 d r, .sbb => .sbbRm8R8 d r
  | .rm8R8 d r, .and => .andRm8R8 d r
  | .rm8R8 d r, .sub => .subRm8R8 d r
  | .rm8R8 d r, .xor => .xorRm8R8 d r
  | .rm8R8 d r, .cmp => .cmpRm8R8 d r
  | .rmR d r, .add => .addRmR d r
  | .rmR d r, .or => .orRmR d r
  | .rmR d r, .adc => .adcRmR d r
  | .rmR d r, .sbb => .sbbRmR d r
  | .rmR d r, .and => .andRmR d r
  | .rmR d r, .sub => .subRmR d r
  | .rmR d r, .xor => .xorRmR d r
  | .rmR d r, .cmp => .cmpRmR d r
  | .rm8Imm8 d v, .add => .addRm8Imm8 d v
  | .rm8Imm8 d v, .or => .orRm8Imm8 d v
  | .rm8Imm8 d v, .adc => .adcRm8Imm8 d v
  | .rm8Imm8 d v, .sbb => .sbbRm8Imm8 d v
  | .rm8Imm8 d v, .and => .andRm8Imm8 d v
  | .rm8Imm8 d v, .sub => .subRm8Imm8 d v
  | .rm8Imm8 d v, .xor => .xorRm8Imm8 d v
  | .rm8Imm8 d v, .cmp => .cmpRm8Imm8 d v
  | .rmImm d v, .add => .addRmImm d v
  | .rmImm d v, .or => .orRmImm d v
  | .rmImm d v, .adc => .adcRmImm d v
  | .rmImm d v, .sbb => .sbbRmImm d v
  | .rmImm d v, .and => .andRmImm d v
  | .rmImm d v, .sub => .subRmImm d v
  | .rmImm d v, .xor => .xorRmImm d v
  | .rmImm d v, .cmp => .cmpRmImm d v
  | .rmImm8 d v, .add => .addRmImm8 d v
  | .rmImm8 d v, .or => .orRmImm8 d v
  | .rmImm8 d v, .adc => .adcRmImm8 d v
  | .rmImm8 d v, .sbb => .sbbRmImm8 d v
  | .rmImm8 d v, .and => .andRmImm8 d v
  | .rmImm8 d v, .sub => .subRmImm8 d v
  | .rmImm8 d v, .xor => .xorRmImm8 d v
  | .rmImm8 d v, .cmp => .cmpRmImm8 d v
  | .alImm8 v, .add => .addAlImm8 v
  | .alImm8 v, .or => .orAlImm8 v
  | .alImm8 v, .adc => .adcAlImm8 v
  | .alImm8 v, .sbb => .sbbAlImm8 v
  | .alImm8 v, .and => .andAlImm8 v
  | .alImm8 v, .sub => .subAlImm8 v
  | .alImm8 v, .xor => .xorAlImm8 v
  | .alImm8 v, .cmp => .cmpAlImm8 v
  | .eaxImm v, .add => .addEaxImm v
  | .eaxImm v, .or => .orEaxImm v
  | .eaxImm v, .adc => .adcEaxImm v
  | .eaxImm v, .sbb => .sbbEaxImm v
  | .eaxImm v, .and => .andEaxImm v
  | .eaxImm v, .sub => .subEaxImm v
  | .eaxImm v, .xor => .xorEaxImm v
  | .eaxImm v, .cmp => .cmpEaxImm v

/-- TEST in a form that it has (R617). -/
def AluForm.test : AluForm → Option Instr
  | .rm8R8 d r => some (.testRm8R8 d r)
  | .rmR d r => some (.testRmR d r)
  | .rm8Imm8 d v => some (.testRm8Imm8 d v)
  | .rmImm d v => some (.testRmImm d v)
  | .rmImm8 .. => none
  | .alImm8 v => some (.testAlImm8 v)
  | .eaxImm v => some (.testEaxImm v)

/-- `op r8, r/m8` (R610). -/
def AluOp.r8Rm8 : AluOp → Reg8 → RM Reg8 → Instr
  | .add => .addR8Rm8 | .or => .orR8Rm8 | .adc => .adcR8Rm8 | .sbb => .sbbR8Rm8
  | .and => .andR8Rm8 | .sub => .subR8Rm8 | .xor => .xorR8Rm8 | .cmp => .cmpR8Rm8

/-- `op r, r/m` (R610). -/
def AluOp.rRm : AluOp → Reg → RM Reg → Instr
  | .add => .addRRm | .or => .orRRm | .adc => .adcRRm | .sbb => .sbbRRm
  | .and => .andRRm | .sub => .subRRm | .xor => .xorRRm | .cmp => .cmpRRm

/-- How an operation accesses its destination: CMP reads it, the others write it (R616). -/
def AluOp.access (o : AluOp) : Access := if o == .cmp then .read else .write

/-- The state after an operation on a place with a source value, from the state after the operand checks (R611 to R616):
the result stored unless the operation is CMP, the flags, the next instruction. A bitwise operation's AF is a free
value (log 10). -/
def aluDone (o : AluOp) (z : Sz) (p : Place) (b : Word) (s : State) : State :=
  let a := p.value s
  let t := s.used (if o.isLogic then 1 else 0)
  let t := if o == .cmp then t else p.put t (o.result z a b s.eflags.cf)
  (t.withFlags (o.flags z a b (Config.freeBit s.free) s.eflags)).done

/-- The bytes an operation stores to. -/
def aluBytes (o : AluOp) (p : Place) : List Nat := if o == .cmp then [] else p.bytes

/-- The one-operand operations (R618, R619). -/
inductive UnOp where
  | inc | dec | not | neg
  deriving DecidableEq, Repr

/-- The forms of a one-operand operation. -/
inductive UnForm where
  | rm8 (dst : RM Reg8)
  | rm (dst : RM Reg)
  | ofReg (r : Reg)

/-- The operand of a form. -/
def UnForm.dst (s : State) : UnForm → M Place
  | .rm8 d => place8 .write d
  | .rm d => place s.osz .write d
  | .ofReg q => place s.osz .write (.reg q)

/-- The operand size of a form. -/
def UnForm.size (s : State) : UnForm → Sz
  | .rm8 _ => .b
  | _ => s.osz

/-- Whether the operand of a form is in memory. -/
def UnForm.isMem : UnForm → Bool
  | .rm8 d => d.isMem
  | .rm d => d.isMem
  | .ofReg _ => false

/-- A one-operand instruction in a form that it has. -/
def UnOp.instr : UnOp → UnForm → Option Instr
  | .inc, .rm8 d => some (.incRm8 d)
  | .inc, .rm d => some (.incRm d)
  | .inc, .ofReg r => some (.incR r)
  | .dec, .rm8 d => some (.decRm8 d)
  | .dec, .rm d => some (.decRm d)
  | .dec, .ofReg r => some (.decR r)
  | .not, .rm8 d => some (.notRm8 d)
  | .not, .rm d => some (.notRm d)
  | .not, .ofReg _ => none
  | .neg, .rm8 d => some (.negRm8 d)
  | .neg, .rm d => some (.negRm d)
  | .neg, .ofReg _ => none

/-- The result, modulo 2^n (R618, R619). -/
def UnOp.result (o : UnOp) (z : Sz) (a : Word) : Word :=
  match o with
  | .inc => z.trunc (a + 1#32)
  | .dec => z.trunc (a - 1#32)
  | .not => z.trunc (~~~a)
  | .neg => z.trunc (-a)

/-- The flags: INC and DEC keep CF, NOT changes none, NEG's CF is "the operand was not 0" (R618, R619). -/
def UnOp.flags (o : UnOp) (z : Sz) (a : Word) (f : Eflags) : Eflags :=
  match o with
  | .inc => { addFlags z a 1#32 false f with cf := f.cf }
  | .dec => { subFlags z a 1#32 false f with cf := f.cf }
  | .not => f
  | .neg => { subFlags z 0#32 a false f with cf := a != 0#32 }

/-- The forms of MOV that store to an r/m or memory operand, and MOVNTI (R603, R604). -/
inductive MovForm where
  | rm8R8 (dst : RM Reg8) (r : Reg8)
  | rmR (dst : RM Reg) (r : Reg)
  | rm8Imm8 (dst : RM Reg8) (v : Byte)
  | rmImm (dst : RM Reg) (v : Word)
  | moffs8Al (off : Word)
  | moffsEax (off : Word)
  | nti (m : Mem) (r : Reg)

/-- The destination of a form. -/
def MovForm.dst (s : State) : MovForm → M Place
  | .rm8R8 d _ | .rm8Imm8 d _ => place8 .write d
  | .rmR d _ | .rmImm d _ => place s.osz .write d
  | .moffs8Al off => place8 .write (.mem (.abs32 off))
  | .moffsEax off => place s.osz .write (.mem (.abs32 off))
  | .nti m _ => place .d .write (.mem m)

/-- The value a form stores. -/
def MovForm.src (s : State) : MovForm → Word
  | .rm8R8 _ r => s.gpr.read8 r
  | .rmR _ r => s.gpr.read s.osz r
  | .rm8Imm8 _ v => v.setWidth 32
  | .rmImm _ v => v
  | .moffs8Al _ => s.gpr.read8 .al
  | .moffsEax _ => s.gpr.read s.osz .eax
  | .nti _ r => s.gpr.get r

/-- The instruction of a form. -/
def MovForm.instr : MovForm → Instr
  | .rm8R8 d r => .movRm8R8 d r
  | .rmR d r => .movRmR d r
  | .rm8Imm8 d v => .movRm8Imm8 d v
  | .rmImm d v => .movRmImm d v
  | .moffs8Al off => .movMoffs8Al off
  | .moffsEax off => .movMoffsEax off
  | .nti m r => .movnti m r

/-- MOVNTI is there with SSE2 (PRESUMED, log 33). -/
def MovForm.present (s : State) : MovForm → Prop
  | .nti .. => s.cfg.hasSse2 = true
  | _ => True

/-- An integer of the width read as signed. -/
def Sz.signed (z : Sz) (a : Word) : Int :=
  if a.toNat < 2 ^ (z.bits - 1) then (a.toNat : Int) else (a.toNat : Int) - 2 ^ z.bits

/-- How many of the low eight bits are 1. -/
def ones8 (a : Word) : Nat := ((List.range 8).filter fun k => a.getLsbD k).length

/-! ## Stores of system values, pushes, bit instructions, jumps -/

/-- What SLDT, STR, SMSW and MOV from a segment register store (R226, R228, R229, R234). -/
inductive SelSource where
  | sreg (x : Seg) | ldtr | tr | msw

/-- The instruction that stores a source. -/
def SelSource.instr : SelSource → RM Reg → Instr
  | .sreg x, d => .movRmSreg d x
  | .ldtr, d => .sldt d
  | .tr, d => .str d
  | .msw, d => .smsw d

/-- The value of a source: a selector, or the low half of CR0. -/
def SelSource.value (s : State) : SelSource → Half
  | .sreg x => (s.segs.get x).sel
  | .ldtr => s.sys.ldtr.sel
  | .tr => s.sys.tr.sel
  | .msw => s.sys.cr0.setWidth 16

/-- What R88 asks the address of a source's place in memory to be divisible by: 4 for the contents of LDTR and TR, 2 for a
selector and a word. -/
def SelSource.align : SelSource → Nat
  | .ldtr | .tr => 4
  | .sreg _ | .msw => 2

/-- SLDT and STR are recognised in protected mode only (R209). -/
def SelSource.present (s : State) : SelSource → Prop
  | .ldtr | .tr => s.prot = true
  | _ => True

/-- The instructions that load a segment register from the stack (R607). -/
def popSegInstr : Seg → Option Instr
  | .es => some .popEs | .cs => none | .ss => some .popSs | .ds => some .popDs | .fs => some .popFs | .gs => some .popGs

/-- A segment register takes new contents; a load of SS starts the shadow of one instruction (R229). -/
def State.segLoaded (s : State) (x : Seg) (r : SegReg) : State :=
  if x = .ss then { s.setSeg .ss r with act := { s.act with shadow := .ss } } else s.setSeg x r

/-- The forms of PUSH whose operand is no memory operand, and PUSHF (R607, R310). -/
inductive PushForm where
  | reg (r : Reg) | imm8 (v : Byte) | imm32 (v : Word) | sreg (x : Seg) | flags

/-- The instruction of a form. -/
def PushForm.instr : PushForm → Instr
  | .reg r => .pushR r
  | .imm8 v => .pushImm8 v
  | .imm32 v => .pushImm32 v
  | .sreg .es => .pushEs
  | .sreg .cs => .pushCs
  | .sreg .ss => .pushSs
  | .sreg .ds => .pushDs
  | .sreg .fs => .pushFs
  | .sreg .gs => .pushGs
  | .flags => .pushf

/-- The value a form pushes: the register before the push, the immediate, the selector, EFLAGS without VM and RF. -/
def PushForm.value (s : State) : PushForm → Word
  | .reg r => s.gpr.read s.osz r
  | .imm8 v => s.osz.trunc (v.signExtend 32)
  | .imm32 v => v
  | .sreg x => (s.segs.get x).sel.setWidth 32
  | .flags => { s.eflags with vm := false, rf := false }.toWord

/-- EFLAGS after POPF (R308): IF changes if CPL ≤ IOPL, IOPL at CPL 0; VM, VIF and VIP stay; RF is cleared; a 16-bit image
leaves the upper half (DEDUCED, log 11). -/
def popfFlags (is16 : Bool) (cpl : Nat) (old : Eflags) (image : Word) : Eflags :=
  let n := Eflags.ofWord image
  { n with
    intf := if cpl ≤ old.iopl.toNat then n.intf else old.intf
    iopl := if cpl = 0 then n.iopl else old.iopl
    rf := false
    vm := old.vm
    vif := old.vif
    vip := old.vip
    ac := if is16 then old.ac else n.ac
    id := if is16 then old.id else n.id }

/-- EFLAGS after IRET (R309): as POPF, but RF comes from a 32-bit image, VIF and VIP too at CPL 0; with a
16-bit image RF is 0, VIF and VIP stay (DEDUCED, log 11). -/
def iretFlags (is16 : Bool) (cpl : Nat) (old : Eflags) (image : Word) : Eflags :=
  let n := Eflags.ofWord image
  { popfFlags is16 cpl old image with
    rf := !is16 && n.rf
    vif := if !is16 && cpl = 0 then n.vif else old.vif
    vip := if !is16 && cpl = 0 then n.vip else old.vip }

/-- The forms of the bit instructions (R623). -/
inductive BitForm where
  | imm (dst : RM Reg) (k : Byte)
  | byReg (dst : RM Reg) (r : Reg)

/-- The instruction of an operation and a form. -/
def BitForm.instr : BitForm → BitOp → Instr
  | .imm d k, .bt => .btRmImm8 d k
  | .imm d k, .bts => .btsRmImm8 d k
  | .imm d k, .btr => .btrRmImm8 d k
  | .imm d k, .btc => .btcRmImm8 d k
  | .byReg d r, .bt => .btRmR d r
  | .byReg d r, .bts => .btsRmR d r
  | .byReg d r, .btr => .btrRmR d r
  | .byReg d r, .btc => .btcRmR d r

/-- Whether the operand of a form is in memory. -/
def BitForm.isMem : BitForm → Bool
  | .imm d _ | .byReg d _ => d.isMem

/-- The operand of a form: with a register offset into memory, the unit that holds the bit, by the signed offset. -/
def BitForm.dst (s : State) (k : Access) : BitForm → M Place
  | .imm d _ => place s.osz k d
  | .byReg (.reg q) _ => place s.osz k (.reg q)
  | .byReg (.mem m) r => do
    let unit := s.osz.signed (s.gpr.read s.osz r) / s.osz.bits * s.osz.bytes
    return .mem (← memAddrsAt m (BitVec.ofInt 32 unit) s.osz.bytes s.osz.bytes k)

/-- The bit of the operand that a form selects. -/
def BitForm.index (s : State) : BitForm → Nat
  | .imm _ k => k.toNat % s.osz.bits
  | .byReg _ r => (s.gpr.read s.osz r).toNat % s.osz.bits

/-- The operand after a bit instruction (R623). -/
def BitOp.after (o : BitOp) (v : Word) (k : Nat) : Word :=
  match o with
  | .bt => v
  | .bts => v ||| (1#32 <<< k)
  | .btr => v &&& ~~~(1#32 <<< k)
  | .btc => v ^^^ (1#32 <<< k)

/-- When a condition holds (R631). -/
def Cc.when (f : Eflags) : Cc → Prop
  | .o => f.ovf = true
  | .no => f.ovf = false
  | .b => f.cf = true
  | .ae => f.cf = false
  | .e => f.zf = true
  | .ne => f.zf = false
  | .be => f.cf = true ∨ f.zf = true
  | .a => f.cf = false ∧ f.zf = false
  | .s => f.sf = true
  | .ns => f.sf = false
  | .p => f.pf = true
  | .np => f.pf = false
  | .l => f.sf ≠ f.ovf
  | .ge => f.sf = f.ovf
  | .le => f.zf = true ∨ f.sf ≠ f.ovf
  | .g => f.zf = false ∧ f.sf = f.ovf

/-- Jcc rel8 (R631). -/
def Cc.jcc8 : Cc → Byte → Instr
  | .o => .joRel8 | .no => .jnoRel8 | .b => .jbRel8 | .ae => .jaeRel8 | .e => .jeRel8 | .ne => .jneRel8
  | .be => .jbeRel8 | .a => .jaRel8 | .s => .jsRel8 | .ns => .jnsRel8 | .p => .jpRel8 | .np => .jnpRel8
  | .l => .jlRel8 | .ge => .jgeRel8 | .le => .jleRel8 | .g => .jgRel8

/-- Jcc rel32 (R631). -/
def Cc.jcc32 : Cc → Word → Instr
  | .o => .joRel32 | .no => .jnoRel32 | .b => .jbRel32 | .ae => .jaeRel32 | .e => .jeRel32 | .ne => .jneRel32
  | .be => .jbeRel32 | .a => .jaRel32 | .s => .jsRel32 | .ns => .jnsRel32 | .p => .jpRel32 | .np => .jnpRel32
  | .l => .jlRel32 | .ge => .jgeRel32 | .le => .jleRel32 | .g => .jgRel32

/-- A 32-bit relative displacement, or a 16-bit one sign-extended (R205, R630). -/
def State.rel (s : State) (rel : Word) : Word := if s.osz = .w then (rel.setWidth 16).signExtend 32 else rel

/-- The target of a near transfer: cut to 16 bits with a 16-bit operand size or in a 16-bit code segment (R23, R630). -/
def State.target (s : State) (v : Word) : Word := s.eipMask (s.osz.trunc v)

/-- A near target lies within the limit of the code segment (R630). -/
def State.inCode (s : State) (v : Word) : Prop := s.segs.cs.limitOk v 1 = true

/-- The prefix instructions and what each records (R201, R202, R351). -/
def prefixEffects : List (Instr × (Pfx → Pfx)) :=
  [(.lock, fun p => { p with lock := true }), (.repne, fun p => { p with rep := some .repne }),
   (.rep, fun p => { p with rep := some .rep }), (.segCs, fun p => { p with seg := some .cs }),
   (.segSs, fun p => { p with seg := some .ss }), (.segDs, fun p => { p with seg := some .ds }),
   (.segEs, fun p => { p with seg := some .es }), (.segFs, fun p => { p with seg := some .fs }),
   (.segGs, fun p => { p with seg := some .gs }), (.opsize, fun p => { p with opsize := true }),
   (.addrsize, fun p => { p with addrsize := true })]

/-- The forms of a far JMP or CALL: the far pointer in the instruction, or in memory (R205). -/
inductive FarForm where
  | ptr (sel : Half) (off : Word)
  | mem (m : Mem)

/-- The far pointer of a form. -/
def FarForm.pointer (f : FarForm) (s : State) (sel : Half) (off : Word) (s1 : State) : Prop :=
  match f with
  | .ptr x o => sel = x ∧ off = o ∧ s1 = s
  | .mem m => FarPtr s m sel off s1

/-- A flat segment of SYSENTER and SYSEXIT (R300, R301): base 0, limit FFFFFFFFH, present, 32-bit, page granular (G of
SYSEXIT's and AVL: log 36). -/
def flat (sel : Half) (typ : BitVec 4) (dpl : BitVec 2) : SegReg :=
  { sel := sel, base := 0#32, limit := 0xFFFFFFFF#32,
    attr := { typ := typ, s := true, dpl := dpl, p := true, avl := false, db := true, g := true } }

/-- A value of operand size read as signed. -/
def State.signed (s : State) (v : Word) : Int := s.osz.signed (s.osz.trunc v)

/-- Both stored tables of the canonical memory form (R80): memory and its written-back copy. -/
def State.memoryOk (s : State) : Prop := s.mem.wf = true ∧ s.memWb.wf = true

/-- What no instruction can break in CR0 and CR4 (R35, R39, R232): ET reads 1, the reserved bits of CR0 read 0, paging is
on in protected mode only, NW is set only with CD, the reserved bits of CR4 read 0. -/
def SysRegs.legal (r : SysRegs) : Prop :=
  bit r.cr0 4 = true ∧ r.cr0 &&& 0x1FFAFFC0#32 = 0#32 ∧ (bit r.cr0 31 = true → bit r.cr0 0 = true) ∧
    (bit r.cr0 29 = true → bit r.cr0 30 = true) ∧ r.cr4.toNat < 2 ^ 11

/-- CR0 and CR4 are legal, and so are the copies that SMM entry saved. -/
def State.legal (s : State) : Prop := s.sys.legal ∧ ∀ p, s.smm = some p → p.sys.legal

/-- No bit of IRR, ISR or TMR below vector 16 is set (R543). -/
def State.vectorsOk (s : State) : Prop :=
  ∀ k, k < 16 → s.apic.irr.getLsbD k = false ∧ s.apic.isr.getLsbD k = false ∧ s.apic.tmr.getLsbD k = false

/-- An exception held for the return of the handler entered last, by vector and error code (R409, log 27). -/
def dueException : Held × Nat → Option (Byte × Option Word)
  | (.exception v c, 0) | (.exception v c, 1) => some (v, c)
  | _ => none

/-- What IRET makes of the pending events (R406, R409): NMIs are no longer blocked; each event that is held waits for one
handler fewer; held for the one that returns, a debug trap or an exception waits again, a request is no longer held back. -/
def afterHandler (p : Pending) : Pending :=
  { p with
    nmiBlocked := false
    taskTrap := decide (p.taskTrap = true ∨ ∃ h ∈ p.held, h.1 = .taskTrap ∧ h.2 ≤ 1)
    stepTrap := decide (p.stepTrap = true ∨ ∃ h ∈ p.held, h.1 = .stepTrap ∧ h.2 ≤ 1)
    reattempt := (p.held.filterMap dueException).head?.or p.reattempt
    held := p.held.filterMap fun h => if h.2 ≤ 1 then none else some (h.1, h.2 - 1) }

/-- The contributory exceptions of R409: #DE, #TS, #NP, #SS, #GP. -/
def contributory (v : Byte) : Prop := v ∈ [0#8, 10#8, 11#8, 12#8, 13#8]

/-- Whether an exception met while delivering another gives a double fault (R409). -/
def toDoubleFault (ev : Event) (e : Exc) : Prop :=
  ev.kind = .exception ∧
    (contributory ev.vector ∧ contributory e.vector ∨
      ev.vector = 14#8 ∧ (contributory e.vector ∨ e.vector = 14#8))

/-- The instructions before which a LOCK prefix may stand, in the forms with a destination in memory (R351). -/
def mayLock : Instr → Bool
  | .btsRmImm8 d _ | .btrRmImm8 d _ | .btcRmImm8 d _ | .btsRmR d _ | .btrRmR d _ | .btcRmR d _ => d.isMem
  | .xaddRm8R8 d _ | .cmpxchgRm8R8 d _ | .xchgRm8R8 d _ => d.isMem
  | .xaddRmR d _ | .cmpxchgRmR d _ | .xchgRmR d _ => d.isMem
  | .cmpxchg8b _ => true
  | .incRm8 d | .decRm8 d | .notRm8 d | .negRm8 d => d.isMem
  | .incRm d | .decRm d | .notRm d | .negRm d => d.isMem
  | .addRm8R8 d _ | .adcRm8R8 d _ | .subRm8R8 d _ | .sbbRm8R8 d _ | .andRm8R8 d _ | .orRm8R8 d _ | .xorRm8R8 d _ => d.isMem
  | .addRmR d _ | .adcRmR d _ | .subRmR d _ | .sbbRmR d _ | .andRmR d _ | .orRmR d _ | .xorRmR d _ => d.isMem
  | .addRm8Imm8 d _ | .adcRm8Imm8 d _ | .subRm8Imm8 d _ | .sbbRm8Imm8 d _ | .andRm8Imm8 d _ | .orRm8Imm8 d _
  | .xorRm8Imm8 d _ => d.isMem
  | .addRmImm d _ | .adcRmImm d _ | .subRmImm d _ | .sbbRmImm d _ | .andRmImm d _ | .orRmImm d _ | .xorRmImm d _ => d.isMem
  | .addRmImm8 d _ | .adcRmImm8 d _ | .subRmImm8 d _ | .sbbRmImm8 d _ | .andRmImm8 d _ | .orRmImm8 d _
  | .xorRmImm8 d _ => d.isMem
  | _ => false

end Sys2Proof.Machine

open Sys2Proof Sys2Proof.Machine

/-! ## Data movement, arithmetic and logic -/

/-- ADD, OR, ADC, SBB, AND, SUB, XOR, CMP with an r/m or accumulator destination complete: the result goes to the
destination (CMP stores nothing), the flags are those of the operation, with a free AF for OR, AND and XOR (log 10), nothing
else changes (R601, R610 to R616). LOCK is allowed with a memory destination, not with CMP (R351). -/
def Obligations.AluToRmCompletes : Prop :=
  ∀ (o : AluOp) (f : AluForm) (s s1 : State) (p : Place),
    f.dst s o.access s = .ok p s1 → p.plain s1 → s.lockOk (f.isMem && o != .cmp) →
    Completes (f.instr o) s s1 (aluDone o (f.size s) p (f.src s) s1) (aluBytes o p)

/-- The same eight operations with a register destination and an r/m source complete (R601, R610 to R616); AF is a free
value after OR, AND and XOR (log 10). -/
def Obligations.AluToRegCompletes : Prop :=
  (∀ (o : AluOp) (r : Reg8) (src : RM Reg8) (s s1 : State) (p : Place),
    place8 .read src s = .ok p s1 → p.plain s1 → s.lockOk false →
    Completes (o.r8Rm8 r src) s s1 (aluDone o .b (.reg8 r) (p.value s1) s1) []) ∧
  (∀ (o : AluOp) (r : Reg) (src : RM Reg) (s s1 : State) (p : Place),
    place s.osz .read src s = .ok p s1 → p.plain s1 → s.lockOk false →
    Completes (o.rRm r src) s s1 (aluDone o s.osz (.reg s.osz r) (p.value s1) s1) [])

/-- TEST completes in each form: the flags of AND, the result discarded, its operand only read (R617); AF is a free value
(log 10). -/
def Obligations.TestCompletes : Prop :=
  ∀ (f : AluForm) (i : Instr) (s s1 : State) (p : Place),
    f.test = some i → f.dst s .read s = .ok p s1 → p.plain s1 → s.lockOk false →
    Completes i s s1
      (((s1.used 1).withFlags
        (logicFlags (f.size s) (p.value s1 &&& f.src s) (Config.freeBit s1.free) s.eflags)).done) []

/-- INC, DEC, NOT, NEG complete in each form: the result modulo 2^n goes to the operand; INC and DEC keep CF, NOT
changes no flag, NEG's CF is "the operand was not 0" (R618, R619). -/
def Obligations.UnaryCompletes : Prop :=
  ∀ (o : UnOp) (f : UnForm) (i : Instr) (s s1 : State) (p : Place),
    o.instr f = some i → f.dst s s = .ok p s1 → p.plain s1 → s.lockOk f.isMem →
    Completes i s s1
      (((p.put s1 (o.result (f.size s) (p.value s1))).withFlags
        (o.flags (f.size s) (p.value s1) s.eflags)).done) p.bytes

/-- The result and the flags of the eight two-operand operations, for operands of a width (R602, R611 to R616): ADD adds, ADC
with CF; SUB and CMP subtract, SBB with CF: the result is modulo 2^n, CF is unsigned overflow or the borrow, OF signed
overflow, AF the carry out of bit 3 or the borrow into it. AND, OR and XOR are bitwise, with CF = OF = 0 and an AF that is
free (log 10). ZF, SF and PF come from the result; no other flag changes. The same holds of the sums, differences and logical
flags with which the other instructions are described. -/
def Obligations.ArithmeticFlags : Prop :=
  ∀ (z : Sz) (a b : Word) (c af : Bool) (f : Eflags), a.toNat < 2 ^ z.bits → b.toNat < 2 ^ z.bits →
    let ofResult (r : Word) (g : Eflags) : Prop :=
      (g.zf = true ↔ r.toNat = 0) ∧ (g.sf = true ↔ z.signed r < 0) ∧ (g.pf = true ↔ ones8 r % 2 = 0) ∧
      { g with cf := f.cf, pf := f.pf, af := f.af, zf := f.zf, sf := f.sf, ovf := f.ovf } = f
    let adds (c : Bool) (r : Word) (g : Eflags) : Prop :=
      r.toNat = (a.toNat + b.toNat + b2n c) % 2 ^ z.bits ∧
      (g.cf = true ↔ 2 ^ z.bits ≤ a.toNat + b.toNat + b2n c) ∧
      (g.ovf = true ↔ z.signed r ≠ z.signed a + z.signed b + (b2n c : Int)) ∧
      (g.af = true ↔ 16 ≤ a.toNat % 16 + b.toNat % 16 + b2n c) ∧ ofResult r g
    let subtracts (c : Bool) (r : Word) (g : Eflags) : Prop :=
      r.toNat = (2 * 2 ^ z.bits + a.toNat - b.toNat - b2n c) % 2 ^ z.bits ∧
      (g.cf = true ↔ a.toNat < b.toNat + b2n c) ∧
      (g.ovf = true ↔ z.signed r ≠ z.signed a - z.signed b - (b2n c : Int)) ∧
      (g.af = true ↔ a.toNat % 16 < b.toNat % 16 + b2n c) ∧ ofResult r g
    let bitwise (op : Bool → Bool → Bool) (r : Word) (g : Eflags) : Prop :=
      (∀ k, r.getLsbD k = op (a.getLsbD k) (b.getLsbD k)) ∧ g.cf = false ∧ g.ovf = false ∧ g.af = af ∧ ofResult r g
    let does (o : AluOp) (P : Word → Eflags → Prop) : Prop := P (o.result z a b f.cf) (o.flags z a b af f)
    does .add (adds false) ∧ does .adc (adds f.cf) ∧
    does .sub (subtracts false) ∧ does .cmp (subtracts false) ∧ does .sbb (subtracts f.cf) ∧
    does .and (bitwise and) ∧ does .or (bitwise or) ∧ does .xor (bitwise xor) ∧
    adds c (addRes z a b c) (addFlags z a b c f) ∧ subtracts c (subRes z a b c) (subFlags z a b c f) ∧
    bitwise and (a &&& b) (logicFlags z (a &&& b) af f)

/-- MOV to an r/m operand or a memory offset, and MOVNTI where it is there (with SSE2, log 33), complete: the source value is
stored, no flag but RF changes (R603, R604). -/
def Obligations.MovToRmCompletes : Prop :=
  ∀ (f : MovForm) (s s1 : State) (p : Place),
    f.present s → f.dst s s = .ok p s1 → p.plain s1 → s.lockOk false →
    Completes f.instr s s1 (p.put s1 (f.src s)).done p.bytes

/-- MOV to a register completes: the register takes the operand or the immediate, no flag but RF changes (R603). -/
def Obligations.MovToRegCompletes : Prop :=
  (∀ (r : Reg8) (src : RM Reg8) (s s1 : State) (p : Place),
    place8 .read src s = .ok p s1 → p.plain s1 → s.lockOk false →
    Completes (.movR8Rm8 r src) s s1 (s1.setReg8 r (p.value s1)).done []) ∧
  (∀ (r : Reg) (src : RM Reg) (s s1 : State) (p : Place),
    place s.osz .read src s = .ok p s1 → p.plain s1 → s.lockOk false →
    Completes (.movRRm r src) s s1 (s1.setReg s.osz r (p.value s1)).done []) ∧
  (∀ (off : Word) (s s1 : State) (p : Place),
    place8 .read (.mem (.abs32 off)) s = .ok p s1 → p.plain s1 → s.lockOk false →
    Completes (.movAlMoffs8 off) s s1 (s1.setReg8 .al (p.value s1)).done []) ∧
  (∀ (off : Word) (s s1 : State) (p : Place),
    place s.osz .read (.mem (.abs32 off)) s = .ok p s1 → p.plain s1 → s.lockOk false →
    Completes (.movEaxMoffs off) s s1 (s1.setReg s.osz .eax (p.value s1)).done []) ∧
  (∀ (r : Reg8) (v : Byte) (s : State), s.lockOk false →
    exec (.movR8Imm8 r v) s = .next (s.setReg8 r (v.setWidth 32)).done) ∧
  (∀ (r : Reg) (v : Word) (s : State), s.lockOk false →
    exec (.movRImm r v) s = .next (s.setReg s.osz r v).done)

/-- MOV in every form, and MOVNTI, with an operand in the local APIC's register page: one aligned 32-bit load or store is an
access to the register there (R484, R485), and stops as that access does; any other, of one or two bytes too, is refused. What
the registers then hold and answer: the writable bits of ID, LDR, DFR, SVR, ICR, the timer's counts and divider (R489, R529,
R530, R548, R520, R515, R516); the LVT entries, whose delivery status stays (R508 to R512), written with a vector from 16 on
while software enabled; a write to the ESR takes the errors since the last one (R514); clearing the SVR's enable flag masks
every LVT entry (R551); of the read-only registers, the version (30H), the PPR (A0H), the first slots of ISR, TMR and IRR (100H,
180H, 200H) and the current count (390H) ignore writes (the model's choice, log 24); all slots of ISR, TMR and IRR read as R543
says; a read of the EOI register is refused (R546). A write to the ICR's low half sends the IPI (R520, R524): a fixed one to
this processor is logged in IRR as edge triggered (R538), one to another processor leaves on the bus. That the self-interrupt
is delivered internally, at once and without a bus event, is the model's choice (R524 allows that or the bus; log 43). A tick
counts the timer down, and at 0 an unmasked entry's interrupt is logged, and the count reloaded in periodic mode (R517, R538).
Not stated: writes to the APR and to slots 1 to 7, and to LVT entries with a vector below 16 or while software disabled. -/
def Obligations.MovApicPage : Prop :=
  (∀ (f : MovForm) (s s1 : State) (pas : List Nat), f.present s → s.lockOk false →
    f.dst s s = .ok (.mem pas) s1 → ¬ s1.plain pas →
    (isApicSlot pas = true →
      (∀ t, apicWrite (pas.headD 0 % 4096) (f.src s) s1 = .ok () t → exec f.instr s = .next t.done) ∧
      (∀ r t, apicWrite (pas.headD 0 % 4096) (f.src s) s1 = .error (.refuse r) t → exec f.instr s = .refused r)) ∧
    (isApicSlot pas = false → exec f.instr s = .refused .apicAccess)) ∧
  (∀ (i : Instr) (r : Reg) (src : RM Reg) (s s1 : State) (pas : List Nat), s.lockOk false →
    (i = .movRRm r src ∨ ∃ off, i = .movEaxMoffs off ∧ r = .eax ∧ src = .mem (.abs32 off)) →
    place s.osz .read src s = .ok (.mem pas) s1 → ¬ s1.plain pas →
    (isApicSlot pas = true →
      (∀ v t, apicRead (pas.headD 0 % 4096) s1 = .ok v t → exec i s = .next (t.setReg s.osz r v).done) ∧
      (∀ e t, apicRead (pas.headD 0 % 4096) s1 = .error (.refuse e) t → exec i s = .refused e)) ∧
    (isApicSlot pas = false → exec i s = .refused .apicAccess)) ∧
  (∀ (i : Instr) (src : RM Reg8) (s s1 : State) (pas : List Nat), s.lockOk false →
    ((∃ r, i = .movR8Rm8 r src) ∨ ∃ off, i = .movAlMoffs8 off ∧ src = .mem (.abs32 off)) →
    place8 .read src s = .ok (.mem pas) s1 → ¬ s1.plain pas → exec i s = .refused .apicAccess) ∧
  (∀ (s : State) (v : Word),
    let a := s.apic
    let vec := v.toNat % 256
    let reads (off : Nat) (w : Word) : Prop := apicRead off s = .ok w s
    let writes (off : Nat) (b : Apic) : Prop := apicWrite off v s = .ok () { s with apic := b }
    let svr : Word := if s.isXapic then v &&& 0x1FF#32 else (v &&& 0x3FF#32) ||| 0xF#32
    let entry (old mask : Word) : Word := (old &&& 0x1000#32) ||| (v &&& mask)
    (∀ off ∈ [0x30, 0xA0, 0x100, 0x180, 0x200, 0x390], writes off a) ∧
    writes 0x20 { a with id := v &&& (if s.isXapic then 0xFF000000#32 else 0x0F000000#32) } ∧ reads 0x20 a.id ∧
    writes 0xD0 { a with ldr := v &&& 0xFF000000#32 } ∧ reads 0xD0 a.ldr ∧
    writes 0xE0 { a with dfr := v ||| 0x0FFFFFFF#32 } ∧ reads 0xE0 a.dfr ∧
    (bit v 8 = true → writes 0xF0 { a with svr := svr }) ∧ reads 0xF0 a.svr ∧
    (bit v 8 = false → writes 0xF0 { a with
      svr := svr
      lvtTimer := a.lvtTimer ||| 0x10000#32, lvtThermal := a.lvtThermal ||| 0x10000#32
      lvtPerf := a.lvtPerf ||| 0x10000#32, lvtLint0 := a.lvtLint0 ||| 0x10000#32
      lvtLint1 := a.lvtLint1 ||| 0x10000#32, lvtError := a.lvtError ||| 0x10000#32 }) ∧
    writes 0x280 { a with esr := a.errs, errs := 0#8 } ∧ reads 0x280 (a.esr.setWidth 32) ∧
    writes 0x310 { a with icrHi := v &&& 0xFF000000#32 } ∧ reads 0x310 a.icrHi ∧
    writes 0x380 { a with initCount := v, curCount := v } ∧ reads 0x380 a.initCount ∧ reads 0x390 a.curCount ∧
    writes 0x3E0 { a with divide := v &&& 0xB#32 } ∧ reads 0x3E0 a.divide ∧
    apicRead 0xB0 s = .error (.refuse .apicEoiRead) s ∧
    (∀ k, k < 8 → ∃ i q m, reads (0x100 + 16 * k) i ∧ reads (0x180 + 16 * k) m ∧ reads (0x200 + 16 * k) q ∧
      ∀ j, j < 32 → i.getLsbD j = a.isr.getLsbD (32 * k + j) ∧ m.getLsbD j = a.tmr.getLsbD (32 * k + j) ∧
        q.getLsbD j = a.irr.getLsbD (32 * k + j)) ∧
    (bit a.svr 8 = true → 16 ≤ vec →
      writes 0x320 { a with lvtTimer := entry a.lvtTimer 0x300FF#32 } ∧
      (s.cfg.family = .p4Xeon → writes 0x330 { a with lvtThermal := entry a.lvtThermal 0x107FF#32 }) ∧
      (s.cfg.family = .p4Xeon ∨ s.cfg.family = .p6 →
        writes 0x340 { a with lvtPerf := entry a.lvtPerf 0x107FF#32 }) ∧
      (∃ r n, apicWrite 0x350 v s =
        .ok () { s with free := n, apic := { a with lvtLint0 := setBit (entry a.lvtLint0 0x1A7FF#32) 14 r } }) ∧
      (∃ r n, apicWrite 0x360 v s =
        .ok () { s with free := n, apic := { a with lvtLint1 := setBit (entry a.lvtLint1 0x1A7FF#32) 14 r } }) ∧
      writes 0x370 { a with lvtError := entry a.lvtError 0x100FF#32 }) ∧
    (∃ w0 w1 w2 w3, reads 0x320 w0 ∧ reads 0x350 w1 ∧ reads 0x360 w2 ∧ reads 0x370 w3 ∧
      ∀ k, k ≠ 12 → bit w0 k = bit a.lvtTimer k ∧ bit w1 k = bit a.lvtLint0 k ∧ bit w2 k = bit a.lvtLint1 k ∧
        bit w3 k = bit a.lvtError k) ∧
    (s.isXapic = true → 16 ≤ vec → field v 8 3 = 0 →
      let icr := v &&& 0x000CCFFF#32
      (field v 18 2 = 1 → s.apicSoft = true → writes 0x300 { a with
        icrLo := icr, irr := a.irr ||| (1#256 <<< vec), tmr := a.tmr &&& ~~~(1#256 <<< vec) }) ∧
      (field v 18 2 = 0 → bit v 11 = false → field a.icrHi 24 8 ≠ s.apicId → field a.icrHi 24 8 ≠ 255 →
        apicWrite 0x300 v s = .ok () { s with
          apic := { a with icrLo := icr, busWait := true }
          bus := s.bus ++ [.ipi (a.icrHi &&& 0xFF000000#32) ((icr ||| 0x4000#32) &&& 0xFFFF7FFF#32)] })) ∧
    (s.apicOn = true →
      (a.curCount = 0#32 → timerTick s = .ok () s) ∧
      (1 < a.curCount.toNat → timerTick s = .ok () { s with apic := { a with curCount := a.curCount - 1#32 } }) ∧
      (a.curCount = 1#32 →
        let n := if bit a.lvtTimer 17 then a.initCount else 0#32
        let k := a.lvtTimer.toNat % 256
        (bit a.lvtTimer 16 = true → timerTick s = .ok () { s with apic := { a with curCount := n } }) ∧
        (bit a.lvtTimer 16 = false → s.isXapic = true → 16 ≤ k →
          timerTick s = .ok () { s with apic := { a with
            curCount := n, irr := a.irr ||| (1#256 <<< k), tmr := a.tmr &&& ~~~(1#256 <<< k)
            lvtTimer := a.lvtTimer &&& 0xFFFFEFFF#32 } }))))

/-- LEA without a LOCK prefix loads the effective offset alone, at operand size, without any access or check (R605), and
clears RF (R24, log 11); with the prefix it is #UD (R351); a register operand is no encoding of it. -/
def Obligations.LeaCompletes : Prop :=
  (∀ (r : Reg) (m : Mem) (s : State),
    (s.locked = false → exec (.lea r m) s = .next (s.setReg s.osz r (effAddr s.gpr m)).done) ∧
    (s.locked = true → exec (.lea r m) s = takeException .ud s)) ∧
  (∀ (c : DecodeCtx) (b : Byte) (bs : List Byte), 192 ≤ b.toNat → decode c (0x8D#8 :: b :: bs) = .invalid)

/-- XCHG exchanges its operands, changes no flag but RF, and needs no LOCK prefix for its memory form (R606, R350). -/
def Obligations.XchgCompletes : Prop :=
  (∀ (dst : RM Reg8) (r : Reg8) (s s1 : State) (p : Place),
    place8 .write dst s = .ok p s1 → p.plain s1 → s.lockOk dst.isMem →
    Completes (.xchgRm8R8 dst r) s s1 ((p.put s1 (s.gpr.read8 r)).setReg8 r (p.value s1)).done p.bytes) ∧
  (∀ (dst : RM Reg) (r : Reg) (s s1 : State) (p : Place),
    place s.osz .write dst s = .ok p s1 → p.plain s1 → s.lockOk dst.isMem →
    Completes (.xchgRmR dst r) s s1 ((p.put s1 (s.gpr.read s.osz r)).setReg s.osz r (p.value s1)).done p.bytes) ∧
  (∀ (r : Reg) (s : State), s.lockOk false →
    exec (.xchgEaxR r) s =
      .next ((s.setReg s.osz r (s.gpr.read s.osz .eax)).setReg s.osz .eax (s.gpr.read s.osz r)).done)

/-- XADD leaves the old destination in the register and the sum in the destination, with ADD's flags (R620). The
destination is written last. -/
def Obligations.XaddCompletes : Prop :=
  (∀ (dst : RM Reg8) (r : Reg8) (s s1 : State) (p : Place),
    s.cfg.family ≠ .i386 → place8 .write dst s = .ok p s1 → p.plain s1 → s.lockOk dst.isMem →
    let a := p.value s1
    let b := s.gpr.read8 r
    Completes (.xaddRm8R8 dst r) s s1
      (((p.put (s1.setReg8 r a) (addRes .b a b false)).withFlags (addFlags .b a b false s.eflags)).done) p.bytes) ∧
  (∀ (dst : RM Reg) (r : Reg) (s s1 : State) (p : Place),
    s.cfg.family ≠ .i386 → place s.osz .write dst s = .ok p s1 → p.plain s1 → s.lockOk dst.isMem →
    let a := p.value s1
    let b := s.gpr.read s.osz r
    Completes (.xaddRmR dst r) s s1
      (((p.put (s1.setReg s.osz r a) (addRes s.osz a b false)).withFlags
        (addFlags s.osz a b false s.eflags)).done) p.bytes)

/-- CMPXCHG compares the accumulator with the destination, with CMP's flags: equal, the destination takes the source;
else the accumulator takes the destination, which is written with its own value (R621).
CMPXCHG8B does so with EDX:EAX and the quadword, ECX:EBX the source; it changes ZF alone (R622). -/
def Obligations.CmpxchgCompletes : Prop :=
  (∀ (dst : RM Reg8) (r : Reg8) (s s1 : State) (p : Place),
    s.cfg.family ≠ .i386 → place8 .write dst s = .ok p s1 → p.plain s1 → s.lockOk dst.isMem →
    let t := p.value s1
    let a := s.gpr.read8 .al
    let u := s1.withFlags (subFlags .b a t false s.eflags)
    Completes (.cmpxchgRm8R8 dst r) s s1
      (if a = t then p.put u (s.gpr.read8 r) else p.put (u.setReg8 .al t) t).done p.bytes) ∧
  (∀ (dst : RM Reg) (r : Reg) (s s1 : State) (p : Place),
    s.cfg.family ≠ .i386 → place s.osz .write dst s = .ok p s1 → p.plain s1 → s.lockOk dst.isMem →
    let t := p.value s1
    let a := s.gpr.read s.osz .eax
    let u := s1.withFlags (subFlags s.osz a t false s.eflags)
    Completes (.cmpxchgRmR dst r) s s1
      (if a = t then p.put u (s.gpr.read s.osz r) else p.put (u.setReg s.osz .eax t) t).done p.bytes) ∧
  (∀ (m : Mem) (s s1 : State) (pas : List Nat),
    s.cfg.family ≠ .i386 → s.cfg.family ≠ .i486 → memAddrs m 8 8 .write s = .ok pas s1 → s1.plain pas →
    let t := s1.valueAt pas
    Completes (.cmpxchg8b m) s s1
      (if s.gpr.edx.toNat * 2 ^ 32 + s.gpr.eax.toNat = t then
        ((s1.storeAt pas (s.gpr.ecx.toNat * 2 ^ 32 + s.gpr.ebx.toNat)).withFlags { s.eflags with zf := true }).done
      else
        (({ s1.storeAt pas t with
          gpr := { s.gpr with edx := BitVec.ofNat 32 (t / 2 ^ 32), eax := BitVec.ofNat 32 t } } : State).withFlags
            { s.eflags with zf := false }).done) pas)

/-! ## Segment registers and the stack -/

/-- SLDT, STR, SMSW and MOV from a segment register store the selector (or the low half of CR0): 16 bits in memory, zero
extended to the operand size in a register (R226, R228, R229, R234; log 9). An alignment check asks for an address divisible by
4 of SLDT and STR, by 2 of the others (R88). -/
def Obligations.StoreSelectorCompletes : Prop :=
  ∀ (k : SelSource) (s : State), k.present s → s.lockOk false →
    (∀ r, exec (k.instr (.reg r)) s = .next (s.setReg s.osz r ((k.value s).setWidth 32)).done) ∧
    (∀ m s1 pas, memAddrs m 2 k.align .write s = .ok pas s1 → s1.plain pas →
      Completes (k.instr (.mem m)) s s1 (s1.storeAt pas (k.value s).toNat).done pas)

/-- MOV and POP into a segment register complete when the load is allowed (R143, R229, R607): the register takes the
selector and the descriptor, a load of SS starts the shadow, memory is as before but for the accessed flag. In real-address
mode the base becomes the selector times 16 and the rest of the cache stays (the model's choice, log 8). -/
def Obligations.LoadSegmentCompletes : Prop :=
  (∀ (x : Seg) (src : RM Reg) (s s1 s2 : State) (p : Place) (r : SegReg) (bytes : List Nat),
    x ≠ .cs → s.lockOk false → place .w .read src s = .ok p s1 → p.plain s1 →
    SegLoads s1 x ((p.value s1).setWidth 16) r bytes s2 →
    exec (.movSregRm16 x src) s = .next (s2.segLoaded x r).done ∧ MemFrame s (s2.segLoaded x r).done bytes) ∧
  (∀ (x : Seg) (i : Instr) (s s1 s2 : State) (v : Word) (r : SegReg) (bytes : List Nat),
    popSegInstr x = some i → s.lockOk false → StackItem s s.osz 0 v s1 →
    SegLoads s1 x (v.setWidth 16) r bytes s2 →
    exec i s = .next ((s2.segLoaded x r).withEsp (s.popped s.osz.bytes)).done ∧
      MemFrame s ((s2.segLoaded x r).withEsp (s.popped s.osz.bytes)).done bytes)

/-- MOV into a segment register in protected mode, from a register or memory, raises the exceptions of R143: a null selector
in SS, a selector beyond the limit of its table (R131), a selector of another privilege level in SS, a segment that is not
readable, or whose privilege forbids it, #GP; a segment not present #SS or #NP, with the selector as the error code. MOV to
CS is #UD (R229). -/
def Obligations.LoadSegmentFaults : Prop :=
  ∀ (src : RM Reg) (s s0 s1 : State) (p : Place) (d : Desc), s.prot = true → s.lockOk false →
    exec (.movSregRm16 .cs src) s = takeException .ud s ∧
    (place .w .read src s = .ok p s0 → p.plain s0 →
      let sel : Half := (p.value s0).setWidth 16
      let code : Half := sel &&& 0xFFFC#16
      let beyond : Prop :=
        if sel.getLsbD 2 then isNull s.sys.ldtr.sel = true ∨ s.sys.ldtr.limit.toNat < sel.toNat / 8 * 8 + 7
        else s.sys.gdtr.limit.toNat < sel.toNat / 8 * 8 + 7
      (isNull sel = true → exec (.movSregRm16 .ss src) s = takeException (.gp 0#16) (rollback s s0)) ∧
      (isNull sel = false → beyond → ∀ x, x ≠ .cs →
        exec (.movSregRm16 x src) s = takeException (.gp code) (rollback s s0)) ∧
      (isNull sel = false → DescAt s0 sel d s1 →
        (¬ (rpl sel = s.cpl ∧ d.isWritable = true ∧ d.dpl = s.cpl) →
          exec (.movSregRm16 .ss src) s = takeException (.gp code) (rollback s s1)) ∧
        (rpl sel = s.cpl → d.isWritable = true → d.dpl = s.cpl → d.p = false →
          exec (.movSregRm16 .ss src) s = takeException (.ss code) (rollback s s1)) ∧
        (∀ x, x ≠ .ss → x ≠ .cs →
          (d.isReadable = false ∨ d.conforming = false ∧ ¬ (s.cpl ≤ d.dpl ∧ rpl sel ≤ d.dpl) →
            exec (.movSregRm16 x src) s = takeException (.gp code) (rollback s s1)) ∧
          (d.isReadable = true → d.conforming = true ∨ s.cpl ≤ d.dpl ∧ rpl sel ≤ d.dpl → d.p = false →
            exec (.movSregRm16 x src) s = takeException (.np code) (rollback s s1)))))

/-- PUSH and PUSHF complete: the value, read before ESP changes, is stored below the stack pointer, which moves down by the
operand size; no flag but RF changes (R607, R310). -/
def Obligations.PushCompletes : Prop :=
  (∀ (f : PushForm) (s s1 : State) (pas : List Nat) (esp : Word), s.lockOk false →
    pushPrep s.osz 1 s = .ok ([pas], esp) s1 → s1.plain pas →
    Completes f.instr s s1 ((s1.storeAt pas (f.value s).toNat).withEsp esp).done pas) ∧
  (∀ (src : RM Reg) (s s1 s2 : State) (p : Place) (pas : List Nat) (esp : Word), s.lockOk false →
    place s.osz .read src s = .ok p s1 → p.plain s1 → pushPrep s.osz 1 s1 = .ok ([pas], esp) s2 → s2.plain pas →
    Completes (.pushRm src) s s2 ((s2.storeAt pas (p.value s1).toNat).withEsp esp).done pas)

/-- PUSH of a 32-bit register on a 32-bit stack with paging off stores the register at SS.base + ESP - 4, four bytes,
least significant first, where there is memory (D9), and subtracts 4 from ESP; PUSH ESP stores the old ESP (R607, R83). -/
def Obligations.PushOnFlatStack : Prop :=
  ∀ (r : Reg) (s : State), s.lockOk false → s.osz = .d → s.pe = true → s.pg = false →
    let a := s.gpr.esp - 4#32
    let lin := s.segs.ss.base + a
    s.segs.ss.attr.db = true → s.segs.ss.canWrite = true → s.segs.ss.expandDown = false →
    a.toNat + 3 ≤ s.segs.ss.limit.toNat → lin.toNat + 4 ≤ 2 ^ 32 →
    (bit s.sys.cr0 18 = true → s.eflags.ac = true → s.cpl = 3 → lin.toNat % 4 = 0) →
    s.plain [lin.toNat, lin.toNat + 1, lin.toNat + 2, lin.toNat + 3] →
    Completes (.pushR r) s s
      ((s.storeAt [lin.toNat, lin.toNat + 1, lin.toNat + 2, lin.toNat + 3] (s.gpr.get r).toNat).withEsp a).done
      [lin.toNat, lin.toNat + 1, lin.toNat + 2, lin.toNat + 3] ∧
    ∃ t, exec (.pushR r) s = .next t ∧ t.gpr.esp = a ∧ ∀ k, k < 4 → inRam s (lin.toNat + k) = true →
      t.physByte (lin.toNat + k) = (s.gpr.get r).extractLsb' (8 * k) 8

/-- POP and POPF complete: the item at the stack pointer goes to the operand or to EFLAGS, the stack pointer moves up by
the operand size first, so that a memory operand is addressed with the new ESP and POP ESP keeps the item (R607, R308). That
POPF with a 16-bit image leaves AC and ID, as all of the upper half but RF, as they were is the model's reading (log 11): R308
says that they are written. -/
def Obligations.PopCompletes : Prop :=
  (∀ (dst : RM Reg) (s s1 s2 : State) (v : Word) (p : Place), s.lockOk false → StackItem s s.osz 0 v s1 →
    place s.osz .write dst (s1.withEsp (s.popped s.osz.bytes)) = .ok p s2 → p.plain s2 →
    exec (.popRm dst) s = .next (p.put s2 v).done ∧ SameButWalk s s1 ∧
      SameButWalk (s1.withEsp (s.popped s.osz.bytes)) s2 ∧ MemFrame s (p.put s2 v).done p.bytes) ∧
  (∀ (r : Reg) (s s1 : State) (v : Word), s.lockOk false → StackItem s s.osz 0 v s1 →
    Completes (.popR r) s s1 ((s1.withEsp (s.popped s.osz.bytes)).setReg s.osz r v).done []) ∧
  (∀ (s s1 : State) (v : Word), s.lockOk false → StackItem s s.osz 0 v s1 →
    Completes .popf s s1
      ((s1.withEsp (s.popped s.osz.bytes)).withFlags
        (popfFlags (s.osz == .w) s.cpl s.eflags v)).done [])

/-- BT, BTS, BTR, BTC complete in both forms: CF takes the selected bit, the operand keeps it, or has it set, cleared or
complemented, ZF stays; OF, SF, AF and PF are free values (R623; log 10). -/
def Obligations.BitInstructionsComplete : Prop :=
  ∀ (o : BitOp) (f : BitForm) (s s1 : State) (p : Place), s.lockOk (f.isMem && o != .bt) →
    f.dst s (if o = .bt then .read else .write) s = .ok p s1 → p.plain s1 →
    let v := p.value s1
    let k := f.index s
    let u := if o = .bt then s1 else p.put s1 (o.after v k)
    Completes (f.instr o) s s1
      ((u.used 4).withFlags
        { s.eflags with
          cf := bit v k
          ovf := Config.freeBit s1.free
          sf := Config.freeBit (s1.free + 1)
          af := Config.freeBit (s1.free + 2)
          pf := Config.freeBit (s1.free + 3) }).done
      (if o = .bt then [] else p.bytes)

/-! ## Near control transfers, NOP, prefixes -/

/-- JMP, Jcc and JECXZ go to a target within the code segment, when their condition holds, else on to the next
instruction; a target beyond the limit is #GP(0). No register changes but EIP, no flag but RF (R630, R631). -/
def Obligations.NearJumpsComplete : Prop :=
  ∀ (s : State), s.lockOk false →
    let jumps (i : Instr) (taken : Prop) (d : Word) : Prop :=
      let t := s.target (s.ctx.nextEip + d)
      (taken → s.inCode t → exec i s = .next (s.goto t)) ∧
      (taken → ¬ s.inCode t → exec i s = takeException (.gp 0#16) s) ∧
      (¬ taken → exec i s = .next s.done)
    (∀ b, jumps (.jmpRel8 b) True (b.signExtend 32)) ∧
    (∀ w, jumps (.jmpRel32 w) True (s.rel w)) ∧
    (∀ c b, jumps (Cc.jcc8 c b) (c.when s.eflags) (b.signExtend 32)) ∧
    (∀ c w, jumps (Cc.jcc32 c w) (c.when s.eflags) (s.rel w)) ∧
    (∀ b, jumps (.jecxzRel8 b) ((if s.dctx.asz16 then s.gpr.ecx &&& 0xFFFF#32 else s.gpr.ecx) = 0#32)
      (b.signExtend 32)) ∧
    (∀ src s1 p, place s.osz .read src s = .ok p s1 → p.plain s1 →
      (s.inCode (s.target (p.value s1)) → Completes (.jmpRm32 src) s s1 (s1.goto (s.target (p.value s1))) []) ∧
      (¬ s.inCode (s.target (p.value s1)) → exec (.jmpRm32 src) s = takeException (.gp 0#16) (rollback s s1)))

/-- Near CALL pushes the address of the next instruction and goes to its target (R632); near RET takes its target from the
stack and releases the bytes of its immediate (R633). -/
def Obligations.NearCallsAndReturnsComplete : Prop :=
  (∀ (w : Word) (s s1 : State) (pas : List Nat) (esp : Word), s.lockOk false →
    let t := s.target (s.ctx.nextEip + s.rel w)
    s.inCode t → pushPrep s.osz 1 s = .ok ([pas], esp) s1 → s1.plain pas →
    Completes (.callRel32 w) s s1 (((s1.storeAt pas s.ctx.nextEip.toNat).withEsp esp).goto t) pas) ∧
  (∀ (src : RM Reg) (s s1 s2 : State) (p : Place) (pas : List Nat) (esp : Word), s.lockOk false →
    place s.osz .read src s = .ok p s1 → p.plain s1 →
    let t := s.target (p.value s1)
    s.inCode t → pushPrep s.osz 1 s1 = .ok ([pas], esp) s2 → s2.plain pas →
    Completes (.callRm32 src) s s2 (((s2.storeAt pas s.ctx.nextEip.toNat).withEsp esp).goto t) pas) ∧
  (∀ (n : Half) (s s1 : State) (v : Word), s.lockOk false → StackItem s s.osz 0 v s1 → s.inCode (s.target v) →
    Completes .ret s s1 ((s1.withEsp (s.popped s.osz.bytes)).goto (s.target v)) [] ∧
    Completes (.retImm16 n) s s1 ((s1.withEsp (s.popped (s.osz.bytes + n.toNat))).goto (s.target v)) [])

/-- NOP, PAUSE, and, where the implementation has them, LFENCE, MFENCE and SFENCE only go on to the next instruction,
clearing RF (R634, R381, R360, R361, R362; log 60). CLFLUSH does so too, and writes back the line of 64 bytes that holds its
operand: later an INVD cannot lose those bytes (R368, R366; log 14). -/
def Obligations.NoEffectCompletes : Prop :=
  ∀ (s : State) (m : Mem), s.lockOk false →
    exec .nop s = .next s.done ∧ exec .pause s = .next s.done ∧
    (s.cfg.hasSse = true → exec .sfence s = .next s.done) ∧
    (s.cfg.family = .p4Xeon →
      exec .lfence s = .next s.done ∧ exec .mfence s = .next s.done ∧
      let lin := (s.segs.get (s.memSeg m)).base + effAddr s.gpr m
      (∀ p t, translate lin .read false s = .ok p t →
        ∃ wb, exec (.clflush m) s = .next (State.done { s with memWb := wb }) ∧
          ∀ a, wb.read a = if a / 64 = p / 64 then s.mem.read a else s.memWb.read a) ∧
      (∀ e t, translate lin .read false s = .error e t → exec (.clflush m) s = .next s.done))

/-- Each of the eleven prefixes records itself for the instruction that follows and changes nothing else (R201, R202,
R351). -/
def Obligations.PrefixesComplete : Prop :=
  ∀ (s : State) (i : Instr) (f : Pfx → Pfx), (i, f) ∈ prefixEffects →
    exec i s = .next { s with ctx := { s.ctx with pfx := f s.ctx.pfx } }

/-! ## Far transfers, interrupts, exceptions -/

/-- Far JMP completes (R282, R284, R288, R570): CS takes the segment at the current privilege level, EIP the offset,
memory stays but for an accessed flag. To a TSS or through a task gate it switches tasks (R321, R326): the old task's state
is saved in its TSS and its busy flag cleared, the new task's is loaded and its busy flag set; the monitor is disarmed (log
40). That the switch is made also where it names the current task itself, its busy flag cleared by software, and that the
PDPTEs are read before the old task's state is saved, is the model's choice (log 23; R320, R326). -/
def Obligations.FarJumpCompletes : Prop :=
  ∀ (f : FarForm) (s s1 t : State) (sel : Half) (off : Word) (bytes : List Nat), s.lockOk false →
    f.pointer s sel off s1 →
    (FarJumps s1 sel (s.osz.trunc off) t bytes ∨
      s.prot = true ∧ ∃ tss s2, TaskTarget s1 sel tss s2 ∧
        Switches .jmp tss ⟨s.segs.cs.sel, s.ctx.nextEip, s.eflags.rf⟩ false s2 t bytes) →
    exec (match f with | .ptr x o => .jmpPtr1632 x o | .mem m => .jmpM1632 m) s = .next t ∧ MemFrame s t bytes

/-- Far CALL completes, in real-address mode, to a code segment, through a call gate at the same level, or through one to an
inner level, which switches stacks and copies the parameters (R283 to R287); to a TSS or through a task gate it switches to a
nested task, linked to the old one, which stays busy (R321, R326). It disarms the monitor (R385). A nested task returns before
the handlers for which events are held (R409, log 27). That the pushes on an inner stack are not checked for alignment, the
order of their checks, and that ESP is zero-extended from a 16-bit TSS, are read from the rules (log 22); the hidden parts of
registers that a task switch has not loaded are free values (log 23). That the switch is made also where it names the current
task itself, its busy flag cleared by software, and that the PDPTEs are read before the old task's state is saved, is the model's
choice (log 23; R320, R326). -/
def Obligations.FarCallCompletes : Prop :=
  ∀ (f : FarForm) (s s1 t : State) (sel : Half) (off : Word) (bytes : List Nat), s.lockOk false →
    f.pointer s sel off s1 →
    (FarCalls s1 sel (s.osz.trunc off) t bytes ∨
      s.prot = true ∧ ∃ tss s2, TaskTarget s1 sel tss s2 ∧
        Switches .call tss ⟨s.segs.cs.sel, s.ctx.nextEip, s.eflags.rf⟩ false s2 t bytes) →
    exec (match f with | .ptr x o => .callPtr1632 x o | .mem m => .callM1632 m) s = .next (disarm t) ∧
      MemFrame s (disarm t) bytes

/-- Far RET completes, in real-address mode, to the same privilege level, or to an outer one with its stack (R289, R290).
That a return to an outer level with 16-bit operands zero-extends the popped SP is the model's reading (log 22). -/
def Obligations.FarReturnCompletes : Prop :=
  (∀ (s t : State) (bytes : List Nat), s.lockOk false → FarReturns s (fun a b => b = a) s.osz 2 0 t bytes →
    exec .retFar s = .next (t.goto t.eip) ∧ MemFrame s t bytes) ∧
  (∀ (n : Half) (s t : State) (bytes : List Nat), s.lockOk false → FarReturns s (fun a b => b = a) s.osz 2 n.toNat t bytes →
    exec (.retFarImm16 n) s = .next (t.goto t.eip) ∧ MemFrame s t bytes)

/-- IRET completes: outside a nested task CS, EIP and EFLAGS come from the stack, SS and ESP too on a return to an outer
level (R296, R309), where 16-bit operands zero-extend the popped SP (the model's reading, log 22); a 16-bit image leaves AC, ID,
VIF and VIP as they were and clears RF (the model's reading, log 11: R309 does not say it). In a nested task (NT = 1) it
switches back to the task its TSS links to (R321, R326), the hidden parts of registers not loaded being free values (log 23),
the PDPTEs read before the old task's state is saved (the model's choice, log 23), and the monitor disarmed (log 40). That a
link which names the current task itself, busy, is followed too, and leaves that task's descriptor available, is the model's
choice (log 23; R320 says that a task cannot switch to itself). NMIs are recognised again (R406), and the events that were held
for the return from this handler are attempted again (R409, log 27). -/
def Obligations.IretCompletes : Prop :=
  (∀ (s t : State) (image : Word) (bytes : List Nat), s.lockOk false →
    (s.pe = true → s.eflags.nt = false ∧ s.eflags.vm = false) →
    ¬ (s.pe = true ∧ s.osz = .d ∧ bit image 17 = true ∧ s.cpl = 0) →
    FarReturns s (fun a b => StackItem a s.osz (2 * s.osz.bytes) image b) s.osz 3 0 t bytes →
    exec .iret s =
      .next { t with
        eflags := iretFlags (s.osz == .w) s.cpl s.eflags image
        pend := afterHandler s.pend } ∧
    MemFrame s t bytes) ∧
  (∀ (s s1 t : State) (link : Nat) (bytes : List Nat), s.lockOk false → s.prot = true → s.eflags.nt = true →
    SysItem s s.sys.tr.base 2 link s1 →
    Switches .iret (BitVec.ofNat 16 link) ⟨s.segs.cs.sel, s.ctx.nextEip, s.eflags.rf⟩ false
      { s1 with pend := afterHandler s1.pend } t bytes →
    exec .iret s = .next t ∧ MemFrame s t bytes)

/-- An interrupt or exception is delivered (R420 to R428): through the vector table in real-address mode; through an
interrupt or trap gate at the same level; or to an inner level, on the stack the TSS names. The frame holds SS and ESP of
an outer level, EFLAGS, CS, EIP and an error code; the handler's flags have TF, NT, RF, VM cleared, and IF behind an
interrupt gate. Through a task gate it is a switch to a nested task, which then takes the error code on its stack; hidden
parts of registers not loaded are then free values (log 23). That the pushes on an inner stack are not checked for alignment,
those on a CPL 3 stack are, and that ESP is zero-extended from a 16-bit TSS, is the model's reading (log 22); that every event
disarms the monitor is its choice (log 40), and so is a task gate's switch to the current task itself, its busy flag cleared
by software (log 23; R320), and that the PDPTEs are read before the old task's state is saved (log 23). Events that were held
wait for one handler more (R409, log 27). -/
def Obligations.EventDelivery : Prop :=
  (∀ (ev : Event) (s t : State) (bytes : List Nat), Delivers ev s t bytes →
    takeEvent ev s = .next (t.taken ev.kind) ∧ MemFrame s t bytes) ∧
  (∀ (ev : Event) (g : Desc) (s s1 t : State) (bytes : List Nat), TaskGateFor ev s g s1 →
    Switches .int g.gateSel ev.resume ev.ext s1 t bytes →
    (ev.code = none → takeEvent ev s = .next (t.awakened ev.kind) ∧ MemFrame s t bytes) ∧
    (∀ c pas esp u, ev.code = some c →
      pushPlaces t.segs.ss (.ss (zeroCode ev.ext)) (t.cpl == 3) (if t.sys.tr.attr.typ.getLsbD 3 then .d else .w) 1
        t.gpr.esp t = .ok ([pas], esp) u → u.plain pas →
      let v := ((u.storeAt pas c.toNat).withEsp esp).awakened ev.kind
      takeEvent ev s = .next v ∧ MemFrame s v (bytes ++ pas)))

/-- INT n, INT3 and INTO with OF = 1 deliver a software interrupt that saves the next instruction's address (R292, R293,
R294); INTO with OF = 0 does nothing. Delivery in real-address mode (log 8), and that they disarm the monitor (log 40), are
the model's choice. -/
def Obligations.SoftwareInterruptsComplete : Prop :=
  (∀ (v : Byte) (i : Instr) (s t : State) (bytes : List Nat), s.lockOk false →
    (i = .intImm8 v ∨ i = .int3 ∧ v = 3#8 ∨ i = .into ∧ v = 4#8 ∧ s.eflags.ovf = true) →
    Delivers ⟨v, .soft, none, ⟨s.segs.cs.sel, s.ctx.nextEip, s.eflags.rf⟩⟩ s t bytes →
    exec i s = .next (t.taken .soft) ∧ MemFrame s t bytes) ∧
  (∀ (s : State), s.lockOk false → s.eflags.ovf = false → exec .into s = .next s.done)

/-- BOUND goes on when the signed register lies within the two bounds in memory, else it raises #BR (R295). -/
def Obligations.BoundChecks : Prop :=
  ∀ (r : Reg) (m : Mem) (s s1 s2 : State) (p q : List Nat), s.lockOk false →
    memAddrs m s.osz.bytes s.osz.bytes .read s = .ok p s1 →
    memAddrsAt m (BitVec.ofNat 32 s.osz.bytes) s.osz.bytes s.osz.bytes .read s1 = .ok q s2 →
    s2.plain p → s2.plain q →
    let x := s.signed (s.gpr.read s.osz r)
    let lo := s.signed (BitVec.ofNat 32 (s2.valueAt p))
    let hi := s.signed (BitVec.ofNat 32 (s2.valueAt q))
    (lo ≤ x → x ≤ hi → Completes (.bound r m) s s2 s2.done []) ∧
    (x < lo ∨ hi < x → exec (.bound r m) s = takeException .br (rollback s s2))

/-- UD2 raises #UD, and RDPMC, without a counter to read, #GP(0), whatever ECX and the privilege level (R209, R241; that no
counter exists is the model's choice, log 17): the fault saves the address of the instruction and RF = 1 (R404, R426). Its
delivery in real-address mode is the model's choice (log 8). -/
def Obligations.AlwaysRaise : Prop :=
  (∀ (s : State), exec .ud2 s = takeException .ud s) ∧
  (∀ (s : State), s.lockOk false → exec .rdpmc s = takeException (.gp 0#16) s) ∧
  (∀ (s t : State) (bytes : List Nat), Delivers ⟨6#8, .exception, none, ⟨s.segs.cs.sel, s.eip, true⟩⟩ s t bytes →
    exec .ud2 s = .next (t.taken .exception)) ∧
  (∀ (s t : State) (bytes : List Nat), s.lockOk false →
    Delivers ⟨13#8, .exception, some 0#32, ⟨s.segs.cs.sel, s.eip, true⟩⟩ s t bytes →
    exec .rdpmc s = .next (t.taken .exception))

/-- SYSENTER enters level 0 (R300): CS and SS are flat segments from SYSENTER_CS_MSR, EIP and ESP come from their MSRs,
VM, IF and RF are cleared, the monitor is disarmed (R385); without the feature #UD (R436), before the #GP(0) outside
protected mode or for a null selector (that order is the model's choice, log 33). -/
def Obligations.SysenterCompletes : Prop :=
  ∀ (s : State), s.lockOk false →
    let sel : Half := s.msr.sysenterCs.setWidth 16
    (s.cfg.hasSep = false → exec .sysenter s = takeException .ud s) ∧
    (s.cfg.hasSep = true → s.pe = false ∨ isNull sel = true → exec .sysenter s = takeException (.gp 0#16) s) ∧
    (s.cfg.hasSep = true → s.pe = true → isNull sel = false →
      exec .sysenter s = .next { disarm s with
        eflags := { s.eflags with vm := false, intf := false, rf := false }
        segs := { s.segs with
          cs := flat (sel &&& 0xFFFC#16) 0xB#4 0#2
          ss := flat ((sel &&& 0xFFFC#16) + 8#16) 0x3#4 0#2 }
        eip := s.msr.sysenterEip.setWidth 32
        gpr := { s.gpr with esp := s.msr.sysenterEsp.setWidth 32 } })

/-- SYSEXIT returns to level 3 (R301): CS and SS are flat segments from SYSENTER_CS_MSR + 16 and + 24, EIP is EDX, ESP is
ECX, RF is cleared as by every completed instruction (R24, log 11), the monitor is disarmed (R385); without the feature #UD
(R436), before the #GP(0) outside protected mode, at another level than 0, or for a null selector (that order is the model's
choice, log 33). -/
def Obligations.SysexitCompletes : Prop :=
  ∀ (s : State), s.lockOk false →
    let sel : Half := s.msr.sysenterCs.setWidth 16
    (s.cfg.hasSep = false → exec .sysexit s = takeException .ud s) ∧
    (s.cfg.hasSep = true → s.pe = false ∨ s.cpl ≠ 0 ∨ isNull sel = true →
      exec .sysexit s = takeException (.gp 0#16) s) ∧
    (s.cfg.hasSep = true → s.pe = true → s.cpl = 0 → isNull sel = false →
      exec .sysexit s = .next { disarm s with
        eflags := { s.eflags with rf := false }
        segs := { s.segs with
          cs := flat ((sel + 16#16) ||| 3#16) 0xB#4 3#2
          ss := flat ((sel + 24#16) ||| 3#16) 0x3#4 3#2 }
        eip := s.gpr.edx
        gpr := { s.gpr with esp := s.gpr.ecx } })

/-! ## System registers -/

/-- LGDT and LIDT at level 0 load the limit and the base of a pseudo-descriptor; with a 16-bit operand size the base is
cut to 24 bits (R221, R223, R133). SGDT and SIDT store them at any privilege level; with a 16-bit operand size the top
byte of the stored base is a free value (R222, R224; log 10). What alignment they need at CPL 3 (the limit 2, the base at +2 4)
is the model's reading (log 22). -/
def Obligations.DescriptorTableRegisters : Prop :=
  (∀ (m : Mem) (s s1 s2 : State) (p q : List Nat), s.lockOk false → s.cpl = 0 →
    memAddrs m 2 2 .read s = .ok p s1 → memAddrsAt m 2#32 4 4 .read s1 = .ok q s2 → s2.plain p → s2.plain q →
    let base := if s.osz = .w then s2.valueAt q % 2 ^ 24 else s2.valueAt q
    let t : TableReg := ⟨BitVec.ofNat 32 base, BitVec.ofNat 16 (s2.valueAt p)⟩
    Completes (.lgdt m) s s2 (State.done { s2 with sys := { s2.sys with gdtr := t } }) [] ∧
    Completes (.lidt m) s s2 (State.done { s2 with sys := { s2.sys with idtr := t } }) []) ∧
  (∀ (m : Mem) (s s1 s2 : State) (p q : List Nat), s.lockOk false →
    memAddrs m 2 2 .write s = .ok p s1 → memAddrsAt m 2#32 4 4 .write s1 = .ok q s2 → s2.plain p → s2.plain q →
    let stored (t : TableReg) : State :=
      let top := (Config.freeWord s2.free).toNat % 2 ^ 8
      if s.osz = .w then
        ((s2.used 1).storeAt p t.limit.toNat).storeAt q (t.base.toNat % 2 ^ 24 + top * 2 ^ 24)
      else (s2.storeAt p t.limit.toNat).storeAt q t.base.toNat
    Completes (.sgdt m) s s2 (stored s.sys.gdtr).done (p ++ q) ∧
    Completes (.sidt m) s s2 (stored s.sys.idtr).done (p ++ q))

/-- LLDT and LTR at level 0 in protected mode (R225, R227): LDTR takes a null selector alone, or the LDT descriptor the
selector names in the GDT; TR takes an available TSS, which is marked busy in memory. -/
def Obligations.LoadLdtrAndTrComplete : Prop :=
  ∀ (src : RM Reg) (s s1 : State) (p : Place), s.lockOk false → s.prot = true → s.cpl = 0 →
    place .w .read src s = .ok p s1 → p.plain s1 →
    let sel : Half := (p.value s1).setWidth 16
    (isNull sel = true →
      Completes (.lldt src) s s1
        (State.done { s1 with sys := { s1.sys with ldtr := { s1.sys.ldtr with sel := sel } } }) []) ∧
    (∀ d s2, isNull sel = false → sel.getLsbD 2 = false → DescAt s1 sel d s2 → d.isSys 2 = true → d.p = true →
      Completes (.lldt src) s s2 (State.done { s2 with sys := { s2.sys with ldtr := d.toSegReg sel } }) []) ∧
    (∀ d s2 s3 lin b, isNull sel = false → sel.getLsbD 2 = false → DescAt s1 sel d s2 →
      d.isSys 1 = true ∨ d.isSys 9 = true → d.p = true → s.descAddr sel = some lin →
      linAddrs (lin + 5#32) 1 .write false s2 = .ok b s3 → s3.plain b →
      Completes (.ltr src) s s3
        (State.done { s3.storeAt b ((d.hi ||| 0x200#32).toNat / 256 % 256) with
          sys := { s3.sys with tr := Desc.toSegReg { d with hi := d.hi ||| 0x200#32 } sel } }) b)

/-- MOV from a control register at level 0 copies it; the status flags become free values (R230; log 10). -/
def Obligations.ReadControlRegister : Prop :=
  ∀ (r : Reg) (c : CrN) (s : State), s.lockOk false → s.cpl = 0 →
    exec (.movR32Crn r c) s = .next
      (((s.setReg .d r (match c with
        | .cr0 => s.sys.cr0 | .cr2 => s.sys.cr2 | .cr3 => s.sys.cr3 | .cr4 => s.sys.cr4)).used 6).withFlags
        { s.eflags with
          cf := Config.freeBit s.free
          pf := Config.freeBit (s.free + 1)
          af := Config.freeBit (s.free + 2)
          zf := Config.freeBit (s.free + 3)
          sf := Config.freeBit (s.free + 4)
          ovf := Config.freeBit (s.free + 5) }).done

/-- Writes to CR0, CR2, CR3, CR4 at level 0, by MOV, LMSW and CLTS (R232, R233, R235, R180, R183, R385): the writable
bits change, the TLB loses what the rules say, the monitor is disarmed, but by CLTS and a write to CR2; forbidden combinations
are #GP(0). That CLTS leaves it armed is the model's choice (log 40: R385 does not name it). A write that turns
PAE paging on, or writes CR3 under it, loads the four PDPTEs (R161), and is #GP(0) if a present one has a reserved bit set
(R157). Which HAS_ parameters CR4.TSD, OSFXSR and OSXMMEXCPT need is the model's choice (log 38). -/
def Obligations.WriteControlRegister : Prop :=
  ∀ (r : Reg) (s : State), s.lockOk false → s.cpl = 0 →
    let v := s.gpr.get r
    let flip (old : Word) (k : Nat) : Prop := bit old k ≠ bit v k
    let at0 (cr3 : Word) (k : Nat) : Nat := cr3.toNat / 2 ^ 5 * 2 ^ 5 + 8 * k
    let pdpte (cr3 : Word) (k : Nat) : Nat := s.physRead (at0 cr3 k) 8
    let reserved (e : Nat) : Prop :=
      e.testBit 0 = true ∧ (2 ^ 36 ≤ e ∨ e / 2 ^ 5 % 2 ^ 4 ≠ 0 ∨ e / 2 % 2 ^ 2 ≠ 0)
    let seen (cr3 : Word) : Prop := ∀ k, k < 4 → s.inApic (at0 cr3 k) = false
    let good (load : Bool) (cr3 : Word) : Prop :=
      load = true → seen cr3 ∧ ∀ k, k < 4 → ¬ reserved (pdpte cr3 k)
    let bad (load : Bool) (cr3 : Word) : Prop := load = true ∧ seen cr3 ∧ ∃ k, k < 4 ∧ reserved (pdpte cr3 k)
    let loaded (load : Bool) (cr3 : Word) : State :=
      if load then { s with sys := { s.sys with
        pdpte0 := BitVec.ofNat 64 (pdpte cr3 0), pdpte1 := BitVec.ofNat 64 (pdpte cr3 1)
        pdpte2 := BitVec.ofNat 64 (pdpte cr3 2), pdpte3 := BitVec.ofNat 64 (pdpte cr3 3) } }
      else s
    let load0 := bit v 31 && !s.pg && bit s.sys.cr4 5
    let load3 := s.pg && bit s.sys.cr4 5
    let load4 := bit v 5 && !bit s.sys.cr4 5 && s.pg
    let legal0 := (bit v 31 = true → bit v 0 = true) ∧ (bit v 29 = true → bit v 30 = true)
    let legal4 := v.toNat < 2 ^ 11 ∧ (bit v 2 = true → s.cfg.hasTsc = true) ∧ (bit v 4 = true → s.cfg.hasPse = true) ∧
      (bit v 5 = true → s.cfg.hasPae = true) ∧ (bit v 6 = true → s.cfg.hasMce = true) ∧
      (bit v 7 = true → s.cfg.hasPge = true) ∧ (bit v 9 = true ∨ bit v 10 = true → s.cfg.hasSse = true)
    (¬ legal0 ∨ bad load0 s.sys.cr3 → exec (.movCrnR32 .cr0 r) s = takeException (.gp 0#16) s) ∧
    (legal0 → good load0 s.sys.cr3 →
      let s1 := loaded load0 s.sys.cr3
      exec (.movCrnR32 .cr0 r) s = .next (State.done (disarm { s1 with
        sys := { s1.sys with cr0 := (s.sys.cr0 &&& 0x1FFAFFD0#32) ||| (v &&& 0xE005002F#32) ||| 0x10#32 }
        tlb := if flip s.sys.cr0 31 ∨ flip s.sys.cr0 0 ∨ flip s.sys.cr0 16 then [] else s.tlb }))) ∧
    exec (.movCrnR32 .cr2 r) s = .next (State.done { s with sys := { s.sys with cr2 := v } }) ∧
    (bad load3 v → exec (.movCrnR32 .cr3 r) s = takeException (.gp 0#16) s) ∧
    (good load3 v →
      let s1 := loaded load3 v
      exec (.movCrnR32 .cr3 r) s = .next (State.done (disarm { s1 with
        sys := { s1.sys with cr3 := v }, tlb := s.tlb.filter fun e => e.global && bit s.sys.cr4 7 }))) ∧
    (¬ legal4 ∨ bad load4 s.sys.cr3 → exec (.movCrnR32 .cr4 r) s = takeException (.gp 0#16) s) ∧
    (legal4 → good load4 s.sys.cr3 →
      let s1 := loaded load4 s.sys.cr3
      exec (.movCrnR32 .cr4 r) s = .next (State.done (disarm { s1 with
        sys := { s1.sys with cr4 := v }
        tlb := if flip s.sys.cr4 4 ∨ flip s.sys.cr4 5 ∨ flip s.sys.cr4 7 then [] else s.tlb }))) ∧
    (∀ src s1 p, place .w .read src s = .ok p s1 → p.plain s1 →
      let w := p.value s1
      Completes (.lmsw src) s s1 (State.done (disarm { s1 with
        sys := { s1.sys with cr0 := (s1.sys.cr0 &&& 0xFFFFFFF1#32) ||| (w &&& 0xF#32) }
        tlb := if s.pe = false ∧ bit w 0 = true then [] else s1.tlb })) []) ∧
    exec .clts s = .next (State.done { s with sys := { s.sys with cr0 := s.sys.cr0 &&& 0xFFFFFFF7#32 } })

/-- MOV to and from a debug register at level 0 copies it; DR4 and DR5 name DR6 and DR7, and are #UD when CR4.DE = 1
(R236). -/
def Obligations.DebugRegisterMoves : Prop :=
  ∀ (r : Reg) (d : DrN) (s : State), s.lockOk false → s.cpl = 0 →
    ((d = .dr4 ∨ d = .dr5) → bit s.sys.cr4 3 = true →
      exec (.movR32Drn r d) s = takeException .ud s ∧ exec (.movDrnR32 d r) s = takeException .ud s) ∧
    (¬ ((d = .dr4 ∨ d = .dr5) ∧ bit s.sys.cr4 3 = true) →
      exec (.movR32Drn r d) s = .next (s.setReg .d r (match d with
        | .dr0 => s.sys.dr0 | .dr1 => s.sys.dr1 | .dr2 => s.sys.dr2 | .dr3 => s.sys.dr3
        | .dr4 => s.sys.dr6 | .dr5 => s.sys.dr7 | .dr6 => s.sys.dr6 | .dr7 => s.sys.dr7)).done ∧
      exec (.movDrnR32 d r) s = .next (State.done { s with sys := match d with
        | .dr0 => { s.sys with dr0 := s.gpr.get r }
        | .dr1 => { s.sys with dr1 := s.gpr.get r }
        | .dr2 => { s.sys with dr2 := s.gpr.get r }
        | .dr3 => { s.sys with dr3 := s.gpr.get r }
        | .dr4 => { s.sys with dr6 := s.gpr.get r }
        | .dr5 => { s.sys with dr7 := s.gpr.get r }
        | .dr6 => { s.sys with dr6 := s.gpr.get r }
        | .dr7 => { s.sys with dr7 := s.gpr.get r } }))

/-- CLI and STI (R306, R307): with CPL ≤ IOPL they clear and set IF, and STI that sets it from 0 starts the shadow of one
instruction, in which no maskable request is accepted; at level 3 with CR4.PVI they clear and set VIF, #GP(0) for STI with
VIP = 1; else #GP(0). -/
def Obligations.InterruptFlagInstructions : Prop :=
  ∀ (s : State), s.lockOk false →
    (s.cpl ≤ s.iopl →
      exec .cli s = .next (s.withFlags { s.eflags with intf := false }).done ∧
      exec .sti s = .next (State.done { s with
        eflags := { s.eflags with intf := true }
        act := { s.act with shadow := if s.eflags.intf then s.act.shadow else .sti } })) ∧
    (s.iopl < s.cpl → s.prot = true → bit s.sys.cr4 1 = true → s.cpl = 3 →
      exec .cli s = .next (s.withFlags { s.eflags with vif := false }).done ∧
      (s.eflags.vip = false → exec .sti s = .next (s.withFlags { s.eflags with vif := true }).done) ∧
      (s.eflags.vip = true → exec .sti s = takeException (.gp 0#16) s)) ∧
    (s.iopl < s.cpl → ¬ (s.prot = true ∧ bit s.sys.cr4 1 = true ∧ s.cpl = 3) →
      exec .cli s = takeException (.gp 0#16) s ∧ exec .sti s = takeException (.gp 0#16) s) ∧
    (s.act.shadow = .sti → ∀ q, s.request = some q → q = .nmi)

/-- RDMSR, WRMSR, RDTSC and CPUID (R238, R239, R240, R243, R45, R487): a 64-bit register is EDX:EAX, an MSR that is not
implemented is #GP(0), IA32_APIC_BASE before the P6 family too (R487, log 32); on the P6 family a write to the time-stamp
counter clears its upper half; a write to IA32_APIC_BASE keeps the BSP flag, and #GP(0) for a reserved bit. CPUID's leaves 0, 1
and 5 hold the words R243 and D13 state, with the feature bits of the parameters; an input above the highest leaf answers as
that leaf. That WRMSR stores all 64 bits of a SYSENTER MSR, that bits 63:36, 10:9 and 7:0 of IA32_APIC_BASE are the reserved
ones that raise #GP(0), and which MSRs exist without their feature, are the model's choices (log 32); so are the CPUID words
the spec does not state (log 13) and that the Pentium 4 is the first with CLFLUSH (bit 19, log 14). -/
def Obligations.MsrAccess : Prop :=
  ∀ (s : State), s.lockOk false →
    let pair (q : Quad) : State :=
      { s with gpr := { s.gpr with edx := q.extractLsb' 32 32, eax := q.extractLsb' 0 32 } }
    let v : Quad := s.gpr.edx ++ s.gpr.eax
    let i := s.gpr.ecx
    (s.cfg.hasTsc = true → bit s.sys.cr4 2 = false ∨ s.cpl = 0 → exec .rdtsc s = .next (pair s.msr.tsc).done) ∧
    (s.cfg.hasTsc = true → bit s.sys.cr4 2 = true → s.cpl ≠ 0 → exec .rdtsc s = takeException (.gp 0#16) s) ∧
    (s.cfg.hasMsr = true → s.cpl = 0 →
      let fromP6 : Prop := s.cfg.family = .p6 ∨ s.cfg.family = .p4Xeon
      let named : List Word := [0x10#32, 0x1B#32, 0x174#32, 0x175#32, 0x176#32]
      let present := (i = 0x10#32 ∧ s.cfg.hasTsc = true) ∨ (i = 0x1B#32 ∧ s.cfg.hasApic = true ∧ fromP6) ∨
        (i ∈ [0x174#32, 0x175#32, 0x176#32] ∧ s.cfg.hasSep = true) ∨ (i ∉ named ∧ (s.msr.extra.lookup i).isSome = true)
      (¬ present → exec .rdmsr s = takeException (.gp 0#16) s ∧ exec .wrmsr s = takeException (.gp 0#16) s) ∧
      (i = 0x10#32 → s.cfg.hasTsc = true →
        exec .rdmsr s = .next (pair s.msr.tsc).done ∧
        exec .wrmsr s = .next (State.done { s with msr := { s.msr with
          tsc := if s.cfg.family = .p6 then v &&& 0xFFFFFFFF#64 else v } })) ∧
      (i = 0x1B#32 → s.cfg.hasApic = true → fromP6 →
        exec .rdmsr s = .next (pair s.msr.apicBase).done ∧
        (v &&& 0xFFFFFFF0000006FF#64 ≠ 0#64 → exec .wrmsr s = takeException (.gp 0#16) s) ∧
        (v &&& 0xFFFFFFF0000006FF#64 = 0#64 → (v.getLsbD 11 = true → s.apic.disabled = false) →
          exec .wrmsr s = .next (State.done { s with
            msr := { s.msr with
              apicBase := (v &&& 0xFFFFFFFFFFFFFEFF#64) ||| (s.msr.apicBase &&& 0x100#64) }
            apic := { s.apic with disabled := s.apic.disabled || !v.getLsbD 11 } }))) ∧
      (s.cfg.hasSep = true →
        (i = 0x174#32 → exec .rdmsr s = .next (pair s.msr.sysenterCs).done ∧
          exec .wrmsr s = .next (State.done { s with msr := { s.msr with sysenterCs := v } })) ∧
        (i = 0x175#32 → exec .rdmsr s = .next (pair s.msr.sysenterEsp).done ∧
          exec .wrmsr s = .next (State.done { s with msr := { s.msr with sysenterEsp := v } })) ∧
        (i = 0x176#32 → exec .rdmsr s = .next (pair s.msr.sysenterEip).done ∧
          exec .wrmsr s = .next (State.done { s with msr := { s.msr with sysenterEip := v } }))) ∧
      (∀ q, i ∉ named → s.msr.extra.lookup i = some q →
        exec .rdmsr s = .next (pair q).done ∧
        exec .wrmsr s = .next (State.done { s with msr := { s.msr with
          extra := s.msr.extra.map fun x => if x.1 == i then (i, v) else x } }))) ∧
    ∃ eax ebx ecx edx : Word,
      exec .cpuid s = .next (State.done
        { s with gpr := { s.gpr with eax := eax, ebx := ebx, ecx := ecx, edx := edx } }) ∧
      let leaf := min s.cfg.maxLeaf s.gpr.eax.toNat
      (leaf = 0 → eax = BitVec.ofNat 32 s.cfg.maxLeaf ∧ ebx = 0x756E6547#32 ∧ edx = 0x49656E69#32 ∧
        ecx = 0x6C65746E#32) ∧
      (leaf = 1 →
        eax = s.cfg.signature ∧ ebx.extractLsb' 24 8 = s.cfg.initialApicId ∧
        ebx.extractLsb' 16 8 = BitVec.ofNat 8 s.cfg.nLogical ∧
        bit ecx 0 = s.cfg.hasSse3 ∧ bit ecx 3 = s.cfg.hasMonitor ∧
        bit edx 3 = s.cfg.hasPse ∧ bit edx 4 = s.cfg.hasTsc ∧ bit edx 5 = s.cfg.hasMsr ∧ bit edx 6 = s.cfg.hasPae ∧
        bit edx 7 = s.cfg.hasMce ∧ bit edx 8 = decide (s.cfg.family ≠ .i386 ∧ s.cfg.family ≠ .i486) ∧
        bit edx 9 = (s.cfg.hasApic && s.msr.apicBase.getLsbD 11) ∧ bit edx 11 = s.cfg.hasSep ∧
        bit edx 13 = s.cfg.hasPge ∧ bit edx 16 = s.cfg.hasPat ∧ bit edx 17 = s.cfg.hasPse36 ∧
        bit edx 19 = decide (s.cfg.family = .p4Xeon) ∧ bit edx 23 = s.cfg.hasMmx ∧ bit edx 25 = s.cfg.hasSse ∧
        bit edx 26 = s.cfg.hasSse2 ∧ bit edx 28 = s.cfg.hasHtt) ∧
      (leaf = 5 → eax = BitVec.ofNat 32 s.cfg.monitorLineMin ∧ ebx = BitVec.ofNat 32 s.cfg.monitorLineMax ∧
        ecx = 0#32 ∧ edx = 0#32) ∧
      (leaf ∉ [0, 1, 5] → (eax, ebx, ecx, edx) = Config.cpuidLeaf (BitVec.ofNat 32 leaf))

/-! ## Pointer validation -/

/-- LAR, LSL, VERR, VERW in protected mode (R260 to R264): for a descriptor that can be seen, is of a type the instruction
accepts and passes the privilege check, ZF is set and LAR or LSL loads its register; else ZF is cleared and nothing else
changes. Bits 19:16 of LAR's 32-bit result are a free value (log 10). -/
def Obligations.DescriptorQueriesComplete : Prop :=
  ∀ (r : Reg) (src : RM Reg) (s s1 : State) (p : Place), s.lockOk false → s.prot = true →
    place .w .read src s = .ok p s1 → p.plain s1 →
    let sel : Half := (p.value s1).setWidth 16
    let zf (t : State) (b : Bool) : State := (t.withFlags { s.eflags with zf := b }).done
    (isNull sel = true ∨ s.descAddr sel = none → ∀ i ∈ [Instr.lar r src, .lsl r src, .verr src, .verw src],
      Completes i s s1 (zf s1 false) []) ∧
    (∀ d s2, isNull sel = false → DescAt s1 sel d s2 →
      let priv := d.conforming = true ∨ s.cpl ≤ d.dpl ∧ rpl sel ≤ d.dpl
      let lar := (d.s = true ∨ d.typ ∈ [1, 2, 3, 4, 5, 9, 11, 12]) ∧ priv
      let lsl := (d.s = true ∨ d.typ ∈ [1, 2, 3, 9, 11]) ∧ priv
      (lar → s.osz = .w →
        Completes (.lar r src) s s2 (zf (s2.setReg .w r (d.hi &&& 0xFF00#32)) true) []) ∧
      (lar → s.osz = .d →
        Completes (.lar r src) s s2
          (zf ((s2.used 1).setReg .d r
            ((d.hi &&& 0x00F0FF00#32) ||| (Config.freeWord s2.free &&& 0x000F0000#32))) true) []) ∧
      (¬ lar → Completes (.lar r src) s s2 (zf s2 false) []) ∧
      (lsl → Completes (.lsl r src) s s2 (zf (s2.setReg s.osz r (BitVec.ofNat 32 d.limit)) true) []) ∧
      (¬ lsl → Completes (.lsl r src) s s2 (zf s2 false) []) ∧
      Completes (.verr src) s s2 (zf s2 (decide (d.isReadable = true ∧ priv))) [] ∧
      Completes (.verw src) s s2 (zf s2 (decide (d.isWritable = true ∧ priv))) [])

/-- ARPL in protected mode (R265): a destination whose RPL is lower than the source's takes the source's RPL and ZF is
set; else ZF is cleared and the destination stays. That a destination in memory passes its write check, which may set its
page's dirty flag, also where it stays is the model's choice (log 33). -/
def Obligations.ArplCompletes : Prop :=
  ∀ (dst : RM Reg) (r : Reg) (s s1 : State) (p : Place), s.lockOk false → s.prot = true →
    place .w .write dst s = .ok p s1 → p.plain s1 →
    let d := p.value s1
    let q := s.gpr.read .w r
    (d.toNat % 4 < q.toNat % 4 →
      Completes (.arpl dst r) s s1
        ((p.put s1 ((d &&& 0xFFFC#32) ||| (q &&& 3#32))).withFlags { s.eflags with zf := true }).done p.bytes) ∧
    (q.toNat % 4 ≤ d.toNat % 4 →
      Completes (.arpl dst r) s s1 (s1.withFlags { s.eflags with zf := false }).done [])

/-! ## Caches, waiting, SMM, floating point, I/O -/

/-- INVLPG, INVD, WBINVD at level 0 (R365, R366, R367, R181): INVLPG drops the page's translations, global ones too; WBINVD
writes all modified bytes back; INVD leaves each byte of WB memory as it is or as it was last written back (a free choice,
log 14), any other byte as it is. -/
def Obligations.CacheAndTlbInstructions : Prop :=
  ∀ (m : Mem) (s : State), s.lockOk false → s.cpl = 0 →
    (s.cfg.family ≠ .i386 →
      let lin := (s.segs.get (s.memSeg m)).base + effAddr s.gpr m
      exec (.invlpg m) s = .next (State.done (disarm
        { s with tlb := s.tlb.filter fun e => decide (lin.toNat / 2 ^ e.bits ≠ e.page.toNat / 2 ^ e.bits) }))) ∧
    exec .wbinvd s = .next (State.done { s with memWb := s.mem }) ∧
    (∃ mem, (∀ a, mem.read a = s.mem.read a ∨ s.memType a = .wb ∧ mem.read a = s.memWb.read a) ∧
      exec .invd s = .next (State.done { s with mem := mem, memWb := mem, free := s.free + 1 }))

/-- HLT, MONITOR and MWAIT at level 0 (R378, R382, R383): HLT halts; MONITOR arms the aligned line that holds the byte at
DS:EAX, or at the override segment (whatever its memory type, the model's choice, log 40); MWAIT waits if the monitor is armed.
MONITOR and MWAIT are #UD at another level and #GP(0) with ECX not 0. -/
def Obligations.WaitInstructions : Prop :=
  ∀ (s : State), s.lockOk false →
    (s.cpl = 0 → exec .hlt s = .next (State.done { s with act := { s.act with halted := true } })) ∧
    (s.cfg.hasMonitor = true → s.cpl ≠ 0 →
      exec .monitor s = takeException .ud s ∧ exec .mwait s = takeException .ud s) ∧
    (s.cfg.hasMonitor = true → s.cpl = 0 → s.gpr.ecx ≠ 0#32 →
      exec .monitor s = takeException (.gp 0#16) s ∧ exec .mwait s = takeException (.gp 0#16) s) ∧
    (s.cfg.hasMonitor = true → s.cpl = 0 → s.gpr.ecx = 0#32 →
      exec .mwait s = .next (State.done { s with act := { s.act with mwaiting := s.act.monitor.isSome } }) ∧
      ∀ a s1, dataAddrs (s.ctx.pfx.seg.getD .ds) s.gpr.eax 1 1 .read s = .ok [a] s1 →
        Completes .monitor s s1
          (State.done { s1 with act := { s1.act with
            monitor := some ⟨a / s.cfg.monitorLineMin * s.cfg.monitorLineMin, s.cfg.monitorLineMin⟩ } }) [])

/-- RSM in SMM restores the registers that SMM entry saved, which are the model's choice (log 19); outside SMM it is #UD
(R390). -/
def Obligations.RsmRestores : Prop :=
  ∀ (s : State), s.lockOk false →
    (∀ p, s.smm = some p → exec .rsm s = .next
      { s with gpr := p.gpr, eip := p.eip, eflags := p.eflags, segs := p.segs, sys := p.sys, smm := none }) ∧
    (s.smm = none → exec .rsm s = takeException .ud s)

/-- FXSAVE, FXRSTOR, LDMXCSR, STMXCSR never complete (R212, R436, R437): #NM, then #UD, under their conditions, else the
model refuses them by name, as the spec gives their effect on the floating-point state nowhere (D4). That FXSAVE and FXRSTOR
are classed with the x87 instructions is the model's choice (log 17). -/
def Obligations.FpuStateStops : Prop :=
  ∀ (m : Mem) (s : State), s.lockOk false →
    let em := bit s.sys.cr0 2
    let ts := bit s.sys.cr0 3
    let sse := s.cfg.hasSse && !em && bit s.sys.cr4 9
    (∀ i ∈ [Instr.fxsave m, .fxrstor m],
      ((em || ts) = true → exec i s = takeException .nm s) ∧ ((em || ts) = false → exec i s = .refused .fpuState)) ∧
    (∀ i ∈ [Instr.ldmxcsr m, .stmxcsr m],
      (ts = true → exec i s = takeException .nm s) ∧
      (ts = false → sse = false → exec i s = takeException .ud s) ∧
      (ts = false → sse = true → exec i s = .refused .fpuState))

/-- IN and OUT complete where the port may be accessed (R608): IN loads the accumulator with what the platform answers, a
free value (log 12); OUT sends the accumulator to the platform. The port is an immediate or DX. Three clauses are the model's
and no rule's: that every port may be accessed in real-address mode (PRESUMED, log 12 and log 8), where in the bit map the bit
of a port lies, in a 32-bit TSS with the field 102 only (DEDUCED, log 12: the chapter is absent, N12), and that an access of 2
or 4 bytes that runs past port FFFFH (DX = FFFFH) completes (DESIGN CHOICE, log 12). -/
def Obligations.PortAccess : Prop :=
  ∀ (k : Byte) (s s1 : State), s.lockOk false →
    let n := s.osz.bytes
    let dx := s.gpr.edx.toNat % 2 ^ 16
    let inB (port : Nat) : State := ((s1.used 1).setReg8 .al (Sz.b.trunc (Config.ioRead port 1 s1.free))).done
    let inZ (port : Nat) : State :=
      ((s1.used 1).setReg s.osz .eax (s.osz.trunc (Config.ioRead port n s1.free))).done
    let outB (port : Nat) : State :=
      State.done { s1 with bus := s1.bus ++ [.ioWrite port 1 (s.gpr.read8 .al)] }
    let outZ (port : Nat) : State :=
      State.done { s1 with bus := s1.bus ++ [.ioWrite port n (s.gpr.read s.osz .eax)] }
    (IoAllowed s k.toNat 1 s1 →
      Completes (.inAlImm8 k) s s1 (inB k.toNat) [] ∧ Completes (.outImm8Al k) s s1 (outB k.toNat) []) ∧
    (IoAllowed s k.toNat n s1 →
      Completes (.inEaxImm8 k) s s1 (inZ k.toNat) [] ∧ Completes (.outImm8Eax k) s s1 (outZ k.toNat) []) ∧
    (IoAllowed s dx 1 s1 → Completes .inAlDx s s1 (inB dx) [] ∧ Completes .outDxAl s s1 (outB dx) []) ∧
    (IoAllowed s dx n s1 → Completes .inEaxDx s s1 (inZ dx) [] ∧ Completes .outDxEax s s1 (outZ dx) [])

/-! ## Traps -/

/-- The instructions that run at level 0 only raise #GP(0) at any other level (R220). -/
def Obligations.PrivilegedTraps : Prop :=
  ∀ (s : State) (r : Reg) (m : Mem) (c : CrN) (d : DrN) (src : RM Reg), s.lockOk false → s.cpl ≠ 0 →
    (∀ i ∈ [Instr.lgdt m, .lidt m, .lmsw src, .clts, .movR32Crn r c, .movCrnR32 c r, .invd, .wbinvd, .hlt],
      exec i s = takeException (.gp 0#16) s) ∧
    (s.cfg.family ≠ .i386 → exec (.invlpg m) s = takeException (.gp 0#16) s) ∧
    (bit s.sys.cr4 8 = false → exec .rdpmc s = takeException (.gp 0#16) s) ∧
    (s.cfg.hasTsc = true → bit s.sys.cr4 2 = true → exec .rdtsc s = takeException (.gp 0#16) s) ∧
    (bit s.sys.cr4 3 = false →
      exec (.movR32Drn r d) s = takeException (.gp 0#16) s ∧ exec (.movDrnR32 d r) s = takeException (.gp 0#16) s) ∧
    (s.cfg.hasMsr = true →
      exec .rdmsr s = takeException (.gp 0#16) s ∧ exec .wrmsr s = takeException (.gp 0#16) s) ∧
    (s.prot = true →
      exec (.lldt src) s = takeException (.gp 0#16) s ∧ exec (.ltr src) s = takeException (.gp 0#16) s)

/-- A LOCK prefix raises #UD on every instruction but those of R351 in the forms with a destination in memory; other
prefixes may follow it. That FXSAVE, FXRSTOR, LDMXCSR and STMXCSR raise it also while #NM is due is the model's choice (log 17):
R212 applies the #NM conditions of R437 first, and no rule orders the #UD of R351 against them. -/
def Obligations.LockTraps : Prop :=
  ∀ (i : Instr) (s : State), s.locked = true → mayLock i = false → (∀ p ∈ prefixEffects, i ≠ p.1) →
    exec i s = takeException .ud s

/-- An exception met while delivering an event (R409): while delivering #DF it shuts the processor down; two contributory
exceptions, or a page fault and then a contributory exception or a page fault, give a double fault with error code 0 and
an undefined saved CS and EIP (free values, R404, log 10); any other is delivered in place of the first. That shutdown drops the
debug traps that wait and the events that are held is no rule's: it is the model's choice (log 21) and its reading (log 27);
that it ends a halt and an MWAIT wait and disarms the monitor is its reading of R378 and R385 (log 30). The deliveries that
follow are those through interrupt and trap gates and, by the model's choice (log 8), in real-address mode, not those through a
task gate. -/
def Obligations.DoubleFaultRule : Prop :=
  ∀ (ev : Event) (e : Exc) (s s1 : State), deliverOnce ev s = .error (.raise e) s1 →
    let u := rollback s s1
    (ev.kind = .exception → ev.vector = 8#8 →
      takeEvent ev s = .next { u with
        act := { u.act with shutdown := true, halted := false, mwaiting := false, monitor := none }
        pend := { u.pend with taskTrap := false, stepTrap := false, held := [] }
        ctx := { u.ctx with delivered := true } }) ∧
    (toDoubleFault ev e → ∀ t bytes,
      Delivers ⟨8#8, .exception, some 0#32,
        ⟨(Config.freeWord (u.free + 1)).setWidth 16, Config.freeWord u.free, u.eflags.rf⟩⟩ { u with free := u.free + 2 } t bytes →
      takeEvent ev s = .next (t.taken .exception)) ∧
    (¬ toDoubleFault ev e → ¬ (ev.kind = .exception ∧ ev.vector = 8#8) → ∀ t bytes,
      Delivers ⟨e.vector, .exception, e.code, ⟨u.segs.cs.sel, u.eip, if e = .db then u.eflags.rf else true⟩⟩ u t bytes →
      takeEvent ev s = .next (t.taken .exception))

/-- The walk of page tables with an empty TLB (R151 to R165, R168, R172, R446): with 32-bit entries to a page of 4 KBytes,
or of 4 MBytes with CR4.PSE = 1; with CR4.PAE = 1 through the PDPTE that was loaded to a page of 4 KBytes or 2 MBytes. An entry
that is not present, has a reserved bit set (with 32-bit entries only while CR4.PSE = 1), or forbids the access, is a page
fault that loads CR2 with the linear address and reports presence, write, user and the reserved bit; else the physical address
is the page's with the offset, and in memory the accessed flag of each entry and on a write the dirty flag of the page are set
and nothing else changes. That an entry in the local APIC's page is refused is the model's choice (log 16), and so are that
the PAT bit of a large page is a reserved bit without PAT, and that bits 8 and 6 of a PAE entry for a page table are ignored
(log 37). -/
def Obligations.PageWalks : Prop :=
  ∀ (s : State) (lin : Word) (k : Access) (user : Bool), s.pe = true → s.pg = true → s.tlb = [] →
    let fault (bits : Nat) : Prop := translate lin k user s =
      .error (.raise (.pf (BitVec.ofNat 32 (bits + (if k = .write then 2 else 0) + (if user then 4 else 0)))))
        { s with sys := { s.sys with cr2 := lin } }
    let refused : Prop := translate lin k user s = .error (.refuse .apicAccess) s
    let maps (us rw : Bool) (phys : Nat) (sets : Nat → Byte) : Prop :=
      let forbidden := user = true ∧ us = false ∨ k = .write ∧ rw = false ∧ (user = true ∨ bit s.sys.cr0 16 = true)
      (forbidden → fault 1) ∧
      (¬ forbidden → ∃ s1, translate lin k user s = .ok phys s1 ∧ SameButWalk s s1 ∧
        ∀ a, s1.physByte a = s.physByte a ||| sets a)
    let sets (dir page : Nat) (a : Nat) : Byte :=
      (if a = dir then 0x20#8 else 0#8) ||| (if a = page then (if k = .write then 0x60#8 else 0x20#8) else 0#8)
    (bit s.sys.cr4 5 = false →
      let dirAddr := s.sys.cr3.toNat / 2 ^ 12 * 2 ^ 12 + lin.toNat / 2 ^ 22 * 4
      let pde := s.physRead dirAddr 4
      let tabAddr := pde / 2 ^ 12 * 2 ^ 12 + lin.toNat / 2 ^ 12 % 2 ^ 10 * 4
      let pte := s.physRead tabAddr 4
      let pse := bit s.sys.cr4 4 = true
      let large := pse ∧ pde.testBit 7 = true
      let largeReserved := (if s.cfg.hasPse36 then pde / 2 ^ 17 % 2 ^ 5 else pde / 2 ^ 13 % 2 ^ 9) ≠ 0 ∨
        s.cfg.hasPat = false ∧ pde.testBit 12 = true
      let high := if s.cfg.hasPse36 then pde / 2 ^ 13 % 2 ^ 4 else 0
      let reserved := pse ∧ s.cfg.hasPat = false ∧ pte.testBit 7 = true
      (s.inApic dirAddr = true → refused) ∧
      (s.inApic dirAddr = false →
        (pde.testBit 0 = false → fault 0) ∧
        (pde.testBit 0 = true → large → largeReserved → fault 9) ∧
        (pde.testBit 0 = true → large → ¬ largeReserved →
          maps (pde.testBit 2) (pde.testBit 1) (high * 2 ^ 32 + pde / 2 ^ 22 * 2 ^ 22 + lin.toNat % 2 ^ 22)
            (sets dirAddr dirAddr)) ∧
        (pde.testBit 0 = true → ¬ large →
          (pse → pde.testBit 6 = true → fault 9) ∧
          (¬ (pse ∧ pde.testBit 6 = true) →
            (s.inApic tabAddr = true → refused) ∧
            (s.inApic tabAddr = false →
              (pte.testBit 0 = false → fault 0) ∧
              (pte.testBit 0 = true → reserved → fault 9) ∧
              (pte.testBit 0 = true → ¬ reserved →
                maps (pde.testBit 2 && pte.testBit 2) (pde.testBit 1 && pte.testBit 1)
                  (pte / 2 ^ 12 * 2 ^ 12 + lin.toNat % 2 ^ 12) (sets dirAddr tabAddr))))))) ∧
    (bit s.sys.cr4 5 = true →
      let pdpte := (match lin.toNat / 2 ^ 30 with
        | 0 => s.sys.pdpte0 | 1 => s.sys.pdpte1 | 2 => s.sys.pdpte2 | _ => s.sys.pdpte3).toNat
      let dirAddr := pdpte / 2 ^ 12 % 2 ^ 24 * 2 ^ 12 + lin.toNat / 2 ^ 21 % 2 ^ 9 * 8
      let pde := s.physRead dirAddr 8
      let tabAddr := pde / 2 ^ 12 % 2 ^ 24 * 2 ^ 12 + lin.toNat / 2 ^ 12 % 2 ^ 9 * 8
      let pte := s.physRead tabAddr 8
      let large := pde.testBit 7 = true
      let reserved := 2 ^ 36 ≤ pde ∨
        large ∧ (pde / 2 ^ 13 % 2 ^ 8 ≠ 0 ∨ s.cfg.hasPat = false ∧ pde.testBit 12 = true)
      let pteReserved := 2 ^ 36 ≤ pte ∨ s.cfg.hasPat = false ∧ pte.testBit 7 = true
      (pdpte.testBit 0 = false → fault 0) ∧
      (pdpte.testBit 0 = true → s.inApic dirAddr = true → refused) ∧
      (pdpte.testBit 0 = true → s.inApic dirAddr = false →
        (pde.testBit 0 = false → fault 0) ∧
        (pde.testBit 0 = true → reserved → fault 9) ∧
        (pde.testBit 0 = true → ¬ reserved → large →
          maps (pde.testBit 2) (pde.testBit 1) (pde / 2 ^ 21 % 2 ^ 15 * 2 ^ 21 + lin.toNat % 2 ^ 21)
            (sets dirAddr dirAddr)) ∧
        (pde.testBit 0 = true → ¬ reserved → ¬ large →
          (s.inApic tabAddr = true → refused) ∧
          (s.inApic tabAddr = false →
            (pte.testBit 0 = false → fault 0) ∧
            (pte.testBit 0 = true → pteReserved → fault 9) ∧
            (pte.testBit 0 = true → ¬ pteReserved →
              maps (pde.testBit 2 && pte.testBit 2) (pde.testBit 1 && pte.testBit 1)
                (pte / 2 ^ 12 % 2 ^ 24 * 2 ^ 12 + lin.toNat % 2 ^ 12) (sets dirAddr tabAddr))))))

/-! ## The machine -/

/-- Decoding the encoding of a well-formed instruction gives it back, with every operand at every value, whatever bytes
follow (R201 to R213, R603 to R634). -/
def Obligations.DecodeEncode : Prop :=
  ∀ (c : DecodeCtx) (i : Instr) (rest : List Byte), i.wf c = true → decode c (encode c i ++ rest) = .instr i rest

/-- Some encodings written out from the spec's tables decode to their instructions. -/
def Obligations.KnownEncodings : Prop :=
  let c : DecodeCtx := ⟨true, Pfx.none⟩
  decode c [0x01#8, 0xC8#8] = .instr (.addRmR (.reg .eax) .ecx) [] ∧
  decode c [0x83#8, 0xC3#8, 0xFF#8] = .instr (.addRmImm8 (.reg .ebx) 0xFF#8) [] ∧
  decode c [0x8B#8, 0x44#8, 0x8E#8, 0x10#8] =
    .instr (.movRRm .eax (.mem (.sib .esi (some ⟨.ecx, .x4⟩) (.d8 0x10#8)))) [] ∧
  decode c [0xB8#8, 0x78#8, 0x56#8, 0x34#8, 0x12#8] = .instr (.movRImm .eax 0x12345678#32) [] ∧
  decode c [0x0F#8, 0x22#8, 0xC0#8] = .instr (.movCrnR32 .cr0 .eax) [] ∧
  decode c [0x0F#8, 0x01#8, 0x15#8, 0#8, 0x10#8, 0#8, 0#8] = .instr (.lgdt (.abs32 0x1000#32)) [] ∧
  decode c [0x0F#8, 0xC7#8, 0x0F#8] = .instr (.cmpxchg8b (.base32 .edi .none)) [] ∧
  decode c [0xEA#8, 0#8, 0#8, 1#8, 0#8, 8#8, 0#8] = .instr (.jmpPtr1632 8#16 0x10000#32) [] ∧
  decode c [0x0F#8, 0x01#8, 0xC8#8] = .instr .monitor [] ∧
  decode c [0x0F#8, 0xAE#8, 0xE8#8] = .instr .lfence [] ∧
  decode c [0xCF#8] = .instr .iret []

/-- Every step keeps memory and its written-back copy in the canonical form: addresses strictly rising, no byte that an
unlisted address reads as. -/
def Obligations.MemoryStaysCanonical : Prop :=
  ∀ (s t : State), s.memoryOk → step s = .next t → t.memoryOk

/-- Every step keeps CR0 and CR4 legal (R35, R39, R232): ET set, reserved bits 0, paging only in protected mode, NW only
with CD; the copies saved in SMM too. -/
def Obligations.ControlRegistersStayLegal : Prop :=
  ∀ (s t : State), s.legal → step s = .next t → t.legal

/-- Every step keeps bits 0 to 15 of IRR, ISR and TMR clear (R543, R518). -/
def Obligations.ApicVectorsStayLegal : Prop :=
  ∀ (s t : State), s.vectorsOk → step s = .next t → t.vectorsOk

/-- The three invariants hold after reset. -/
def Obligations.InvariantsAtReset : Prop :=
  State.reset.memoryOk ∧ State.reset.legal ∧ State.reset.vectorsOk

/-- A step at which no event is pending and no delivery goes on (log 42) runs the instruction at CS:EIP (R413, R207), or CS:IP
in a 16-bit segment (R23): the bytes there, on one page, outside the local APIC's page, decode to prefixes and an instruction of
some length, which run in turn from the state in which the next instruction's address is known; with one item, the step is
`exec` of it. With TF = 1 and the single-step trap modelled (log 21), an instruction that completes leaves the trap for the next
boundary (R431). -/
def Obligations.StepRunsInstruction : Prop :=
  ∀ (s t u : State) (p n len : Nat) (is : List Instr),
    boundary s = .ok () t → t.pend.delivering = none → t.act.waitSipi = false → t.pend.reattempt = none →
    t.pend.taskTrap = false →
    t.pend.init = false → t.pend.smi = false →
    t.stopped = false → t.pend.stepTrap = false → t.request = none → t.idle = false → t.v86 = false →
    let ip := t.eipMask t.eip
    n = min t.fetchRoom (4096 - (t.segs.cs.base + ip).toNat % 4096) → t.fetchRoom ≠ 0 →
    translate (t.segs.cs.base + ip) .exec (t.cpl == 3) t.clearShadow = .ok p u → u.plain (addrsFrom p n) →
    decodeInsn t.segs.cs.attr.db ((addrsFrom p n).map u.physByte) = .items is len →
    let start : State :=
      { u with
        eip := ip
        ctx := ⟨t.eipMask (t.eip + BitVec.ofNat 32 len), ⟨false, none, none, false, false⟩, false⟩ }
    (t.stepping = false → step s = runItems is start ∧ (∀ i, is = [i] → step s = exec i start)) ∧
    (t.stepping = true → ∀ w, runItems is start = .next w → w.ctx.delivered = false →
      step s = .next { w with pend := { w.pend with stepTrap := true } })

/-- The maskable request of the local APIC (R541 to R544): a vector is offered exactly if it is the highest of the IRR and its
priority class is above that of the processor priority, which is the higher of the task priority and the class of the
highest vector in service. While the APIC is enabled the core, with IF = 1, outside a shadow, with no NMI and no 8259A request,
accepts it unless it is held back (R409, log 27); accepting it moves the vector from IRR to ISR. A write to the TPR sets the
task priority; the EOI of the highest vector in service ends it, and sends an EOI message if its TMR bit is set (R546). -/
def Obligations.ApicOffersHighest : Prop :=
  (∀ (a : Apic) (v : Nat),
    (a.offer = some v ↔
      v < 256 ∧ a.irr.getLsbD v = true ∧ (∀ w, v < w → a.irr.getLsbD w = false) ∧
      a.tpr.toNat / 16 < v / 16 ∧ (∀ w, a.isr.getLsbD w = true → w / 16 < v / 16)) ∧
    (v < 256 → (a.dispense v).irr.getLsbD v = false ∧ (a.dispense v).isr.getLsbD v = true) ∧
    ∀ w, w ≠ v → (a.dispense v).irr.getLsbD w = a.irr.getLsbD w ∧ (a.dispense v).isr.getLsbD w = a.isr.getLsbD w) ∧
  (∀ (s : State) (v : Nat), s.apicOn = true → s.apic.offer = some v → s.pend.nmi = false → s.act.shadow = .none →
    s.intrLine = false → (∀ n, (Held.request (.apic (BitVec.ofNat 8 v)), n) ∉ s.pend.held) →
    s.request = (if s.eflags.intf then some (.apic (BitVec.ofNat 8 v)) else none) ∧
    (s.acknowledge (.apic (BitVec.ofNat 8 v))).apic = s.apic.dispense v) ∧
  (∀ (s : State) (x : Word),
    (s.apic.intr = none → apicWrite 0x80 x s = .ok () { s with apic := { s.apic with tpr := x.setWidth 8 } }) ∧
    ((∀ v, s.apic.isr.getLsbD v = false) → apicWrite 0xB0 x s = .ok () s) ∧
    (∀ v, s.apic.isr.getLsbD v = true → (∀ w, v < w → s.apic.isr.getLsbD w = false) →
      ∃ t, apicWrite 0xB0 x s = .ok () t ∧ t.apic.isr.getLsbD v = false ∧
        (∀ w, w ≠ v → t.apic.isr.getLsbD w = s.apic.isr.getLsbD w) ∧ t.apic.irr = s.apic.irr ∧
        t.apic.tmr = s.apic.tmr ∧ t.apic.tpr = s.apic.tpr ∧
        t.bus = if s.apic.tmr.getLsbD v then s.bus ++ [.eoi (BitVec.ofNat 8 v)] else s.bus))

/-- The registers right after power-up or RESET, for any implementation (R570, R571): the values the rule states; of the two
it allows for EAX, 0 is the model's choice (log 3). -/
def Obligations.ResetValues : Prop :=
  ∀ (c : Config.Params),
    let s := State.resetWith c
    s.eflags.toWord = 2#32 ∧ s.eip = 0xFFF0#32 ∧ s.sys.cr0 = 0x60000010#32 ∧ s.sys.cr2 = 0#32 ∧ s.sys.cr3 = 0#32 ∧
    s.sys.cr4 = 0#32 ∧
    s.segs.cs.sel = 0xF000#16 ∧ s.segs.cs.base = 0xFFFF0000#32 ∧ s.segs.cs.limit = 0xFFFF#32 ∧
    (∀ x, x ≠ .cs → (s.segs.get x).sel = 0#16 ∧ (s.segs.get x).base = 0#32 ∧ (s.segs.get x).limit = 0xFFFF#32) ∧
    s.gpr.edx = c.signature ∧
    s.gpr.eax = 0#32 ∧ s.gpr.ebx = 0#32 ∧ s.gpr.ecx = 0#32 ∧ s.gpr.esi = 0#32 ∧ s.gpr.edi = 0#32 ∧
    s.gpr.ebp = 0#32 ∧ s.gpr.esp = 0#32 ∧
    s.sys.gdtr = ⟨0#32, 0xFFFF#16⟩ ∧ s.sys.idtr = ⟨0#32, 0xFFFF#16⟩ ∧
    s.sys.ldtr.sel = 0#16 ∧ s.sys.ldtr.base = 0#32 ∧ s.sys.ldtr.limit = 0xFFFF#32 ∧
    s.sys.tr.sel = 0#16 ∧ s.sys.tr.base = 0#32 ∧ s.sys.tr.limit = 0xFFFF#32 ∧
    s.sys.dr0 = 0#32 ∧ s.sys.dr1 = 0#32 ∧ s.sys.dr2 = 0#32 ∧ s.sys.dr3 = 0#32 ∧
    s.sys.dr6 = 0xFFFF0FF0#32 ∧ s.sys.dr7 = 0x400#32 ∧ s.msr.tsc = 0#64 ∧
    s.msr.sysenterCs = 0#64 ∧ s.msr.sysenterEsp = 0#64 ∧ s.msr.sysenterEip = 0#64 ∧
    s.msr.apicBase = (if c.isBsp then 0xFEE00900#64 else 0xFEE00800#64) ∧ s.act.waitSipi = !c.isBsp ∧
    s.act.halted = false ∧ s.act.shutdown = false ∧ s.act.monitor = none ∧ s.tlb = [] ∧ s.segs.cs.base + s.eip = 0xFFFFFFF0#32
end

