-- ==== Sys2Proof/Laws/State.lean ====
section
/-! SUPPORT. One lemma a field of each update of the state, so that no proof unfolds a record update. -/
namespace Sys2Proof.Machine

/-! ### setReg -/

@[simp] theorem setReg_gpr (s : State) (z : Sz) (r : Reg) (v : Word) : (s.setReg z r v).gpr = s.gpr.write z r v := rfl
@[simp] theorem setReg_eip (s : State) (z : Sz) (r : Reg) (v : Word) : (s.setReg z r v).eip = s.eip := rfl
@[simp] theorem setReg_eflags (s : State) (z : Sz) (r : Reg) (v : Word) : (s.setReg z r v).eflags = s.eflags := rfl
@[simp] theorem setReg_segs (s : State) (z : Sz) (r : Reg) (v : Word) : (s.setReg z r v).segs = s.segs := rfl
@[simp] theorem setReg_sys (s : State) (z : Sz) (r : Reg) (v : Word) : (s.setReg z r v).sys = s.sys := rfl
@[simp] theorem setReg_msr (s : State) (z : Sz) (r : Reg) (v : Word) : (s.setReg z r v).msr = s.msr := rfl
@[simp] theorem setReg_fpu (s : State) (z : Sz) (r : Reg) (v : Word) : (s.setReg z r v).fpu = s.fpu := rfl
@[simp] theorem setReg_apic (s : State) (z : Sz) (r : Reg) (v : Word) : (s.setReg z r v).apic = s.apic := rfl
@[simp] theorem setReg_mem (s : State) (z : Sz) (r : Reg) (v : Word) : (s.setReg z r v).mem = s.mem := rfl
@[simp] theorem setReg_memWb (s : State) (z : Sz) (r : Reg) (v : Word) : (s.setReg z r v).memWb = s.memWb := rfl
@[simp] theorem setReg_tlb (s : State) (z : Sz) (r : Reg) (v : Word) : (s.setReg z r v).tlb = s.tlb := rfl
@[simp] theorem setReg_act (s : State) (z : Sz) (r : Reg) (v : Word) : (s.setReg z r v).act = s.act := rfl
@[simp] theorem setReg_pend (s : State) (z : Sz) (r : Reg) (v : Word) : (s.setReg z r v).pend = s.pend := rfl
@[simp] theorem setReg_smm (s : State) (z : Sz) (r : Reg) (v : Word) : (s.setReg z r v).smm = s.smm := rfl
@[simp] theorem setReg_ctx (s : State) (z : Sz) (r : Reg) (v : Word) : (s.setReg z r v).ctx = s.ctx := rfl
@[simp] theorem setReg_cfg (s : State) (z : Sz) (r : Reg) (v : Word) : (s.setReg z r v).cfg = s.cfg := rfl
@[simp] theorem setReg_bus (s : State) (z : Sz) (r : Reg) (v : Word) : (s.setReg z r v).bus = s.bus := rfl
@[simp] theorem setReg_inputs (s : State) (z : Sz) (r : Reg) (v : Word) : (s.setReg z r v).inputs = s.inputs := rfl
@[simp] theorem setReg_free (s : State) (z : Sz) (r : Reg) (v : Word) : (s.setReg z r v).free = s.free := rfl

/-! ### setReg8 -/

@[simp] theorem setReg8_gpr (s : State) (r : Reg8) (v : Word) : (s.setReg8 r v).gpr = s.gpr.write8 r v := rfl
@[simp] theorem setReg8_eip (s : State) (r : Reg8) (v : Word) : (s.setReg8 r v).eip = s.eip := rfl
@[simp] theorem setReg8_eflags (s : State) (r : Reg8) (v : Word) : (s.setReg8 r v).eflags = s.eflags := rfl
@[simp] theorem setReg8_segs (s : State) (r : Reg8) (v : Word) : (s.setReg8 r v).segs = s.segs := rfl
@[simp] theorem setReg8_sys (s : State) (r : Reg8) (v : Word) : (s.setReg8 r v).sys = s.sys := rfl
@[simp] theorem setReg8_msr (s : State) (r : Reg8) (v : Word) : (s.setReg8 r v).msr = s.msr := rfl
@[simp] theorem setReg8_fpu (s : State) (r : Reg8) (v : Word) : (s.setReg8 r v).fpu = s.fpu := rfl
@[simp] theorem setReg8_apic (s : State) (r : Reg8) (v : Word) : (s.setReg8 r v).apic = s.apic := rfl
@[simp] theorem setReg8_mem (s : State) (r : Reg8) (v : Word) : (s.setReg8 r v).mem = s.mem := rfl
@[simp] theorem setReg8_memWb (s : State) (r : Reg8) (v : Word) : (s.setReg8 r v).memWb = s.memWb := rfl
@[simp] theorem setReg8_tlb (s : State) (r : Reg8) (v : Word) : (s.setReg8 r v).tlb = s.tlb := rfl
@[simp] theorem setReg8_act (s : State) (r : Reg8) (v : Word) : (s.setReg8 r v).act = s.act := rfl
@[simp] theorem setReg8_pend (s : State) (r : Reg8) (v : Word) : (s.setReg8 r v).pend = s.pend := rfl
@[simp] theorem setReg8_smm (s : State) (r : Reg8) (v : Word) : (s.setReg8 r v).smm = s.smm := rfl
@[simp] theorem setReg8_ctx (s : State) (r : Reg8) (v : Word) : (s.setReg8 r v).ctx = s.ctx := rfl
@[simp] theorem setReg8_cfg (s : State) (r : Reg8) (v : Word) : (s.setReg8 r v).cfg = s.cfg := rfl
@[simp] theorem setReg8_bus (s : State) (r : Reg8) (v : Word) : (s.setReg8 r v).bus = s.bus := rfl
@[simp] theorem setReg8_inputs (s : State) (r : Reg8) (v : Word) : (s.setReg8 r v).inputs = s.inputs := rfl
@[simp] theorem setReg8_free (s : State) (r : Reg8) (v : Word) : (s.setReg8 r v).free = s.free := rfl

/-! ### setSeg -/

@[simp] theorem setSeg_gpr (s : State) (x : Seg) (r : SegReg) : (s.setSeg x r).gpr = s.gpr := rfl
@[simp] theorem setSeg_eip (s : State) (x : Seg) (r : SegReg) : (s.setSeg x r).eip = s.eip := rfl
@[simp] theorem setSeg_eflags (s : State) (x : Seg) (r : SegReg) : (s.setSeg x r).eflags = s.eflags := rfl
@[simp] theorem setSeg_segs (s : State) (x : Seg) (r : SegReg) : (s.setSeg x r).segs = s.segs.set x r := rfl
@[simp] theorem setSeg_sys (s : State) (x : Seg) (r : SegReg) : (s.setSeg x r).sys = s.sys := rfl
@[simp] theorem setSeg_msr (s : State) (x : Seg) (r : SegReg) : (s.setSeg x r).msr = s.msr := rfl
@[simp] theorem setSeg_fpu (s : State) (x : Seg) (r : SegReg) : (s.setSeg x r).fpu = s.fpu := rfl
@[simp] theorem setSeg_apic (s : State) (x : Seg) (r : SegReg) : (s.setSeg x r).apic = s.apic := rfl
@[simp] theorem setSeg_mem (s : State) (x : Seg) (r : SegReg) : (s.setSeg x r).mem = s.mem := rfl
@[simp] theorem setSeg_memWb (s : State) (x : Seg) (r : SegReg) : (s.setSeg x r).memWb = s.memWb := rfl
@[simp] theorem setSeg_tlb (s : State) (x : Seg) (r : SegReg) : (s.setSeg x r).tlb = s.tlb := rfl
@[simp] theorem setSeg_act (s : State) (x : Seg) (r : SegReg) : (s.setSeg x r).act = s.act := rfl
@[simp] theorem setSeg_pend (s : State) (x : Seg) (r : SegReg) : (s.setSeg x r).pend = s.pend := rfl
@[simp] theorem setSeg_smm (s : State) (x : Seg) (r : SegReg) : (s.setSeg x r).smm = s.smm := rfl
@[simp] theorem setSeg_ctx (s : State) (x : Seg) (r : SegReg) : (s.setSeg x r).ctx = s.ctx := rfl
@[simp] theorem setSeg_cfg (s : State) (x : Seg) (r : SegReg) : (s.setSeg x r).cfg = s.cfg := rfl
@[simp] theorem setSeg_bus (s : State) (x : Seg) (r : SegReg) : (s.setSeg x r).bus = s.bus := rfl
@[simp] theorem setSeg_inputs (s : State) (x : Seg) (r : SegReg) : (s.setSeg x r).inputs = s.inputs := rfl
@[simp] theorem setSeg_free (s : State) (x : Seg) (r : SegReg) : (s.setSeg x r).free = s.free := rfl

/-! ### withFlags -/

@[simp] theorem withFlags_gpr (s : State) (f : Eflags) : (s.withFlags f).gpr = s.gpr := rfl
@[simp] theorem withFlags_eip (s : State) (f : Eflags) : (s.withFlags f).eip = s.eip := rfl
@[simp] theorem withFlags_eflags (s : State) (f : Eflags) : (s.withFlags f).eflags = f := rfl
@[simp] theorem withFlags_segs (s : State) (f : Eflags) : (s.withFlags f).segs = s.segs := rfl
@[simp] theorem withFlags_sys (s : State) (f : Eflags) : (s.withFlags f).sys = s.sys := rfl
@[simp] theorem withFlags_msr (s : State) (f : Eflags) : (s.withFlags f).msr = s.msr := rfl
@[simp] theorem withFlags_fpu (s : State) (f : Eflags) : (s.withFlags f).fpu = s.fpu := rfl
@[simp] theorem withFlags_apic (s : State) (f : Eflags) : (s.withFlags f).apic = s.apic := rfl
@[simp] theorem withFlags_mem (s : State) (f : Eflags) : (s.withFlags f).mem = s.mem := rfl
@[simp] theorem withFlags_memWb (s : State) (f : Eflags) : (s.withFlags f).memWb = s.memWb := rfl
@[simp] theorem withFlags_tlb (s : State) (f : Eflags) : (s.withFlags f).tlb = s.tlb := rfl
@[simp] theorem withFlags_act (s : State) (f : Eflags) : (s.withFlags f).act = s.act := rfl
@[simp] theorem withFlags_pend (s : State) (f : Eflags) : (s.withFlags f).pend = s.pend := rfl
@[simp] theorem withFlags_smm (s : State) (f : Eflags) : (s.withFlags f).smm = s.smm := rfl
@[simp] theorem withFlags_ctx (s : State) (f : Eflags) : (s.withFlags f).ctx = s.ctx := rfl
@[simp] theorem withFlags_cfg (s : State) (f : Eflags) : (s.withFlags f).cfg = s.cfg := rfl
@[simp] theorem withFlags_bus (s : State) (f : Eflags) : (s.withFlags f).bus = s.bus := rfl
@[simp] theorem withFlags_inputs (s : State) (f : Eflags) : (s.withFlags f).inputs = s.inputs := rfl
@[simp] theorem withFlags_free (s : State) (f : Eflags) : (s.withFlags f).free = s.free := rfl

/-! ### withEsp -/

@[simp] theorem withEsp_gpr (s : State) (v : Word) : (s.withEsp v).gpr = { s.gpr with esp := v } := rfl
@[simp] theorem withEsp_eip (s : State) (v : Word) : (s.withEsp v).eip = s.eip := rfl
@[simp] theorem withEsp_eflags (s : State) (v : Word) : (s.withEsp v).eflags = s.eflags := rfl
@[simp] theorem withEsp_segs (s : State) (v : Word) : (s.withEsp v).segs = s.segs := rfl
@[simp] theorem withEsp_sys (s : State) (v : Word) : (s.withEsp v).sys = s.sys := rfl
@[simp] theorem withEsp_msr (s : State) (v : Word) : (s.withEsp v).msr = s.msr := rfl
@[simp] theorem withEsp_fpu (s : State) (v : Word) : (s.withEsp v).fpu = s.fpu := rfl
@[simp] theorem withEsp_apic (s : State) (v : Word) : (s.withEsp v).apic = s.apic := rfl
@[simp] theorem withEsp_mem (s : State) (v : Word) : (s.withEsp v).mem = s.mem := rfl
@[simp] theorem withEsp_memWb (s : State) (v : Word) : (s.withEsp v).memWb = s.memWb := rfl
@[simp] theorem withEsp_tlb (s : State) (v : Word) : (s.withEsp v).tlb = s.tlb := rfl
@[simp] theorem withEsp_act (s : State) (v : Word) : (s.withEsp v).act = s.act := rfl
@[simp] theorem withEsp_pend (s : State) (v : Word) : (s.withEsp v).pend = s.pend := rfl
@[simp] theorem withEsp_smm (s : State) (v : Word) : (s.withEsp v).smm = s.smm := rfl
@[simp] theorem withEsp_ctx (s : State) (v : Word) : (s.withEsp v).ctx = s.ctx := rfl
@[simp] theorem withEsp_cfg (s : State) (v : Word) : (s.withEsp v).cfg = s.cfg := rfl
@[simp] theorem withEsp_bus (s : State) (v : Word) : (s.withEsp v).bus = s.bus := rfl
@[simp] theorem withEsp_inputs (s : State) (v : Word) : (s.withEsp v).inputs = s.inputs := rfl
@[simp] theorem withEsp_free (s : State) (v : Word) : (s.withEsp v).free = s.free := rfl

/-! ### used -/

@[simp] theorem used_gpr (s : State) (n : Nat) : (s.used n).gpr = s.gpr := rfl
@[simp] theorem used_eip (s : State) (n : Nat) : (s.used n).eip = s.eip := rfl
@[simp] theorem used_eflags (s : State) (n : Nat) : (s.used n).eflags = s.eflags := rfl
@[simp] theorem used_segs (s : State) (n : Nat) : (s.used n).segs = s.segs := rfl
@[simp] theorem used_sys (s : State) (n : Nat) : (s.used n).sys = s.sys := rfl
@[simp] theorem used_msr (s : State) (n : Nat) : (s.used n).msr = s.msr := rfl
@[simp] theorem used_fpu (s : State) (n : Nat) : (s.used n).fpu = s.fpu := rfl
@[simp] theorem used_apic (s : State) (n : Nat) : (s.used n).apic = s.apic := rfl
@[simp] theorem used_mem (s : State) (n : Nat) : (s.used n).mem = s.mem := rfl
@[simp] theorem used_memWb (s : State) (n : Nat) : (s.used n).memWb = s.memWb := rfl
@[simp] theorem used_tlb (s : State) (n : Nat) : (s.used n).tlb = s.tlb := rfl
@[simp] theorem used_act (s : State) (n : Nat) : (s.used n).act = s.act := rfl
@[simp] theorem used_pend (s : State) (n : Nat) : (s.used n).pend = s.pend := rfl
@[simp] theorem used_smm (s : State) (n : Nat) : (s.used n).smm = s.smm := rfl
@[simp] theorem used_ctx (s : State) (n : Nat) : (s.used n).ctx = s.ctx := rfl
@[simp] theorem used_cfg (s : State) (n : Nat) : (s.used n).cfg = s.cfg := rfl
@[simp] theorem used_bus (s : State) (n : Nat) : (s.used n).bus = s.bus := rfl
@[simp] theorem used_inputs (s : State) (n : Nat) : (s.used n).inputs = s.inputs := rfl
@[simp] theorem used_free (s : State) (n : Nat) : (s.used n).free = s.free + n := rfl

/-! ### goto -/

@[simp] theorem goto_gpr (s : State) (v : Word) : (s.goto v).gpr = s.gpr := rfl
@[simp] theorem goto_eip (s : State) (v : Word) : (s.goto v).eip = v := rfl
@[simp] theorem goto_eflags (s : State) (v : Word) : (s.goto v).eflags = { s.eflags with rf := false } := rfl
@[simp] theorem goto_segs (s : State) (v : Word) : (s.goto v).segs = s.segs := rfl
@[simp] theorem goto_sys (s : State) (v : Word) : (s.goto v).sys = s.sys := rfl
@[simp] theorem goto_msr (s : State) (v : Word) : (s.goto v).msr = s.msr := rfl
@[simp] theorem goto_fpu (s : State) (v : Word) : (s.goto v).fpu = s.fpu := rfl
@[simp] theorem goto_apic (s : State) (v : Word) : (s.goto v).apic = s.apic := rfl
@[simp] theorem goto_mem (s : State) (v : Word) : (s.goto v).mem = s.mem := rfl
@[simp] theorem goto_memWb (s : State) (v : Word) : (s.goto v).memWb = s.memWb := rfl
@[simp] theorem goto_tlb (s : State) (v : Word) : (s.goto v).tlb = s.tlb := rfl
@[simp] theorem goto_act (s : State) (v : Word) : (s.goto v).act = s.act := rfl
@[simp] theorem goto_pend (s : State) (v : Word) : (s.goto v).pend = s.pend := rfl
@[simp] theorem goto_smm (s : State) (v : Word) : (s.goto v).smm = s.smm := rfl
@[simp] theorem goto_ctx (s : State) (v : Word) : (s.goto v).ctx = s.ctx := rfl
@[simp] theorem goto_cfg (s : State) (v : Word) : (s.goto v).cfg = s.cfg := rfl
@[simp] theorem goto_bus (s : State) (v : Word) : (s.goto v).bus = s.bus := rfl
@[simp] theorem goto_inputs (s : State) (v : Word) : (s.goto v).inputs = s.inputs := rfl
@[simp] theorem goto_free (s : State) (v : Word) : (s.goto v).free = s.free := rfl

/-! ### done -/

@[simp] theorem done_gpr (s : State) : s.done.gpr = s.gpr := rfl
@[simp] theorem done_eip (s : State) : s.done.eip = s.ctx.nextEip := rfl
@[simp] theorem done_eflags (s : State) : s.done.eflags = { s.eflags with rf := false } := rfl
@[simp] theorem done_segs (s : State) : s.done.segs = s.segs := rfl
@[simp] theorem done_sys (s : State) : s.done.sys = s.sys := rfl
@[simp] theorem done_msr (s : State) : s.done.msr = s.msr := rfl
@[simp] theorem done_fpu (s : State) : s.done.fpu = s.fpu := rfl
@[simp] theorem done_apic (s : State) : s.done.apic = s.apic := rfl
@[simp] theorem done_mem (s : State) : s.done.mem = s.mem := rfl
@[simp] theorem done_memWb (s : State) : s.done.memWb = s.memWb := rfl
@[simp] theorem done_tlb (s : State) : s.done.tlb = s.tlb := rfl
@[simp] theorem done_act (s : State) : s.done.act = s.act := rfl
@[simp] theorem done_pend (s : State) : s.done.pend = s.pend := rfl
@[simp] theorem done_smm (s : State) : s.done.smm = s.smm := rfl
@[simp] theorem done_ctx (s : State) : s.done.ctx = s.ctx := rfl
@[simp] theorem done_cfg (s : State) : s.done.cfg = s.cfg := rfl
@[simp] theorem done_bus (s : State) : s.done.bus = s.bus := rfl
@[simp] theorem done_inputs (s : State) : s.done.inputs = s.inputs := rfl
@[simp] theorem done_free (s : State) : s.done.free = s.free := rfl

/-! ### disarm -/

@[simp] theorem disarm_gpr (s : State) : (disarm s).gpr = s.gpr := rfl
@[simp] theorem disarm_eip (s : State) : (disarm s).eip = s.eip := rfl
@[simp] theorem disarm_eflags (s : State) : (disarm s).eflags = s.eflags := rfl
@[simp] theorem disarm_segs (s : State) : (disarm s).segs = s.segs := rfl
@[simp] theorem disarm_sys (s : State) : (disarm s).sys = s.sys := rfl
@[simp] theorem disarm_msr (s : State) : (disarm s).msr = s.msr := rfl
@[simp] theorem disarm_fpu (s : State) : (disarm s).fpu = s.fpu := rfl
@[simp] theorem disarm_apic (s : State) : (disarm s).apic = s.apic := rfl
@[simp] theorem disarm_mem (s : State) : (disarm s).mem = s.mem := rfl
@[simp] theorem disarm_memWb (s : State) : (disarm s).memWb = s.memWb := rfl
@[simp] theorem disarm_tlb (s : State) : (disarm s).tlb = s.tlb := rfl
@[simp] theorem disarm_act (s : State) : (disarm s).act = { s.act with monitor := none, mwaiting := false } := rfl
@[simp] theorem disarm_pend (s : State) : (disarm s).pend = s.pend := rfl
@[simp] theorem disarm_smm (s : State) : (disarm s).smm = s.smm := rfl
@[simp] theorem disarm_ctx (s : State) : (disarm s).ctx = s.ctx := rfl
@[simp] theorem disarm_cfg (s : State) : (disarm s).cfg = s.cfg := rfl
@[simp] theorem disarm_bus (s : State) : (disarm s).bus = s.bus := rfl
@[simp] theorem disarm_inputs (s : State) : (disarm s).inputs = s.inputs := rfl
@[simp] theorem disarm_free (s : State) : (disarm s).free = s.free := rfl

/-! ### flushLocal -/

@[simp] theorem flushLocal_gpr (s : State) : s.flushLocal.gpr = s.gpr := rfl
@[simp] theorem flushLocal_eip (s : State) : s.flushLocal.eip = s.eip := rfl
@[simp] theorem flushLocal_eflags (s : State) : s.flushLocal.eflags = s.eflags := rfl
@[simp] theorem flushLocal_segs (s : State) : s.flushLocal.segs = s.segs := rfl
@[simp] theorem flushLocal_sys (s : State) : s.flushLocal.sys = s.sys := rfl
@[simp] theorem flushLocal_msr (s : State) : s.flushLocal.msr = s.msr := rfl
@[simp] theorem flushLocal_fpu (s : State) : s.flushLocal.fpu = s.fpu := rfl
@[simp] theorem flushLocal_apic (s : State) : s.flushLocal.apic = s.apic := rfl
@[simp] theorem flushLocal_mem (s : State) : s.flushLocal.mem = s.mem := rfl
@[simp] theorem flushLocal_memWb (s : State) : s.flushLocal.memWb = s.memWb := rfl
@[simp] theorem flushLocal_tlb (s : State) : s.flushLocal.tlb = s.tlb.filter fun e => e.global && bit s.sys.cr4 7 := rfl
@[simp] theorem flushLocal_act (s : State) : s.flushLocal.act = s.act := rfl
@[simp] theorem flushLocal_pend (s : State) : s.flushLocal.pend = s.pend := rfl
@[simp] theorem flushLocal_smm (s : State) : s.flushLocal.smm = s.smm := rfl
@[simp] theorem flushLocal_ctx (s : State) : s.flushLocal.ctx = s.ctx := rfl
@[simp] theorem flushLocal_cfg (s : State) : s.flushLocal.cfg = s.cfg := rfl
@[simp] theorem flushLocal_bus (s : State) : s.flushLocal.bus = s.bus := rfl
@[simp] theorem flushLocal_inputs (s : State) : s.flushLocal.inputs = s.inputs := rfl
@[simp] theorem flushLocal_free (s : State) : s.flushLocal.free = s.free := rfl

/-! ### flushAll -/

@[simp] theorem flushAll_gpr (s : State) : s.flushAll.gpr = s.gpr := rfl
@[simp] theorem flushAll_eip (s : State) : s.flushAll.eip = s.eip := rfl
@[simp] theorem flushAll_eflags (s : State) : s.flushAll.eflags = s.eflags := rfl
@[simp] theorem flushAll_segs (s : State) : s.flushAll.segs = s.segs := rfl
@[simp] theorem flushAll_sys (s : State) : s.flushAll.sys = s.sys := rfl
@[simp] theorem flushAll_msr (s : State) : s.flushAll.msr = s.msr := rfl
@[simp] theorem flushAll_fpu (s : State) : s.flushAll.fpu = s.fpu := rfl
@[simp] theorem flushAll_apic (s : State) : s.flushAll.apic = s.apic := rfl
@[simp] theorem flushAll_mem (s : State) : s.flushAll.mem = s.mem := rfl
@[simp] theorem flushAll_memWb (s : State) : s.flushAll.memWb = s.memWb := rfl
@[simp] theorem flushAll_tlb (s : State) : s.flushAll.tlb = [] := rfl
@[simp] theorem flushAll_act (s : State) : s.flushAll.act = s.act := rfl
@[simp] theorem flushAll_pend (s : State) : s.flushAll.pend = s.pend := rfl
@[simp] theorem flushAll_smm (s : State) : s.flushAll.smm = s.smm := rfl
@[simp] theorem flushAll_ctx (s : State) : s.flushAll.ctx = s.ctx := rfl
@[simp] theorem flushAll_cfg (s : State) : s.flushAll.cfg = s.cfg := rfl
@[simp] theorem flushAll_bus (s : State) : s.flushAll.bus = s.bus := rfl
@[simp] theorem flushAll_inputs (s : State) : s.flushAll.inputs = s.inputs := rfl
@[simp] theorem flushAll_free (s : State) : s.flushAll.free = s.free := rfl

/-! ### flushPage -/

@[simp] theorem flushPage_gpr (s : State) (l : Word) : (s.flushPage l).gpr = s.gpr := rfl
@[simp] theorem flushPage_eip (s : State) (l : Word) : (s.flushPage l).eip = s.eip := rfl
@[simp] theorem flushPage_eflags (s : State) (l : Word) : (s.flushPage l).eflags = s.eflags := rfl
@[simp] theorem flushPage_segs (s : State) (l : Word) : (s.flushPage l).segs = s.segs := rfl
@[simp] theorem flushPage_sys (s : State) (l : Word) : (s.flushPage l).sys = s.sys := rfl
@[simp] theorem flushPage_msr (s : State) (l : Word) : (s.flushPage l).msr = s.msr := rfl
@[simp] theorem flushPage_fpu (s : State) (l : Word) : (s.flushPage l).fpu = s.fpu := rfl
@[simp] theorem flushPage_apic (s : State) (l : Word) : (s.flushPage l).apic = s.apic := rfl
@[simp] theorem flushPage_mem (s : State) (l : Word) : (s.flushPage l).mem = s.mem := rfl
@[simp] theorem flushPage_memWb (s : State) (l : Word) : (s.flushPage l).memWb = s.memWb := rfl
@[simp] theorem flushPage_tlb (s : State) (l : Word) : (s.flushPage l).tlb = s.tlb.filter fun e => !e.covers l := rfl
@[simp] theorem flushPage_act (s : State) (l : Word) : (s.flushPage l).act = s.act := rfl
@[simp] theorem flushPage_pend (s : State) (l : Word) : (s.flushPage l).pend = s.pend := rfl
@[simp] theorem flushPage_smm (s : State) (l : Word) : (s.flushPage l).smm = s.smm := rfl
@[simp] theorem flushPage_ctx (s : State) (l : Word) : (s.flushPage l).ctx = s.ctx := rfl
@[simp] theorem flushPage_cfg (s : State) (l : Word) : (s.flushPage l).cfg = s.cfg := rfl
@[simp] theorem flushPage_bus (s : State) (l : Word) : (s.flushPage l).bus = s.bus := rfl
@[simp] theorem flushPage_inputs (s : State) (l : Word) : (s.flushPage l).inputs = s.inputs := rfl
@[simp] theorem flushPage_free (s : State) (l : Word) : (s.flushPage l).free = s.free := rfl

/-! ### clearShadow -/

@[simp] theorem clearShadow_gpr (s : State) : s.clearShadow.gpr = s.gpr := rfl
@[simp] theorem clearShadow_eip (s : State) : s.clearShadow.eip = s.eip := rfl
@[simp] theorem clearShadow_eflags (s : State) : s.clearShadow.eflags = s.eflags := rfl
@[simp] theorem clearShadow_segs (s : State) : s.clearShadow.segs = s.segs := rfl
@[simp] theorem clearShadow_sys (s : State) : s.clearShadow.sys = s.sys := rfl
@[simp] theorem clearShadow_msr (s : State) : s.clearShadow.msr = s.msr := rfl
@[simp] theorem clearShadow_fpu (s : State) : s.clearShadow.fpu = s.fpu := rfl
@[simp] theorem clearShadow_apic (s : State) : s.clearShadow.apic = s.apic := rfl
@[simp] theorem clearShadow_mem (s : State) : s.clearShadow.mem = s.mem := rfl
@[simp] theorem clearShadow_memWb (s : State) : s.clearShadow.memWb = s.memWb := rfl
@[simp] theorem clearShadow_tlb (s : State) : s.clearShadow.tlb = s.tlb := rfl
@[simp] theorem clearShadow_act (s : State) : s.clearShadow.act = { s.act with shadow := .none } := rfl
@[simp] theorem clearShadow_pend (s : State) : s.clearShadow.pend = s.pend := rfl
@[simp] theorem clearShadow_smm (s : State) : s.clearShadow.smm = s.smm := rfl
@[simp] theorem clearShadow_ctx (s : State) : s.clearShadow.ctx = s.ctx := rfl
@[simp] theorem clearShadow_cfg (s : State) : s.clearShadow.cfg = s.cfg := rfl
@[simp] theorem clearShadow_bus (s : State) : s.clearShadow.bus = s.bus := rfl
@[simp] theorem clearShadow_inputs (s : State) : s.clearShadow.inputs = s.inputs := rfl
@[simp] theorem clearShadow_free (s : State) : s.clearShadow.free = s.free := rfl

/-! ### beginInsn -/

@[simp] theorem beginInsn_gpr (s : State) (n : Nat) : (beginInsn n s).gpr = s.gpr := rfl
@[simp] theorem beginInsn_eip (s : State) (n : Nat) : (beginInsn n s).eip = s.eipMask s.eip := rfl
@[simp] theorem beginInsn_eflags (s : State) (n : Nat) : (beginInsn n s).eflags = s.eflags := rfl
@[simp] theorem beginInsn_segs (s : State) (n : Nat) : (beginInsn n s).segs = s.segs := rfl
@[simp] theorem beginInsn_sys (s : State) (n : Nat) : (beginInsn n s).sys = s.sys := rfl
@[simp] theorem beginInsn_msr (s : State) (n : Nat) : (beginInsn n s).msr = s.msr := rfl
@[simp] theorem beginInsn_fpu (s : State) (n : Nat) : (beginInsn n s).fpu = s.fpu := rfl
@[simp] theorem beginInsn_apic (s : State) (n : Nat) : (beginInsn n s).apic = s.apic := rfl
@[simp] theorem beginInsn_mem (s : State) (n : Nat) : (beginInsn n s).mem = s.mem := rfl
@[simp] theorem beginInsn_memWb (s : State) (n : Nat) : (beginInsn n s).memWb = s.memWb := rfl
@[simp] theorem beginInsn_tlb (s : State) (n : Nat) : (beginInsn n s).tlb = s.tlb := rfl
@[simp] theorem beginInsn_act (s : State) (n : Nat) : (beginInsn n s).act = s.act := rfl
@[simp] theorem beginInsn_pend (s : State) (n : Nat) : (beginInsn n s).pend = s.pend := rfl
@[simp] theorem beginInsn_smm (s : State) (n : Nat) : (beginInsn n s).smm = s.smm := rfl
@[simp] theorem beginInsn_ctx (s : State) (n : Nat) : (beginInsn n s).ctx = ⟨s.eipMask (s.eip + BitVec.ofNat 32 n), Pfx.none, false⟩ := rfl
@[simp] theorem beginInsn_cfg (s : State) (n : Nat) : (beginInsn n s).cfg = s.cfg := rfl
@[simp] theorem beginInsn_bus (s : State) (n : Nat) : (beginInsn n s).bus = s.bus := rfl
@[simp] theorem beginInsn_inputs (s : State) (n : Nat) : (beginInsn n s).inputs = s.inputs := rfl
@[simp] theorem beginInsn_free (s : State) (n : Nat) : (beginInsn n s).free = s.free := rfl

/-! ### writeBack -/

@[simp] theorem writeBack_gpr (s : State) (pas : List Nat) : (s.writeBack pas).gpr = s.gpr := rfl
@[simp] theorem writeBack_eip (s : State) (pas : List Nat) : (s.writeBack pas).eip = s.eip := rfl
@[simp] theorem writeBack_eflags (s : State) (pas : List Nat) : (s.writeBack pas).eflags = s.eflags := rfl
@[simp] theorem writeBack_segs (s : State) (pas : List Nat) : (s.writeBack pas).segs = s.segs := rfl
@[simp] theorem writeBack_sys (s : State) (pas : List Nat) : (s.writeBack pas).sys = s.sys := rfl
@[simp] theorem writeBack_msr (s : State) (pas : List Nat) : (s.writeBack pas).msr = s.msr := rfl
@[simp] theorem writeBack_fpu (s : State) (pas : List Nat) : (s.writeBack pas).fpu = s.fpu := rfl
@[simp] theorem writeBack_apic (s : State) (pas : List Nat) : (s.writeBack pas).apic = s.apic := rfl
@[simp] theorem writeBack_mem (s : State) (pas : List Nat) : (s.writeBack pas).mem = s.mem := rfl
@[simp] theorem writeBack_memWb (s : State) (pas : List Nat) : (s.writeBack pas).memWb = s.memWb.writes (pas.map fun a => (a, s.mem.read a)) := rfl
@[simp] theorem writeBack_tlb (s : State) (pas : List Nat) : (s.writeBack pas).tlb = s.tlb := rfl
@[simp] theorem writeBack_act (s : State) (pas : List Nat) : (s.writeBack pas).act = s.act := rfl
@[simp] theorem writeBack_pend (s : State) (pas : List Nat) : (s.writeBack pas).pend = s.pend := rfl
@[simp] theorem writeBack_smm (s : State) (pas : List Nat) : (s.writeBack pas).smm = s.smm := rfl
@[simp] theorem writeBack_ctx (s : State) (pas : List Nat) : (s.writeBack pas).ctx = s.ctx := rfl
@[simp] theorem writeBack_cfg (s : State) (pas : List Nat) : (s.writeBack pas).cfg = s.cfg := rfl
@[simp] theorem writeBack_bus (s : State) (pas : List Nat) : (s.writeBack pas).bus = s.bus := rfl
@[simp] theorem writeBack_inputs (s : State) (pas : List Nat) : (s.writeBack pas).inputs = s.inputs := rfl
@[simp] theorem writeBack_free (s : State) (pas : List Nat) : (s.writeBack pas).free = s.free := rfl

/-! ### setEdxEax -/

@[simp] theorem setEdxEax_gpr (s : State) (v : Quad) : (s.setEdxEax v).gpr = { s.gpr with edx := (v >>> 32).setWidth 32, eax := v.setWidth 32 } := rfl
@[simp] theorem setEdxEax_eip (s : State) (v : Quad) : (s.setEdxEax v).eip = s.eip := rfl
@[simp] theorem setEdxEax_eflags (s : State) (v : Quad) : (s.setEdxEax v).eflags = s.eflags := rfl
@[simp] theorem setEdxEax_segs (s : State) (v : Quad) : (s.setEdxEax v).segs = s.segs := rfl
@[simp] theorem setEdxEax_sys (s : State) (v : Quad) : (s.setEdxEax v).sys = s.sys := rfl
@[simp] theorem setEdxEax_msr (s : State) (v : Quad) : (s.setEdxEax v).msr = s.msr := rfl
@[simp] theorem setEdxEax_fpu (s : State) (v : Quad) : (s.setEdxEax v).fpu = s.fpu := rfl
@[simp] theorem setEdxEax_apic (s : State) (v : Quad) : (s.setEdxEax v).apic = s.apic := rfl
@[simp] theorem setEdxEax_mem (s : State) (v : Quad) : (s.setEdxEax v).mem = s.mem := rfl
@[simp] theorem setEdxEax_memWb (s : State) (v : Quad) : (s.setEdxEax v).memWb = s.memWb := rfl
@[simp] theorem setEdxEax_tlb (s : State) (v : Quad) : (s.setEdxEax v).tlb = s.tlb := rfl
@[simp] theorem setEdxEax_act (s : State) (v : Quad) : (s.setEdxEax v).act = s.act := rfl
@[simp] theorem setEdxEax_pend (s : State) (v : Quad) : (s.setEdxEax v).pend = s.pend := rfl
@[simp] theorem setEdxEax_smm (s : State) (v : Quad) : (s.setEdxEax v).smm = s.smm := rfl
@[simp] theorem setEdxEax_ctx (s : State) (v : Quad) : (s.setEdxEax v).ctx = s.ctx := rfl
@[simp] theorem setEdxEax_cfg (s : State) (v : Quad) : (s.setEdxEax v).cfg = s.cfg := rfl
@[simp] theorem setEdxEax_bus (s : State) (v : Quad) : (s.setEdxEax v).bus = s.bus := rfl
@[simp] theorem setEdxEax_inputs (s : State) (v : Quad) : (s.setEdxEax v).inputs = s.inputs := rfl
@[simp] theorem setEdxEax_free (s : State) (v : Quad) : (s.setEdxEax v).free = s.free := rfl

/-! ### shutDown -/

@[simp] theorem shutDown_gpr (s : State) : (shutDown s).gpr = s.gpr := rfl
@[simp] theorem shutDown_eip (s : State) : (shutDown s).eip = s.eip := rfl
@[simp] theorem shutDown_eflags (s : State) : (shutDown s).eflags = s.eflags := rfl
@[simp] theorem shutDown_segs (s : State) : (shutDown s).segs = s.segs := rfl
@[simp] theorem shutDown_sys (s : State) : (shutDown s).sys = s.sys := rfl
@[simp] theorem shutDown_msr (s : State) : (shutDown s).msr = s.msr := rfl
@[simp] theorem shutDown_fpu (s : State) : (shutDown s).fpu = s.fpu := rfl
@[simp] theorem shutDown_apic (s : State) : (shutDown s).apic = s.apic := rfl
@[simp] theorem shutDown_mem (s : State) : (shutDown s).mem = s.mem := rfl
@[simp] theorem shutDown_memWb (s : State) : (shutDown s).memWb = s.memWb := rfl
@[simp] theorem shutDown_tlb (s : State) : (shutDown s).tlb = s.tlb := rfl
@[simp] theorem shutDown_act (s : State) : (shutDown s).act =
    { s.act with shutdown := true, halted := false, mwaiting := false, monitor := none } := rfl
@[simp] theorem shutDown_pend (s : State) : (shutDown s).pend = { s.pend with taskTrap := false, stepTrap := false, held := [] } := rfl
@[simp] theorem shutDown_smm (s : State) : (shutDown s).smm = s.smm := rfl
@[simp] theorem shutDown_ctx (s : State) : (shutDown s).ctx = { s.ctx with delivered := true } := rfl
@[simp] theorem shutDown_cfg (s : State) : (shutDown s).cfg = s.cfg := rfl
@[simp] theorem shutDown_bus (s : State) : (shutDown s).bus = s.bus := rfl
@[simp] theorem shutDown_inputs (s : State) : (shutDown s).inputs = s.inputs := rfl
@[simp] theorem shutDown_free (s : State) : (shutDown s).free = s.free := rfl

/-! ### holdTraps -/

@[simp] theorem holdTraps_gpr (s : State) (p : Pending) : (s.holdTraps p).gpr = s.gpr := rfl
@[simp] theorem holdTraps_eip (s : State) (p : Pending) : (s.holdTraps p).eip = s.eip := rfl
@[simp] theorem holdTraps_eflags (s : State) (p : Pending) : (s.holdTraps p).eflags = s.eflags := rfl
@[simp] theorem holdTraps_segs (s : State) (p : Pending) : (s.holdTraps p).segs = s.segs := rfl
@[simp] theorem holdTraps_sys (s : State) (p : Pending) : (s.holdTraps p).sys = s.sys := rfl
@[simp] theorem holdTraps_msr (s : State) (p : Pending) : (s.holdTraps p).msr = s.msr := rfl
@[simp] theorem holdTraps_fpu (s : State) (p : Pending) : (s.holdTraps p).fpu = s.fpu := rfl
@[simp] theorem holdTraps_apic (s : State) (p : Pending) : (s.holdTraps p).apic = s.apic := rfl
@[simp] theorem holdTraps_mem (s : State) (p : Pending) : (s.holdTraps p).mem = s.mem := rfl
@[simp] theorem holdTraps_memWb (s : State) (p : Pending) : (s.holdTraps p).memWb = s.memWb := rfl
@[simp] theorem holdTraps_tlb (s : State) (p : Pending) : (s.holdTraps p).tlb = s.tlb := rfl
@[simp] theorem holdTraps_act (s : State) (p : Pending) : (s.holdTraps p).act = s.act := rfl
@[simp] theorem holdTraps_pend (s : State) (p : Pending) : (s.holdTraps p).pend =
    { s.pend with
      held := s.pend.held ++ (if p.taskTrap then [(.taskTrap, 0)] else []) ++
        if p.stepTrap then [(.stepTrap, 0)] else [] } := rfl
@[simp] theorem holdTraps_smm (s : State) (p : Pending) : (s.holdTraps p).smm = s.smm := rfl
@[simp] theorem holdTraps_ctx (s : State) (p : Pending) : (s.holdTraps p).ctx = s.ctx := rfl
@[simp] theorem holdTraps_cfg (s : State) (p : Pending) : (s.holdTraps p).cfg = s.cfg := rfl
@[simp] theorem holdTraps_bus (s : State) (p : Pending) : (s.holdTraps p).bus = s.bus := rfl
@[simp] theorem holdTraps_inputs (s : State) (p : Pending) : (s.holdTraps p).inputs = s.inputs := rfl
@[simp] theorem holdTraps_free (s : State) (p : Pending) : (s.holdTraps p).free = s.free := rfl

/-! ### putBack -/

@[simp] theorem putBack_gpr (s s0 : State) (r : Request) : (s.putBack s0 r).gpr = s.gpr := rfl
@[simp] theorem putBack_eip (s s0 : State) (r : Request) : (s.putBack s0 r).eip = s.eip := rfl
@[simp] theorem putBack_eflags (s s0 : State) (r : Request) : (s.putBack s0 r).eflags = s.eflags := rfl
@[simp] theorem putBack_segs (s s0 : State) (r : Request) : (s.putBack s0 r).segs = s.segs := rfl
@[simp] theorem putBack_sys (s s0 : State) (r : Request) : (s.putBack s0 r).sys = s.sys := rfl
@[simp] theorem putBack_msr (s s0 : State) (r : Request) : (s.putBack s0 r).msr = s.msr := rfl
@[simp] theorem putBack_fpu (s s0 : State) (r : Request) : (s.putBack s0 r).fpu = s.fpu := rfl
@[simp] theorem putBack_mem (s s0 : State) (r : Request) : (s.putBack s0 r).mem = s.mem := rfl
@[simp] theorem putBack_memWb (s s0 : State) (r : Request) : (s.putBack s0 r).memWb = s.memWb := rfl
@[simp] theorem putBack_tlb (s s0 : State) (r : Request) : (s.putBack s0 r).tlb = s.tlb := rfl
@[simp] theorem putBack_act (s s0 : State) (r : Request) : (s.putBack s0 r).act = s.act := rfl
@[simp] theorem putBack_smm (s s0 : State) (r : Request) : (s.putBack s0 r).smm = s.smm := rfl
@[simp] theorem putBack_ctx (s s0 : State) (r : Request) : (s.putBack s0 r).ctx = s.ctx := rfl
@[simp] theorem putBack_cfg (s s0 : State) (r : Request) : (s.putBack s0 r).cfg = s.cfg := rfl
@[simp] theorem putBack_bus (s s0 : State) (r : Request) : (s.putBack s0 r).bus = s.bus := rfl
@[simp] theorem putBack_inputs (s s0 : State) (r : Request) : (s.putBack s0 r).inputs = s.inputs := rfl
@[simp] theorem putBack_free (s s0 : State) (r : Request) : (s.putBack s0 r).free = s.free := rfl
@[simp] theorem putBack_apic (s s0 : State) (r : Request) : (s.putBack s0 r).apic = s0.apic := rfl
@[simp] theorem putBack_pend (s s0 : State) (r : Request) : (s.putBack s0 r).pend =
    { s0.pend with
      nmiBlocked := s.pend.nmiBlocked
      held := s0.pend.held ++ [(.request r, 0)] } := rfl

/-! ### delivering -/

@[simp] theorem delivering_gpr (s : State) (b : Bool) (ev : Event) : (s.delivering b ev).gpr = s.gpr := rfl
@[simp] theorem delivering_eip (s : State) (b : Bool) (ev : Event) : (s.delivering b ev).eip = s.eip := rfl
@[simp] theorem delivering_eflags (s : State) (b : Bool) (ev : Event) : (s.delivering b ev).eflags = s.eflags := rfl
@[simp] theorem delivering_segs (s : State) (b : Bool) (ev : Event) : (s.delivering b ev).segs = s.segs := rfl
@[simp] theorem delivering_sys (s : State) (b : Bool) (ev : Event) : (s.delivering b ev).sys = s.sys := rfl
@[simp] theorem delivering_msr (s : State) (b : Bool) (ev : Event) : (s.delivering b ev).msr = s.msr := rfl
@[simp] theorem delivering_fpu (s : State) (b : Bool) (ev : Event) : (s.delivering b ev).fpu = s.fpu := rfl
@[simp] theorem delivering_apic (s : State) (b : Bool) (ev : Event) : (s.delivering b ev).apic = s.apic := rfl
@[simp] theorem delivering_mem (s : State) (b : Bool) (ev : Event) : (s.delivering b ev).mem = s.mem := rfl
@[simp] theorem delivering_memWb (s : State) (b : Bool) (ev : Event) : (s.delivering b ev).memWb = s.memWb := rfl
@[simp] theorem delivering_tlb (s : State) (b : Bool) (ev : Event) : (s.delivering b ev).tlb = s.tlb := rfl
@[simp] theorem delivering_act (s : State) (b : Bool) (ev : Event) : (s.delivering b ev).act = s.act := rfl
@[simp] theorem delivering_pend (s : State) (b : Bool) (ev : Event) : (s.delivering b ev).pend = { s.pend with delivering := some (ev, b) } := rfl
@[simp] theorem delivering_smm (s : State) (b : Bool) (ev : Event) : (s.delivering b ev).smm = s.smm := rfl
@[simp] theorem delivering_ctx (s : State) (b : Bool) (ev : Event) : (s.delivering b ev).ctx = { s.ctx with delivered := true } := rfl
@[simp] theorem delivering_cfg (s : State) (b : Bool) (ev : Event) : (s.delivering b ev).cfg = s.cfg := rfl
@[simp] theorem delivering_bus (s : State) (b : Bool) (ev : Event) : (s.delivering b ev).bus = s.bus := rfl
@[simp] theorem delivering_inputs (s : State) (b : Bool) (ev : Event) : (s.delivering b ev).inputs = s.inputs := rfl
@[simp] theorem delivering_free (s : State) (b : Bool) (ev : Event) : (s.delivering b ev).free = s.free := rfl

/-! ### post -/

@[simp] theorem post_gpr (s : State) (f : Pending → Pending) : (s.post f).gpr = s.gpr := by unfold State.post; split <;> rfl
@[simp] theorem post_eip (s : State) (f : Pending → Pending) : (s.post f).eip = s.eip := by unfold State.post; split <;> rfl
@[simp] theorem post_eflags (s : State) (f : Pending → Pending) : (s.post f).eflags = s.eflags := by unfold State.post; split <;> rfl
@[simp] theorem post_segs (s : State) (f : Pending → Pending) : (s.post f).segs = s.segs := by unfold State.post; split <;> rfl
@[simp] theorem post_sys (s : State) (f : Pending → Pending) : (s.post f).sys = s.sys := by unfold State.post; split <;> rfl
@[simp] theorem post_msr (s : State) (f : Pending → Pending) : (s.post f).msr = s.msr := by unfold State.post; split <;> rfl
@[simp] theorem post_fpu (s : State) (f : Pending → Pending) : (s.post f).fpu = s.fpu := by unfold State.post; split <;> rfl
@[simp] theorem post_apic (s : State) (f : Pending → Pending) : (s.post f).apic = s.apic := by unfold State.post; split <;> rfl
@[simp] theorem post_mem (s : State) (f : Pending → Pending) : (s.post f).mem = s.mem := by unfold State.post; split <;> rfl
@[simp] theorem post_memWb (s : State) (f : Pending → Pending) : (s.post f).memWb = s.memWb := by unfold State.post; split <;> rfl
@[simp] theorem post_tlb (s : State) (f : Pending → Pending) : (s.post f).tlb = s.tlb := by unfold State.post; split <;> rfl
@[simp] theorem post_act (s : State) (f : Pending → Pending) : (s.post f).act = s.act := by unfold State.post; split <;> rfl
@[simp] theorem post_smm (s : State) (f : Pending → Pending) : (s.post f).smm = s.smm := by unfold State.post; split <;> rfl
@[simp] theorem post_ctx (s : State) (f : Pending → Pending) : (s.post f).ctx = s.ctx := by unfold State.post; split <;> rfl
@[simp] theorem post_cfg (s : State) (f : Pending → Pending) : (s.post f).cfg = s.cfg := by unfold State.post; split <;> rfl
@[simp] theorem post_bus (s : State) (f : Pending → Pending) : (s.post f).bus = s.bus := by unfold State.post; split <;> rfl
@[simp] theorem post_inputs (s : State) (f : Pending → Pending) : (s.post f).inputs = s.inputs := by unfold State.post; split <;> rfl
@[simp] theorem post_free (s : State) (f : Pending → Pending) : (s.post f).free = s.free := by unfold State.post; split <;> rfl
/-- A request is pending unless the core waits for a SIPI (R411, R465). -/
theorem post_pend (s : State) (f : Pending → Pending) : (s.post f).pend = if s.awaitsSipi then s.pend else f s.pend := by
  unfold State.post; split <;> rfl

/-! ### holdException -/

@[simp] theorem holdException_gpr (s : State) (b : Bool) (ev : Event) : (s.holdException b ev).gpr = s.gpr := by cases b <;> rfl
@[simp] theorem holdException_eip (s : State) (b : Bool) (ev : Event) : (s.holdException b ev).eip = s.eip := by cases b <;> rfl
@[simp] theorem holdException_eflags (s : State) (b : Bool) (ev : Event) : (s.holdException b ev).eflags = s.eflags := by cases b <;> rfl
@[simp] theorem holdException_segs (s : State) (b : Bool) (ev : Event) : (s.holdException b ev).segs = s.segs := by cases b <;> rfl
@[simp] theorem holdException_sys (s : State) (b : Bool) (ev : Event) : (s.holdException b ev).sys = s.sys := by cases b <;> rfl
@[simp] theorem holdException_msr (s : State) (b : Bool) (ev : Event) : (s.holdException b ev).msr = s.msr := by cases b <;> rfl
@[simp] theorem holdException_fpu (s : State) (b : Bool) (ev : Event) : (s.holdException b ev).fpu = s.fpu := by cases b <;> rfl
@[simp] theorem holdException_apic (s : State) (b : Bool) (ev : Event) : (s.holdException b ev).apic = s.apic := by cases b <;> rfl
@[simp] theorem holdException_mem (s : State) (b : Bool) (ev : Event) : (s.holdException b ev).mem = s.mem := by cases b <;> rfl
@[simp] theorem holdException_memWb (s : State) (b : Bool) (ev : Event) : (s.holdException b ev).memWb = s.memWb := by cases b <;> rfl
@[simp] theorem holdException_tlb (s : State) (b : Bool) (ev : Event) : (s.holdException b ev).tlb = s.tlb := by cases b <;> rfl
@[simp] theorem holdException_act (s : State) (b : Bool) (ev : Event) : (s.holdException b ev).act = s.act := by cases b <;> rfl
@[simp] theorem holdException_smm (s : State) (b : Bool) (ev : Event) : (s.holdException b ev).smm = s.smm := by cases b <;> rfl
@[simp] theorem holdException_ctx (s : State) (b : Bool) (ev : Event) : (s.holdException b ev).ctx = s.ctx := by cases b <;> rfl
@[simp] theorem holdException_cfg (s : State) (b : Bool) (ev : Event) : (s.holdException b ev).cfg = s.cfg := by cases b <;> rfl
@[simp] theorem holdException_bus (s : State) (b : Bool) (ev : Event) : (s.holdException b ev).bus = s.bus := by cases b <;> rfl
@[simp] theorem holdException_inputs (s : State) (b : Bool) (ev : Event) : (s.holdException b ev).inputs = s.inputs := by cases b <;> rfl
@[simp] theorem holdException_free (s : State) (b : Bool) (ev : Event) : (s.holdException b ev).free = s.free := by cases b <;> rfl
/-- What holding an exception adds (R409). -/
theorem holdException_pend (s : State) (b : Bool) (ev : Event) : (s.holdException b ev).pend =
    { s.pend with held := s.pend.held ++ if b then [(.exception ev.vector ev.code, 0)] else [] } := by
  cases b <;> simp [State.holdException]

/-! ### released -/

@[simp] theorem released_nmi (p : Pending) : p.released.nmi = p.nmi := rfl
@[simp] theorem released_smi (p : Pending) : p.released.smi = p.smi := rfl
@[simp] theorem released_init (p : Pending) : p.released.init = p.init := rfl
@[simp] theorem released_sipi (p : Pending) : p.released.sipi = p.sipi := rfl
@[simp] theorem released_extInt (p : Pending) : p.released.extInt = p.extInt := rfl
@[simp] theorem released_lint0 (p : Pending) : p.released.lint0 = p.lint0 := rfl
@[simp] theorem released_lint1 (p : Pending) : p.released.lint1 = p.lint1 := rfl
@[simp] theorem released_stpclk (p : Pending) : p.released.stpclk = p.stpclk := rfl
@[simp] theorem released_a20m (p : Pending) : p.released.a20m = p.a20m := rfl
@[simp] theorem released_ignne (p : Pending) : p.released.ignne = p.ignne := rfl
@[simp] theorem released_intaVector (p : Pending) : p.released.intaVector = p.intaVector := rfl
@[simp] theorem released_nmiBlocked (p : Pending) : p.released.nmiBlocked = false := rfl
@[simp] theorem released_held (p : Pending) :
    p.released.held = (p.held.filter fun x => decide (1 < x.2)).map fun x => (x.1, x.2 - 1) := rfl
@[simp] theorem released_delivering (p : Pending) : p.released.delivering = p.delivering := rfl
@[simp] theorem released_reattempt (p : Pending) : p.released.reattempt = p.dueException.or p.reattempt := rfl
@[simp] theorem released_taskTrap (p : Pending) : p.released.taskTrap = (p.taskTrap || p.due .taskTrap) := rfl
@[simp] theorem released_stepTrap (p : Pending) : p.released.stepTrap = (p.stepTrap || p.due .stepTrap) := rfl

/-! ### endRemote -/

@[simp] theorem endRemote_irr (a : Apic) (v : Nat) : (a.endRemote v).irr = a.irr := by
  unfold Apic.endRemote; split <;> rfl
@[simp] theorem endRemote_isr (a : Apic) (v : Nat) : (a.endRemote v).isr = a.isr := by
  unfold Apic.endRemote; split <;> rfl
@[simp] theorem endRemote_tmr (a : Apic) (v : Nat) : (a.endRemote v).tmr = a.tmr := by
  unfold Apic.endRemote; split <;> rfl

/-! ### reportTraps -/

@[simp] theorem reportTraps_gpr (s : State) : (s.reportTraps).gpr = s.gpr := rfl
@[simp] theorem reportTraps_eip (s : State) : (s.reportTraps).eip = s.eip := rfl
@[simp] theorem reportTraps_eflags (s : State) : (s.reportTraps).eflags = s.eflags := rfl
@[simp] theorem reportTraps_segs (s : State) : (s.reportTraps).segs = s.segs := rfl
@[simp] theorem reportTraps_msr (s : State) : (s.reportTraps).msr = s.msr := rfl
@[simp] theorem reportTraps_fpu (s : State) : (s.reportTraps).fpu = s.fpu := rfl
@[simp] theorem reportTraps_apic (s : State) : (s.reportTraps).apic = s.apic := rfl
@[simp] theorem reportTraps_mem (s : State) : (s.reportTraps).mem = s.mem := rfl
@[simp] theorem reportTraps_memWb (s : State) : (s.reportTraps).memWb = s.memWb := rfl
@[simp] theorem reportTraps_tlb (s : State) : (s.reportTraps).tlb = s.tlb := rfl
@[simp] theorem reportTraps_act (s : State) : (s.reportTraps).act = s.act := rfl
@[simp] theorem reportTraps_pend (s : State) : (s.reportTraps).pend = { s.pend with taskTrap := false, stepTrap := false } := rfl
@[simp] theorem reportTraps_smm (s : State) : (s.reportTraps).smm = s.smm := rfl
@[simp] theorem reportTraps_ctx (s : State) : (s.reportTraps).ctx = s.ctx := rfl
@[simp] theorem reportTraps_cfg (s : State) : (s.reportTraps).cfg = s.cfg := rfl
@[simp] theorem reportTraps_bus (s : State) : (s.reportTraps).bus = s.bus := rfl
@[simp] theorem reportTraps_inputs (s : State) : (s.reportTraps).inputs = s.inputs := rfl
@[simp] theorem reportTraps_free (s : State) : (s.reportTraps).free = s.free := rfl

/-! ### physWrite and storeAt -/

@[simp] theorem physWrite_gpr (s : State) (ws : List (Nat × Byte)) : (s.physWrite ws).gpr = s.gpr := by
  unfold State.physWrite; split <;> rfl
@[simp] theorem physWrite_eip (s : State) (ws : List (Nat × Byte)) : (s.physWrite ws).eip = s.eip := by
  unfold State.physWrite; split <;> rfl
@[simp] theorem physWrite_eflags (s : State) (ws : List (Nat × Byte)) : (s.physWrite ws).eflags = s.eflags := by
  unfold State.physWrite; split <;> rfl
@[simp] theorem physWrite_segs (s : State) (ws : List (Nat × Byte)) : (s.physWrite ws).segs = s.segs := by
  unfold State.physWrite; split <;> rfl
@[simp] theorem physWrite_sys (s : State) (ws : List (Nat × Byte)) : (s.physWrite ws).sys = s.sys := by
  unfold State.physWrite; split <;> rfl
@[simp] theorem physWrite_msr (s : State) (ws : List (Nat × Byte)) : (s.physWrite ws).msr = s.msr := by
  unfold State.physWrite; split <;> rfl
@[simp] theorem physWrite_fpu (s : State) (ws : List (Nat × Byte)) : (s.physWrite ws).fpu = s.fpu := by
  unfold State.physWrite; split <;> rfl
@[simp] theorem physWrite_apic (s : State) (ws : List (Nat × Byte)) : (s.physWrite ws).apic = s.apic := by
  unfold State.physWrite; split <;> rfl
@[simp] theorem physWrite_memWb (s : State) (ws : List (Nat × Byte)) : (s.physWrite ws).memWb = s.memWb := by
  unfold State.physWrite; split <;> rfl
@[simp] theorem physWrite_tlb (s : State) (ws : List (Nat × Byte)) : (s.physWrite ws).tlb = s.tlb := by
  unfold State.physWrite; split <;> rfl
@[simp] theorem physWrite_pend (s : State) (ws : List (Nat × Byte)) : (s.physWrite ws).pend = s.pend := by
  unfold State.physWrite; split <;> rfl
@[simp] theorem physWrite_smm (s : State) (ws : List (Nat × Byte)) : (s.physWrite ws).smm = s.smm := by
  unfold State.physWrite; split <;> rfl
@[simp] theorem physWrite_ctx (s : State) (ws : List (Nat × Byte)) : (s.physWrite ws).ctx = s.ctx := by
  unfold State.physWrite; split <;> rfl
@[simp] theorem physWrite_cfg (s : State) (ws : List (Nat × Byte)) : (s.physWrite ws).cfg = s.cfg := by
  unfold State.physWrite; split <;> rfl
@[simp] theorem physWrite_bus (s : State) (ws : List (Nat × Byte)) : (s.physWrite ws).bus = s.bus := by
  unfold State.physWrite; split <;> rfl
@[simp] theorem physWrite_inputs (s : State) (ws : List (Nat × Byte)) : (s.physWrite ws).inputs = s.inputs := by
  unfold State.physWrite; split <;> rfl
@[simp] theorem physWrite_free (s : State) (ws : List (Nat × Byte)) : (s.physWrite ws).free = s.free := by
  unfold State.physWrite; split <;> rfl
@[simp] theorem storeAt_gpr (s : State) (pas : List Nat) (v : Nat) : (s.storeAt pas v).gpr = s.gpr :=
  physWrite_gpr s _
@[simp] theorem storeAt_eip (s : State) (pas : List Nat) (v : Nat) : (s.storeAt pas v).eip = s.eip :=
  physWrite_eip s _
@[simp] theorem storeAt_eflags (s : State) (pas : List Nat) (v : Nat) : (s.storeAt pas v).eflags = s.eflags :=
  physWrite_eflags s _
@[simp] theorem storeAt_segs (s : State) (pas : List Nat) (v : Nat) : (s.storeAt pas v).segs = s.segs :=
  physWrite_segs s _
@[simp] theorem storeAt_sys (s : State) (pas : List Nat) (v : Nat) : (s.storeAt pas v).sys = s.sys :=
  physWrite_sys s _
@[simp] theorem storeAt_msr (s : State) (pas : List Nat) (v : Nat) : (s.storeAt pas v).msr = s.msr :=
  physWrite_msr s _
@[simp] theorem storeAt_fpu (s : State) (pas : List Nat) (v : Nat) : (s.storeAt pas v).fpu = s.fpu :=
  physWrite_fpu s _
@[simp] theorem storeAt_apic (s : State) (pas : List Nat) (v : Nat) : (s.storeAt pas v).apic = s.apic :=
  physWrite_apic s _
@[simp] theorem storeAt_memWb (s : State) (pas : List Nat) (v : Nat) : (s.storeAt pas v).memWb = s.memWb :=
  physWrite_memWb s _
@[simp] theorem storeAt_tlb (s : State) (pas : List Nat) (v : Nat) : (s.storeAt pas v).tlb = s.tlb :=
  physWrite_tlb s _
@[simp] theorem storeAt_pend (s : State) (pas : List Nat) (v : Nat) : (s.storeAt pas v).pend = s.pend :=
  physWrite_pend s _
@[simp] theorem storeAt_smm (s : State) (pas : List Nat) (v : Nat) : (s.storeAt pas v).smm = s.smm :=
  physWrite_smm s _
@[simp] theorem storeAt_ctx (s : State) (pas : List Nat) (v : Nat) : (s.storeAt pas v).ctx = s.ctx :=
  physWrite_ctx s _
@[simp] theorem storeAt_cfg (s : State) (pas : List Nat) (v : Nat) : (s.storeAt pas v).cfg = s.cfg :=
  physWrite_cfg s _
@[simp] theorem storeAt_bus (s : State) (pas : List Nat) (v : Nat) : (s.storeAt pas v).bus = s.bus :=
  physWrite_bus s _
@[simp] theorem storeAt_inputs (s : State) (pas : List Nat) (v : Nat) : (s.storeAt pas v).inputs = s.inputs :=
  physWrite_inputs s _
@[simp] theorem storeAt_free (s : State) (pas : List Nat) (v : Nat) : (s.storeAt pas v).free = s.free :=
  physWrite_free s _
@[simp] theorem physWrite_mem (s : State) (ws : List (Nat × Byte)) :
    (s.physWrite ws).mem = s.mem.writes (ws.filter fun w => inRam s w.1) := by
  unfold State.physWrite; split <;> rfl
/-- A store leaves the activity state, or disarms the monitor (R385). -/
theorem physWrite_act (s : State) (ws : List (Nat × Byte)) :
    (s.physWrite ws).act = if monitorHit s (ws.map Prod.fst) then (disarm s).act else s.act := by
  unfold State.physWrite
  simp only
  split <;> rfl

/-! ### Register files -/

@[simp] theorem Gprs.get_set_same (g : Gprs) (r : Reg) (v : Word) : (g.set r v).get r = v := by cases r <;> rfl

theorem Gprs.get_set_other (g : Gprs) {r q : Reg} (v : Word) (h : q ≠ r) : (g.set r v).get q = g.get q := by
  cases r <;> cases q <;> first | rfl | exact absurd rfl h

@[simp] theorem Segs.get_set_same (g : Segs) (x : Seg) (r : SegReg) : (g.set x r).get x = r := by cases x <;> rfl

theorem Segs.get_set_other (g : Segs) {x y : Seg} (r : SegReg) (h : y ≠ x) : (g.set x r).get y = g.get y := by
  cases x <;> cases y <;> first | rfl | exact absurd rfl h

/-- A write of any width leaves the other registers. -/
theorem Gprs.get_write_other (g : Gprs) (z : Sz) {r q : Reg} (v : Word) (h : q ≠ r) :
    (g.write z r v).get q = g.get q := Gprs.get_set_other g _ h

@[simp] theorem Gprs.get_write_same (g : Gprs) (z : Sz) (r : Reg) (v : Word) :
    (g.write z r v).get r = mergeLow z (g.get r) v := Gprs.get_set_same g r _

/-- A byte write leaves the registers that do not hold the byte. -/
theorem Gprs.get_write8_other (g : Gprs) {r : Reg8} {q : Reg} (v : Word) (h : q ≠ r.home.1) :
    (g.write8 r v).get q = g.get q := Gprs.get_set_other g _ h

end Sys2Proof.Machine
end

