-- ==== Sys2Proof/Laws/Memory.lean ====
section
/-! SUPPORT. Memory: what a read gives after a write, and that every memory operation keeps the canonical form. -/
namespace Sys2Proof.Machine

/-! ## Reading after writing -/

theorem Memory.read_drop (m : Memory) (a x : Nat) :
    (m.drop a).read x = if x = a then Memory.unlisted else m.read x := by
  induction m with
  | nil => simp [Memory.drop, Memory.read]
  | cons c m ih =>
    obtain ⟨k, v⟩ := c
    unfold Memory.drop at ih ⊢
    rw [List.filter_cons]
    by_cases hk : k = a
    · subst hk
      simp only [bne_self_eq_false, Bool.false_eq_true, if_false, ih, Memory.read]
      by_cases hx : x = k <;> simp [hx]
    · have : (k != a) = true := by simpa using hk
      simp only [this, if_true, Memory.read, ih]
      by_cases hx : x = k
      · subst hx; simp [hk]
      · simp [hx]

theorem Memory.read_insert (m : Memory) (a x : Nat) (b : Byte) (h : ∀ c ∈ m, c.1 ≠ a) :
    (m.insert a b).read x = if x = a then b else m.read x := by
  induction m with
  | nil => simp [Memory.insert, Memory.read]
  | cons c m ih =>
    obtain ⟨k, v⟩ := c
    have hk : k ≠ a := h (k, v) List.mem_cons_self
    unfold Memory.insert
    split
    · simp [Memory.read]
    · simp only [Memory.read, ih fun c hc => h c (List.mem_cons_of_mem _ hc)]
      by_cases hx : x = k
      · subst hx; simp [hk]
      · simp [hx]

theorem Memory.drop_keys (m : Memory) (a : Nat) : ∀ c ∈ m.drop a, c.1 ≠ a := by
  intro c hc
  simpa using (List.mem_filter.mp hc).2

/-- Reading after one byte is written (R80). -/
theorem Memory.read_write (m : Memory) (a x : Nat) (b : Byte) :
    (m.write a b).read x = if x = a then b else m.read x := by
  unfold Memory.write
  split
  · rename_i h
    rw [Memory.read_drop, h]
  · rw [Memory.read_insert _ _ _ _ (Memory.drop_keys m a), Memory.read_drop]
    by_cases hx : x = a <;> simp [hx]

/-- Reading where no byte of a list is written. -/
theorem Memory.read_writes_other (ws : List (Nat × Byte)) (m : Memory) (x : Nat) (h : ∀ w ∈ ws, w.1 ≠ x) :
    (m.writes ws).read x = m.read x := by
  induction ws generalizing m with
  | nil => rfl
  | cons w ws ih =>
    obtain ⟨a, b⟩ := w
    rw [Memory.writes, ih _ fun w hw => h w (List.mem_cons_of_mem _ hw), Memory.read_write,
      if_neg (h (a, b) List.mem_cons_self).symm]

/-- Reading where exactly one byte of a list of bytes at distinct addresses is written. -/
theorem Memory.read_writes_mem (ws : List (Nat × Byte)) (m : Memory) (hd : (ws.map Prod.fst).Nodup) {a : Nat} {b : Byte}
    (h : (a, b) ∈ ws) : (m.writes ws).read a = b := by
  induction ws generalizing m with
  | nil => cases h
  | cons w ws ih =>
    obtain ⟨k, v⟩ := w
    rw [List.map_cons, List.nodup_cons] at hd
    rw [Memory.writes]
    rcases List.mem_cons.mp h with he | hm
    · obtain ⟨rfl, rfl⟩ := Prod.mk.inj he
      rw [Memory.read_writes_other, Memory.read_write, if_pos rfl]
      intro w hw he
      exact hd.1 (List.mem_map.mpr ⟨w, hw, he⟩)
    · exact ih _ hd.2 hm

/-! ## The canonical form -/

theorem Memory.wf_cons (c : Host.Cell) (m : Memory) :
    Memory.wf (c :: m) = true ↔ c.2 ≠ Memory.unlisted ∧ (∀ d ∈ m, c.1 < d.1) ∧ Memory.wf m = true := by
  induction m generalizing c with
  | nil => simp [Memory.wf]
  | cons d m ih =>
    obtain ⟨k, v⟩ := c
    obtain ⟨k', v'⟩ := d
    have hd := ih (k', v')
    simp only [Memory.wf, Bool.and_eq_true, decide_eq_true_eq, bne_iff_ne, ne_eq, List.mem_cons, forall_eq_or_imp]
    constructor
    · rintro ⟨⟨hk, hv⟩, hm⟩
      exact ⟨hv, ⟨hk, fun d hd' => Nat.lt_trans hk ((hd.mp hm).2.1 d hd')⟩, hm⟩
    · rintro ⟨hv, ⟨hk, -⟩, hm⟩
      exact ⟨⟨hk, hv⟩, hm⟩

theorem Memory.wf_drop (m : Memory) (a : Nat) (h : m.wf = true) : (m.drop a).wf = true := by
  induction m with
  | nil => rfl
  | cons c m ih =>
    obtain ⟨hv, hlt, hm⟩ := (Memory.wf_cons c m).mp h
    unfold Memory.drop at ih ⊢
    rw [List.filter_cons]
    split
    · exact (Memory.wf_cons _ _).mpr ⟨hv, fun d hd => hlt d (List.mem_filter.mp hd).1, ih hm⟩
    · exact ih hm

theorem Memory.mem_insert (m : Memory) (a : Nat) (b : Byte) (c : Host.Cell) (h : c ∈ m.insert a b) :
    c = (a, b) ∨ c ∈ m := by
  induction m with
  | nil => simpa [Memory.insert] using h
  | cons d m ih =>
    obtain ⟨k, v⟩ := d
    unfold Memory.insert at h
    split at h
    · simpa using h
    · rcases List.mem_cons.mp h with he | hm
      · exact .inr (he ▸ List.mem_cons_self)
      · exact (ih hm).imp_right (List.mem_cons_of_mem _)

theorem Memory.wf_insert (m : Memory) (a : Nat) (b : Byte) (hb : b ≠ Memory.unlisted) (h : m.wf = true)
    (hk : ∀ c ∈ m, c.1 ≠ a) : (m.insert a b).wf = true := by
  induction m with
  | nil => simpa [Memory.insert, Memory.wf] using hb
  | cons d m ih =>
    obtain ⟨k, v⟩ := d
    obtain ⟨hv, hlt, hm⟩ := (Memory.wf_cons _ m).mp h
    unfold Memory.insert
    split
    · rename_i hak
      refine (Memory.wf_cons _ _).mpr ⟨hb, fun c hc => ?_, h⟩
      rcases List.mem_cons.mp hc with he | hc
      · exact he ▸ hak
      · exact Nat.lt_trans hak (hlt c hc)
    · rename_i hak
      refine (Memory.wf_cons _ _).mpr ⟨hv, fun c hc => ?_, ih hm fun c hc => hk c (List.mem_cons_of_mem _ hc)⟩
      rcases Memory.mem_insert m a b c hc with he | hc
      · have := hk (k, v) List.mem_cons_self
        simp only [he, ne_eq] at this ⊢
        omega
      · exact hlt c hc

/-- Writing a byte keeps the canonical form. -/
theorem Memory.wf_write (m : Memory) (a : Nat) (b : Byte) (h : m.wf = true) : (m.write a b).wf = true := by
  unfold Memory.write
  split
  · exact Memory.wf_drop m a h
  · rename_i hb
    exact Memory.wf_insert _ a b hb (Memory.wf_drop m a h) (Memory.drop_keys m a)

/-- Writing bytes keeps the canonical form. -/
theorem Memory.wf_writes (ws : List (Nat × Byte)) (m : Memory) (h : m.wf = true) : (m.writes ws).wf = true := by
  induction ws generalizing m with
  | nil => exact h
  | cons w ws ih => exact ih _ (Memory.wf_write m w.1 w.2 h)

/-- Stores keep the canonical form. -/
theorem physWrite_wf (s : State) (ws : List (Nat × Byte)) (h : s.mem.wf = true) :
    (s.physWrite ws).mem.wf = true := by
  rw [physWrite_mem]
  exact Memory.wf_writes _ _ h

/-- Stores of other agents keep the canonical form of memory and of what is written back. -/
theorem agentWrite_wf (s : State) (ws : List (Nat × Byte)) (h : s.mem.wf = true) (hb : s.memWb.wf = true) :
    (s.agentWrite ws).mem.wf = true ∧ (s.agentWrite ws).memWb.wf = true := by
  refine ⟨physWrite_wf s _ h, ?_⟩
  unfold State.agentWrite
  exact Memory.wf_writes _ _ (by rw [physWrite_memWb]; exact hb)

/-- What INVD leaves in memory keeps the canonical form (R366). -/
theorem invdMemory_wf (k : Nat) (wbType : Nat → Bool) (mem wb : Memory) (h : mem.wf = true) :
    (invdMemory k wbType mem wb).wf = true := by
  unfold invdMemory
  split
  · exact h
  · suffices ∀ (as : List Nat) (m : Memory), m.wf = true →
        (as.foldl (fun m a => if wbType a && mem.read a != wb.read a && Config.invdLost k a then
          m.write a (wb.read a) else m) m).wf = true from this _ _ h
    intro as
    induction as with
    | nil => exact fun m h => h
    | cons a as ih =>
      intro m hm
      refine ih _ ?_
      simp only
      split
      · exact Memory.wf_write m a _ hm
      · exact hm

/-- Writing back keeps the canonical form of what is written back (R366). -/
theorem writeBack_wf (s : State) (pas : List Nat) (h : s.memWb.wf = true) : (s.writeBack pas).memWb.wf = true :=
  Memory.wf_writes _ _ h

/-- Two memories in canonical form that read the same everywhere are the same list. -/
theorem Memory.ext_of_read (m n : Memory) (hm : m.wf = true) (hn : n.wf = true) (h : ∀ a, m.read a = n.read a) :
    m = n := by
  have hnone : ∀ (l : Memory) (a : Nat), (∀ c ∈ l, a < c.1) → l.read a = Memory.unlisted := by
    intro l a hl
    induction l with
    | nil => rfl
    | cons c l ih =>
      obtain ⟨k, v⟩ := c
      have := hl (k, v) List.mem_cons_self
      simp only [Memory.read]
      rw [if_neg (by simp only at this; omega), ih fun c hc => hl c (List.mem_cons_of_mem _ hc)]
  induction m generalizing n with
  | nil =>
    cases n with
    | nil => rfl
    | cons c n =>
      obtain ⟨k, v⟩ := c
      have hv := ((Memory.wf_cons _ _).mp hn).1
      exact absurd (by simpa [Memory.read] using (h k).symm) hv
  | cons c m ih =>
    obtain ⟨k, v⟩ := c
    obtain ⟨hv, hlt, hm'⟩ := (Memory.wf_cons _ _).mp hm
    cases n with
    | nil => exact absurd (by simpa [Memory.read] using h k) hv
    | cons d n =>
      obtain ⟨k', v'⟩ := d
      obtain ⟨hv', hlt', hn'⟩ := (Memory.wf_cons _ _).mp hn
      have hk : k = k' := by
        rcases Nat.lt_trichotomy k k' with hl | he | hl
        · have := h k
          rw [hnone ((k', v') :: n) k (by
            intro c hc
            rcases List.mem_cons.mp hc with he | hc
            · exact he ▸ hl
            · exact Nat.lt_trans hl (hlt' c hc))] at this
          exact absurd (by simpa [Memory.read] using this) hv
        · exact he
        · have := h k'
          rw [hnone ((k, v) :: m) k' (by
            intro c hc
            rcases List.mem_cons.mp hc with he | hc
            · exact he ▸ hl
            · exact Nat.lt_trans hl (hlt c hc))] at this
          exact absurd (by simpa [Memory.read] using this.symm) hv'
      subst hk
      have hvv : v = v' := by simpa [Memory.read] using h k
      subst hvv
      rw [ih n hm' hn' fun a => ?_]
      by_cases ha : a = k
      · subst ha
        rw [hnone m a hlt, hnone n a hlt']
      · simpa [Memory.read, ha] using h a

/-! ## Physical bytes -/

theorem physByte_of_mem {s t : State} (hc : t.cfg = s.cfg) (hm : t.mem = s.mem) (a : Nat) :
    t.physByte a = s.physByte a := by
  unfold State.physByte inRam
  rw [hc, hm]

theorem inRam_physWrite (s : State) (ws : List (Nat × Byte)) (a : Nat) : inRam (s.physWrite ws) a = inRam s a := by
  unfold inRam
  rw [physWrite_cfg]

/-- A byte outside the stored ones reads as before (R80). -/
theorem physByte_physWrite_other (s : State) (ws : List (Nat × Byte)) (a : Nat) (h : ∀ w ∈ ws, w.1 ≠ a) :
    (s.physWrite ws).physByte a = s.physByte a := by
  unfold State.physByte
  rw [inRam_physWrite, physWrite_mem, Memory.read_writes_other]
  intro w hw
  exact h w (List.mem_filter.mp hw).1

/-- A stored byte reads back where there is memory (R80). -/
theorem physByte_physWrite_mem (s : State) (ws : List (Nat × Byte)) (hd : (ws.map Prod.fst).Nodup) {a : Nat} {b : Byte}
    (h : (a, b) ∈ ws) (hr : inRam s a = true) : (s.physWrite ws).physByte a = b := by
  unfold State.physByte
  rw [inRam_physWrite, hr, if_pos rfl, physWrite_mem]
  refine Memory.read_writes_mem _ _ ?_ (List.mem_filter.mpr ⟨h, hr⟩)
  exact hd.sublist (List.filter_sublist.map _)

/-- Where there is no memory, bytes read all ones whatever is stored (D9). -/
theorem physByte_hole (s : State) (a : Nat) (h : inRam s a = false) : s.physByte a = 0xFF#8 := by
  unfold State.physByte
  rw [h]
  rfl

/-! ## Little-endian numbers -/

@[simp] theorem leBytes_length (n v : Nat) : (leBytes n v).length = n := by
  induction n generalizing v with
  | zero => rfl
  | succ n ih => simp [leBytes, ih]

/-- The bytes of a number give its value modulo the width (R83). -/
theorem leNat_leBytes (n v : Nat) : leNat (leBytes n v) = v % 256 ^ n := by
  induction n generalizing v with
  | zero => simp [leBytes, leNat, Nat.mod_one]
  | succ n ih =>
    have h8 : (2 : Nat) ^ 8 = 256 := rfl
    rw [leBytes, leNat, ih, BitVec.toNat_ofNat, h8, Nat.pow_succ']
    exact (Nat.mod_mul).symm

theorem leNat_lt (bs : List Byte) : leNat bs < 256 ^ bs.length := by
  induction bs with
  | nil => simp [leNat]
  | cons b bs ih =>
    rw [leNat, List.length_cons, Nat.pow_succ']
    have := b.isLt
    omega

/-- The value of some bytes gives the bytes back (R83). -/
theorem leBytes_leNat (bs : List Byte) : leBytes bs.length (leNat bs) = bs := by
  induction bs with
  | nil => rfl
  | cons b bs ih =>
    have hb := b.isLt
    rw [List.length_cons, leBytes, leNat]
    have h1 : (b.toNat + 256 * leNat bs) / 256 = leNat bs := by omega
    rw [h1, ih]
    congr 1
    apply BitVec.eq_of_toNat_eq
    rw [BitVec.toNat_ofNat]
    omega

@[simp] theorem pairFrom_map_fst (a : Nat) (bs : List Byte) :
    (pairFrom a bs).map Prod.fst = (List.range bs.length).map fun k => a + k := by
  induction bs generalizing a with
  | nil => rfl
  | cons b bs ih =>
    rw [pairFrom, List.map_cons, ih, List.length_cons, List.range_succ_eq_map, List.map_cons, List.map_map]
    simp only [Nat.add_zero, List.cons.injEq, true_and]
    apply List.map_congr_left
    intro k _
    simp only [Function.comp_apply]
    omega

theorem addrsFrom_length (a n : Nat) : (addrsFrom a n).length = n := by simp [addrsFrom]

theorem addrsFrom_nodup (a n : Nat) : (addrsFrom a n).Nodup := by
  unfold addrsFrom
  refine List.Nodup.map ?_ List.nodup_range
  intro x y h
  simpa using h

theorem mem_addrsFrom {a n x : Nat} : x ∈ addrsFrom a n ↔ a ≤ x ∧ x < a + n := by
  unfold addrsFrom
  simp only [List.mem_map, List.mem_range]
  constructor
  · rintro ⟨k, hk, rfl⟩
    omega
  · rintro ⟨h1, h2⟩
    exact ⟨x - a, by omega, by omega⟩

/-! ## Stores of numbers -/

/-- A byte outside the stored addresses reads as before. -/
theorem physByte_storeAt_other (s : State) (pas : List Nat) (v a : Nat) (h : a ∉ pas) :
    (s.storeAt pas v).physByte a = s.physByte a := by
  refine physByte_physWrite_other s _ a fun w hw he => h ?_
  rw [← he]
  exact (List.of_mem_zip hw).1

/-- A stored number reads back, where there is memory at distinct addresses (R83). -/
theorem valueAt_storeAt (s : State) (pas : List Nat) (v : Nat) (hd : pas.Nodup)
    (hr : ∀ a ∈ pas, inRam s a = true) : (s.storeAt pas v).valueAt pas = v % 256 ^ pas.length := by
  unfold State.valueAt
  rw [← leNat_leBytes]
  congr 1
  apply List.ext_getElem (by simp)
  intro k h1 h2
  rw [List.getElem_map]
  have hk : k < pas.length := by simpa using h1
  refine physByte_physWrite_mem s _ ?_ ?_ (hr _ (List.getElem_mem hk))
  · rw [List.map_fst_zip (by simp)]
    exact hd
  · rw [List.mem_iff_getElem]
    exact ⟨k, by simpa using hk, by simp⟩

end Sys2Proof.Machine
end

