-- ==== Sys2Proof/Laws/Monad.lean ====
section
/-! SUPPORT. How computations run: one lemma a primitive of `M`. -/
namespace Sys2Proof.Machine

variable {α β : Type}

@[simp] theorem run_pure (a : α) (s : State) : (pure a : M α) s = .ok a s := rfl

theorem run_bind (x : M α) (f : α → M β) (s : State) :
    (x >>= f) s = match x s with
      | .ok a t => f a t
      | .error e t => .error e t := by
  show EStateM.bind x f s = _
  unfold EStateM.bind
  cases x s <;> rfl

theorem run_bind_ok {x : M α} {f : α → M β} {s t : State} {a : α} (h : x s = .ok a t) :
    (x >>= f) s = f a t := by rw [run_bind, h]

theorem run_bind_error {x : M α} {f : α → M β} {s t : State} {e : Stop} (h : x s = .error e t) :
    (x >>= f) s = .error e t := by rw [run_bind, h]

@[simp] theorem run_pure_bind (a : α) (f : α → M β) (s : State) : (pure a >>= f) s = f a s := rfl
@[simp] theorem run_get (s : State) : (get : M State) s = .ok s s := rfl
@[simp] theorem run_getThe (s : State) : (getThe State : M State) s = .ok s s := rfl
@[simp] theorem run_get_bind (f : State → M β) (s : State) : (get >>= f) s = f s s := rfl
@[simp] theorem run_set (t s : State) : (set t : M PUnit) s = .ok ⟨⟩ t := rfl
@[simp] theorem run_set_bind (t : State) (f : PUnit → M β) (s : State) : (set t >>= f) s = f ⟨⟩ t := rfl
@[simp] theorem run_modify (g : State → State) (s : State) : (modify g : M PUnit) s = .ok ⟨⟩ (g s) := rfl
@[simp] theorem run_modify_bind (g : State → State) (f : PUnit → M β) (s : State) :
    (modify g >>= f) s = f ⟨⟩ (g s) := rfl
@[simp] theorem run_throw (e : Stop) (s : State) : (throw e : M α) s = .error e s := rfl
@[simp] theorem run_raise (e : Exc) (s : State) : (raise e : M α) s = .error (.raise e) s := rfl
@[simp] theorem run_raise_bind (e : Exc) (f : α → M β) (s : State) :
    (raise e >>= f) s = .error (.raise e) s := rfl
@[simp] theorem run_gp0 (s : State) : (gp0 : M α) s = .error (.raise (.gp 0#16)) s := rfl
@[simp] theorem run_gp0_bind (f : α → M β) (s : State) : (gp0 >>= f) s = .error (.raise (.gp 0#16)) s := rfl
@[simp] theorem run_refuse (r : Refusal) (s : State) : (refuse r : M α) s = .error (.refuse r) s := rfl
@[simp] theorem run_refuse_bind (r : Refusal) (f : α → M β) (s : State) :
    (refuse r >>= f) s = .error (.refuse r) s := rfl
@[simp] theorem run_fresh (s : State) : fresh s = .ok s.free { s with free := s.free + 1 } := rfl
@[simp] theorem run_fresh_bind (f : Nat → M β) (s : State) :
    (fresh >>= f) s = f s.free { s with free := s.free + 1 } := rfl
@[simp] theorem run_freshBit (s : State) :
    freshBit s = .ok (Config.freeBit s.free) { s with free := s.free + 1 } := rfl
@[simp] theorem run_freshBit_bind (f : Bool → M β) (s : State) :
    (freshBit >>= f) s = f (Config.freeBit s.free) { s with free := s.free + 1 } := rfl

/-- A check either passes without effect or raises its exception. -/
theorem run_require (ok : Bool) (e : Exc) (s : State) :
    require ok e s = if ok then .ok () s else .error (.raise e) s := by
  cases ok <;> rfl

@[simp] theorem run_require_true (e : Exc) (s : State) : require true e s = .ok () s := rfl
@[simp] theorem run_require_false (e : Exc) (s : State) : require false e s = .error (.raise e) s := rfl
@[simp] theorem run_require_true_bind (e : Exc) (f : Unit → M β) (s : State) :
    (require true e >>= f) s = f () s := rfl
@[simp] theorem run_require_false_bind (e : Exc) (f : Unit → M β) (s : State) :
    (require false e >>= f) s = .error (.raise e) s := rfl

theorem run_require_bind (ok : Bool) (e : Exc) (f : Unit → M β) (s : State) :
    (require ok e >>= f) s = if ok then f () s else .error (.raise e) s := by
  cases ok <;> rfl

@[simp] theorem run_ite (c : Prop) [Decidable c] (x y : M α) (s : State) :
    (if c then x else y) s = if c then x s else y s := by
  split <;> rfl

/-- The outcome of an instruction whose computation ends normally (R413). -/
theorem conclude_ok {s t : State} {a : Unit} : conclude s (.ok a t) = .next t := rfl

/-- The outcome of an instruction that raises a fault-class exception: its effects are abandoned and the exception is
taken (R405, R413). -/
theorem conclude_raise {s t : State} {e : Exc} :
    conclude s (.error (.raise e) t) = takeException e (rollback s t) := rfl

/-- The outcome of an instruction whose computation ends in a refusal. -/
theorem conclude_refuse {s t : State} {r : Refusal} : conclude s (.error (.refuse r) t) = .refused r := rfl

/-- An instruction that places EIP itself: it answers what its body answers, if its LOCK prefix is allowed (R351). -/
theorem runJump_next {lockable : Bool} {body : M Unit} {s t : State}
    (hl : (!s.locked || lockable) = true) (h : body s = .ok () t) : runJump lockable body s = .next t := by
  unfold runJump
  rw [run_bind_ok (a := ()) (t := s) (by rw [hl]; rfl), h]
  rfl

/-- A LOCK prefix on an instruction that does not allow it raises #UD (R351). -/
theorem runJump_lock {lockable : Bool} {body : M Unit} {s : State}
    (hl : (!s.locked || lockable) = false) : runJump lockable body s = takeException .ud (rollback s s) := by
  unfold runJump
  rw [hl]
  rfl

/-- An instruction that goes on to the next one: EIP moves on and RF is cleared after its body (R23). -/
theorem runInsn_next {lockable : Bool} {body : M Unit} {s t : State}
    (hl : (!s.locked || lockable) = true) (h : body s = .ok () t) :
    runInsn lockable body s =
      .next { t with eip := t.ctx.nextEip, eflags := { t.eflags with rf := false } } := by
  unfold runInsn
  refine runJump_next hl ?_
  rw [run_bind_ok h]
  rfl

end Sys2Proof.Machine
end

