-- ==== Sys2Proof/Laws/Access.lean ====
section
/-! SUPPORT. What address translation and the accesses through it can do to the state: the page walk changes accessed
and dirty flags, the TLB and the free-value counter only; plain memory is read and written as it stands. -/
namespace Sys2Proof.Machine

/-! ## What a walk leaves unchanged -/

theorem SameButWalk.refl (s : State) : SameButWalk s s :=
  ⟨rfl, .inl rfl, fun _ _ => .inl rfl, fun _ => rfl⟩

namespace SameButWalk

variable {s t u : State}

theorem gpr (h : SameButWalk s t) : t.gpr = s.gpr := by rw [h.fields]
theorem eip (h : SameButWalk s t) : t.eip = s.eip := by rw [h.fields]
theorem eflags (h : SameButWalk s t) : t.eflags = s.eflags := by rw [h.fields]
theorem segs (h : SameButWalk s t) : t.segs = s.segs := by rw [h.fields]
theorem sys (h : SameButWalk s t) : t.sys = s.sys := by rw [h.fields]
theorem msr (h : SameButWalk s t) : t.msr = s.msr := by rw [h.fields]
theorem fpu (h : SameButWalk s t) : t.fpu = s.fpu := by rw [h.fields]
theorem apic (h : SameButWalk s t) : t.apic = s.apic := by rw [h.fields]
theorem memWb (h : SameButWalk s t) : t.memWb = s.memWb := by rw [h.fields]
theorem pend (h : SameButWalk s t) : t.pend = s.pend := by rw [h.fields]
theorem smm (h : SameButWalk s t) : t.smm = s.smm := by rw [h.fields]
theorem ctx (h : SameButWalk s t) : t.ctx = s.ctx := by rw [h.fields]
theorem cfg (h : SameButWalk s t) : t.cfg = s.cfg := by rw [h.fields]
theorem bus (h : SameButWalk s t) : t.bus = s.bus := by rw [h.fields]
theorem inputs (h : SameButWalk s t) : t.inputs = s.inputs := by rw [h.fields]
theorem pg (h : SameButWalk s t) : t.pg = s.pg := by unfold State.pg; rw [h.sys]
theorem pe (h : SameButWalk s t) : t.pe = s.pe := by unfold State.pe; rw [h.sys]
theorem cpl (h : SameButWalk s t) : t.cpl = s.cpl := by unfold State.cpl; rw [h.pe, h.eflags, h.segs]
theorem osz (h : SameButWalk s t) : t.osz = s.osz := by unfold State.osz State.dctx; rw [h.segs, h.ctx]
theorem locked (h : SameButWalk s t) : t.locked = s.locked := by unfold State.locked; rw [h.ctx]
theorem inApic (h : SameButWalk s t) : t.inApic = s.inApic := by
  funext a; unfold State.inApic State.apicOn State.apicPage; rw [h.cfg, h.msr]
theorem plain (h : SameButWalk s t) (pas : List Nat) : t.plain pas ↔ s.plain pas := by
  unfold State.plain; rw [h.inApic]

end SameButWalk

/-- Setting accessed and dirty flags twice sets accessed and dirty flags. -/
theorem AdSet.trans {s t u : State} {a : Nat} (h1 : AdSet s t a) (h2 : AdSet t u a) : AdSet s u a := by
  obtain ⟨hp, ha, h1⟩ := h1
  obtain ⟨-, -, h2⟩ := h2
  refine ⟨hp, ha, ?_⟩
  generalize s.physByte a = x at *
  generalize t.physByte a = y at *
  generalize u.physByte a = z at *
  apply BitVec.eq_of_getLsbD_eq
  intro i hi
  have e1 := congrArg (·.getLsbD i) h1
  have e2 := congrArg (·.getLsbD i) h2
  simp only [BitVec.getLsbD_or, BitVec.getLsbD_and] at e1 e2 ⊢
  revert e1 e2
  generalize x.getLsbD i = p
  generalize y.getLsbD i = q
  generalize z.getLsbD i = r
  generalize (0x60#8).getLsbD i = m
  revert p q r m
  decide

/-- A byte that twice stands as before, but for accessed and dirty flags, stands so over both changes. -/
theorem byte_trans {s t u : State} {a : Nat} (hp : t.pg = s.pg)
    (h1 : t.physByte a = s.physByte a ∨ AdSet s t a) (h2 : u.physByte a = t.physByte a ∨ AdSet t u a) :
    u.physByte a = s.physByte a ∨ AdSet s u a := by
  rcases h1 with e1 | d1
  · exact h2.imp (e1 ▸ ·) fun d2 => ⟨hp ▸ d2.1, d2.2.1, e1 ▸ d2.2.2⟩
  · exact .inr (h2.elim (fun e2 => ⟨d1.1, d1.2.1, e2 ▸ d1.2.2⟩) d1.trans)

theorem SameButWalk.trans {s t u : State} (h1 : SameButWalk s t) (h2 : SameButWalk t u) : SameButWalk s u where
  fields := by rw [h2.fields, h1.fields]
  act := by
    have hd : t.act = s.act → u.act = s.act ∨ u.act = (disarm s).act := fun e =>
      h2.act.imp (·.trans e) fun d => by rw [d, disarm_act, disarm_act, e]
    have hm : t.act = (disarm s).act → u.act = (disarm s).act := fun e =>
      h2.act.elim (·.trans e) fun d => by rw [d, disarm_act, e, disarm_act]
    exact h1.act.elim hd fun e => .inr (hm e)
  mem := fun a ha => byte_trans h1.pg (h1.mem a ha) (h2.mem a ha)
  off := fun hp => (h2.off (h1.pg ▸ hp)).trans (h1.off hp)

/-- The outcome of a computation that only checks and walks page tables: it changes what a walk changes; it can end in an
exception, and a page fault also loads CR2 (R446), or in the refusal of a table in the local APIC's page (R484). -/
def Walks {α : Type} (s : State) : EStateM.Result Stop State α → Prop
  | .ok _ t => SameButWalk s t
  | .error e t => ∃ l, (e = .refuse .apicAccess ∨ ∃ x, e = .raise x) ∧ t.sys = { s.sys with cr2 := l } ∧
      SameButWalk s { t with sys := s.sys }

variable {α β : Type}

theorem Walks.after {s t : State} {r : EStateM.Result Stop State α} (h : SameButWalk s t) (hr : Walks t r) :
    Walks s r := by
  cases r with
  | ok a u => exact h.trans hr
  | error e u =>
    obtain ⟨l, he, hs, hw⟩ := hr
    rw [h.sys] at hs hw
    exact ⟨l, he, hs, h.trans hw⟩

theorem Walks.bind {s : State} {x : M α} {f : α → M β} (hx : Walks s (x s))
    (hf : ∀ a t, x s = .ok a t → SameButWalk s t → Walks t (f a t)) : Walks s ((x >>= f) s) := by
  rw [run_bind]
  cases hr : x s with
  | ok a t =>
    rw [hr] at hx
    exact Walks.after hx (hf a t hr hx)
  | error e t =>
    rw [hr] at hx
    exact hx

theorem walks_pure (s : State) (a : α) : Walks s ((pure a : M α) s) := SameButWalk.refl s

/-- A page fault changes CR2 only (R446). -/
theorem walks_pageFault (s : State) (lin : Word) (p r : Bool) (k : Access) (u : Bool) :
    Walks s ((pageFault lin p k u r : M α) s) :=
  ⟨lin, .inr ⟨_, rfl⟩, rfl, SameButWalk.refl s⟩

/-- An entry is read from memory as it stands, or refused (R484). -/
theorem walkRead_ok {s : State} {a n : Nat} (h : s.inApic a = false) : walkRead a n s = .ok (s.physRead a n) s := by
  unfold walkRead
  rw [run_get_bind, h]
  rfl

/-- A computation after the reading of an entry. -/
theorem walks_walkRead_bind {s : State} {a n : Nat} {f : Nat → M α} (hf : Walks s (f (s.physRead a n) s)) :
    Walks s ((walkRead a n >>= f) s) := by
  cases h : s.inApic a with
  | false =>
    rw [run_bind_ok (walkRead_ok h)]
    exact hf
  | true =>
    rw [run_bind_error (e := .refuse .apicAccess) (t := s) (by unfold walkRead; rw [run_get_bind, h]; rfl)]
    exact ⟨s.sys.cr2, .inl rfl, rfl, SameButWalk.refl s⟩

/-- A check that ends in a page fault. -/
theorem walks_guard {s : State} {c : Bool} {x : M PUnit} {f : PUnit → M α} (hx : Walks s (x s))
    (hf : c = false → Walks s (f ⟨⟩ s)) (hd : ∀ t, ¬ x s = .ok ⟨⟩ t) :
    Walks s ((if c = true then x >>= f else f ⟨⟩) s) := by
  cases c with
  | true => exact Walks.bind hx fun a t h => absurd h (hd t)
  | false => exact hf rfl

theorem pageFault_ne_ok (s t : State) (lin : Word) (p r : Bool) (k : Access) (u : Bool) (a : α) :
    ¬ (pageFault lin p k u r : M α) s = .ok a t := nofun

/-- Setting low bits of a little-endian number changes its first byte only. -/
theorem leBytes_or (n v b : Nat) (hb : b < 256) :
    leBytes (n + 1) (v ||| b) = (BitVec.ofNat 8 v ||| BitVec.ofNat 8 b) :: leBytes n (v / 256) := by
  have hd : (v ||| b) / 256 = v / 256 := by
    apply Nat.eq_of_testBit_eq
    intro i
    have : (256 : Nat) = 2 ^ 8 := rfl
    rw [this, Nat.testBit_div_two_pow, Nat.testBit_div_two_pow, Nat.testBit_or,
      Nat.testBit_lt_two_pow (i := i + 8) (Nat.lt_of_lt_of_le hb (Nat.pow_le_pow_right (by omega) (by omega) :
        2 ^ 8 ≤ 2 ^ (i + 8))), Bool.or_false]
  rw [leBytes, hd]
  rw [BitVec.ofNat_or]

/-- The bytes of a number read from memory. -/
theorem leBytes_physRead (s : State) (a n : Nat) :
    leBytes n (s.physRead a n) = (List.range n).map fun k => s.physByte (a + k) := by
  unfold State.physRead
  have h := leBytes_leNat ((List.range n).map fun k => s.physByte (a + k))
  simpa using h

/-- Each of some consecutive addresses is paired with the byte a function gives it. -/
theorem mem_pairFrom_map (g : Nat → Byte) (n c : Nat) {w : Nat × Byte}
    (h : w ∈ pairFrom c ((List.range n).map fun k => g (c + k))) : w.2 = g w.1 := by
  induction n generalizing c with
  | zero => cases h
  | succ n ih =>
    rw [List.range_succ_eq_map, List.map_cons, List.map_map, pairFrom] at h
    rcases List.mem_cons.mp h with he | hm
    · rw [he]
      rfl
    · refine ih (c + 1) ?_
      have : (fun k => g (c + 1 + k)) = (fun k => g (c + k)) ∘ Nat.succ := by
        funext k
        simp only [Function.comp_apply]
        congr 1
        omega
      rwa [this]

/-- The update of accessed and dirty flags in a page entry (R172). -/
theorem walks_orEntry {s : State} {a n bits : Nat} (hp : s.pg = true) (ha : a % 4 = 0)
    (hb : bits = 0x20 ∨ bits = 0x60) : Walks s (orEntry a (n + 1) (s.physRead a (n + 1)) bits s) := by
  unfold orEntry
  split
  swap
  · exact walks_pure s _
  rw [run_modify]
  have hlt : bits < 256 := by omega
  have hv := leBytes_physRead s a (n + 1)
  generalize s.physRead a (n + 1) = v at hv ⊢
  have hw : leBytes (n + 1) (v ||| bits) =
      (s.physByte a ||| BitVec.ofNat 8 bits) :: (List.range n).map fun k => s.physByte (a + 1 + k) := by
    rw [leBytes_or n v bits hlt]
    rw [leBytes, List.range_succ_eq_map, List.map_cons, List.map_map] at hv
    obtain ⟨h0, ht⟩ := List.cons.inj hv
    rw [h0, ht]
    congr 1
    apply List.map_congr_left
    intro k _
    simp only [Function.comp_apply]
    congr 1
    omega
  rw [hw]
  have hother : ∀ x, x ≠ a → (s.physWrite (pairFrom a ((s.physByte a ||| BitVec.ofNat 8 bits) ::
      (List.range n).map fun k => s.physByte (a + 1 + k)))).physByte x = s.physByte x := by
    intro x hx
    by_cases hr : inRam s x = true
    swap
    · rw [physByte_hole s x (by simpa using hr)]
      exact physByte_hole _ x (by rw [inRam_physWrite]; simpa using hr)
    by_cases hin : ∃ w ∈ pairFrom a ((s.physByte a ||| BitVec.ofNat 8 bits) ::
        (List.range n).map fun k => s.physByte (a + 1 + k)), w.1 = x
    · obtain ⟨⟨y, b⟩, hm, rfl⟩ := hin
      have hb : b = s.physByte y := by
        rcases List.mem_cons.mp hm with he | hm
        · exact absurd (Prod.mk.inj he).1 hx
        · exact mem_pairFrom_map (fun k => s.physByte k) n (a + 1) hm
      rw [hb] at hm
      refine physByte_physWrite_mem s _ ?_ hm hr
      rw [pairFrom_map_fst]
      exact addrsFrom_nodup a _
    · exact physByte_physWrite_other s _ x fun w hw he => hin ⟨w, hw, he⟩
  refine ⟨?_, ?_, fun x _ => ?_, fun h => absurd hp (by rw [h]; simp)⟩
  · unfold State.physWrite
    simp only
    split <;> rfl
  · rw [physWrite_act]
    split
    · exact .inr rfl
    · exact .inl rfl
  · by_cases hx : x = a
    swap
    · exact .inl (hother x hx)
    subst hx
    right
    refine ⟨hp, ha, ?_⟩
    by_cases hr : inRam s x = true
    · have hw0 : (x, s.physByte x ||| BitVec.ofNat 8 bits) ∈ pairFrom x ((s.physByte x ||| BitVec.ofNat 8 bits) ::
          (List.range n).map fun k => s.physByte (x + 1 + k)) := List.mem_cons_self
      rw [physByte_physWrite_mem s _ (by rw [pairFrom_map_fst]; exact addrsFrom_nodup x _) hw0 hr]
      apply BitVec.eq_of_getLsbD_eq
      intro i hi
      have hbit : ∀ j, j < 8 → (BitVec.ofNat 8 bits).getLsbD j = true → (0x60#8).getLsbD j = true := by
        rcases hb with rfl | rfl <;> decide
      simp only [BitVec.getLsbD_or, BitVec.getLsbD_and]
      have := hbit i hi
      cases (s.physByte x).getLsbD i <;> cases h : (BitVec.ofNat 8 bits).getLsbD i <;> simp_all
    · have hr' : inRam s x = false := by simpa using hr
      rw [physByte_hole s x hr', physByte_hole _ x (by rw [inRam_physWrite]; exact hr')]
      decide

theorem adBits_cases (k : Access) : adBits k = 0x20 ∨ adBits k = 0x60 := by
  unfold adBits
  split
  · exact .inr rfl
  · exact .inl rfl

/-- A check of the walk that ends in a page fault. -/
theorem walks_pfCheck {s : State} {c : Bool} {lin : Word} {p r u : Bool} {k : Access} {f : PUnit → M α}
    (hf : Walks s (f ⟨⟩ s)) : Walks s ((if c = true then pageFault lin p k u r >>= f else f ⟨⟩) s) :=
  walks_guard (walks_pageFault s lin p r k u) (fun _ => hf) fun t => pageFault_ne_ok s t lin p r k u _

/-- The end of a walk through two tables: both entries take their flags (R172). -/
theorem walks_twoEntries {s : State} {a b n : Nat} {bits : Nat} {e : TlbEntry} (hp : s.pg = true) (ha : a % 4 = 0)
    (hb : b % 4 = 0) (hbits : bits = 0x20 ∨ bits = 0x60) :
    Walks s ((do
      orEntry a (n + 1) (s.physRead a (n + 1)) 0x20
      orEntry b (n + 1) ((← get).physRead b (n + 1)) bits
      return e : M TlbEntry) s) := by
  refine Walks.bind (walks_orEntry hp ha (.inl rfl)) fun _ t _ ht => ?_
  rw [run_get_bind]
  exact Walks.bind (walks_orEntry (ht.pg.trans hp) hb hbits) fun _ u _ _ => walks_pure u _

/-- The walk with 32-bit entries changes what a walk changes (R151 to R158, R172). -/
theorem walks_walk32 {s : State} (hp : s.pg = true) (lin : Word) (k : Access) (u : Bool) :
    Walks s (walk32 lin k u s) := by
  unfold walk32
  rw [run_get_bind]
  refine walks_walkRead_bind (walks_pfCheck ?_)
  split
  · exact walks_pfCheck (walks_pfCheck (Walks.bind (walks_orEntry hp (by omega) (adBits_cases k))
      fun _ t _ _ => walks_pure t _))
  · exact walks_pfCheck (walks_walkRead_bind (walks_pfCheck (walks_pfCheck (walks_pfCheck
      (walks_twoEntries hp (by omega) (by omega) (adBits_cases k))))))

/-- The walk with 64-bit entries changes what a walk changes (R160, R161, R172). -/
theorem walks_walkPae {s : State} (hp : s.pg = true) (lin : Word) (k : Access) (u : Bool) :
    Walks s (walkPae lin k u s) := by
  unfold walkPae
  rw [run_get_bind]
  refine walks_pfCheck (walks_walkRead_bind (walks_pfCheck (walks_pfCheck ?_)))
  split
  · exact walks_pfCheck (Walks.bind (walks_orEntry hp (by omega) (adBits_cases k)) fun _ t _ _ => walks_pure t _)
  · exact walks_walkRead_bind (walks_pfCheck (walks_pfCheck (walks_pfCheck
      (walks_twoEntries hp (by omega) (by omega) (adBits_cases k)))))

/-- A change of the free-value counter and the TLB while paging is on. -/
theorem walked_tlb {s : State} (hp : s.pg = true) (l : List TlbEntry) (n : Nat) :
    SameButWalk s { s with tlb := l, free := n } :=
  ⟨rfl, .inl rfl, fun _ _ => .inl rfl, fun h => absurd hp (by rw [h]; simp)⟩

theorem walks_lookupOrWalk {s : State} (hp : s.pg = true) (lin : Word) (k : Access) (u : Bool) :
    Walks s (lookupOrWalk lin k u s) := by
  have hwalk : ∀ t s0 : State, t.pg = true → Walks t (lookupOrWalk.walk lin k u s0 t) := by
    intro t s0 ht
    have hrest : ∀ (e : TlbEntry) (v : State), SameButWalk t v → Walks v ((do
        let k ← fresh
        modify fun s => { s with tlb := if Config.tlbKeep k then e :: s.tlb else s.tlb }
        return e : M TlbEntry) v) := fun e v hv => walked_tlb (hv.pg.trans ht) _ _
    unfold lookupOrWalk.walk
    split
    · exact Walks.bind (walks_walkPae ht lin k u) fun e v _ hv => hrest e v hv
    · exact Walks.bind (walks_walk32 ht lin k u) fun e v _ hv => hrest e v hv
  unfold lookupOrWalk
  rw [run_get_bind]
  generalize (s.tlb.filter fun e => e.serves s lin k u) = es
  cases es with
  | nil => exact hwalk s s hp
  | cons e0 es =>
    have hf : SameButWalk s { s with free := s.free + 1 } := walked_tlb hp _ _
    refine Walks.after hf ?_
    show Walks _ ((match (e0 :: es)[Config.tlbPick s.free (e0 :: es).length]? with
      | some e => if rightsOk s e.user e.write k u then pure e else pageFault lin true k u false
      | none => lookupOrWalk.walk lin k u s : M TlbEntry) _)
    generalize (e0 :: es)[Config.tlbPick s.free (e0 :: es).length]? = o
    cases o with
    | none => exact hwalk _ s hp
    | some e =>
      show Walks _ ((if rightsOk s e.user e.write k u then pure e else pageFault lin true k u false : M TlbEntry) _)
      split
      · exact walks_pure _ _
      · exact walks_pageFault ..

/-- Translation changes what a walk changes; it can end in a page fault (R165, R446). -/
theorem walks_translate (s : State) (lin : Word) (k : Access) (u : Bool) : Walks s (translate lin k u s) := by
  unfold translate
  rw [run_get_bind]
  cases hp : s.pg with
  | false => exact walks_pure s _
  | true => exact Walks.bind (walks_lookupOrWalk hp lin k u) fun e t _ _ => walks_pure t _

/-- Translating the bytes of an access changes what a walk changes (R165). -/
theorem walks_linAddrs (s : State) (lin : Word) (n : Nat) (k : Access) (u : Bool) : Walks s (linAddrs lin n k u s) := by
  unfold linAddrs
  refine Walks.bind (walks_translate s lin k u) fun p t _ _ => ?_
  split
  · exact walks_pure t _
  · exact Walks.bind (walks_translate t _ k u) fun p t _ _ => walks_pure t _

/-! ## Checks of an access -/

theorem walks_raise (s : State) (e : Exc) : Walks s ((raise e : M α) s) :=
  ⟨s.sys.cr2, .inr ⟨e, rfl⟩, rfl, SameButWalk.refl s⟩

theorem walks_require (s : State) (c : Bool) (e : Exc) : Walks s (require c e s) := by
  cases c
  · exact walks_raise s e
  · exact walks_pure s _

theorem walks_segCheckReg (s : State) (r : SegReg) (off : Word) (n : Nat) (k : Access) (e : Exc) :
    Walks s (segCheckReg r off n k e s) :=
  Walks.bind (walks_require s _ e) fun _ t _ _ => walks_pure t _

theorem walks_segCheck (s : State) (x : Seg) (off : Word) (n : Nat) (k : Access) :
    Walks s (segCheck x off n k s) := by
  unfold segCheck
  rw [run_get_bind]
  exact Walks.bind (walks_require s _ _) fun _ t _ _ => walks_segCheckReg t ..

theorem walks_alignCheck (s : State) (lin : Word) (req : Nat) : Walks s (alignCheck lin req s) := by
  unfold alignCheck
  rw [run_get_bind]
  exact walks_require s _ _

/-- Finding the bytes of a data access changes what a walk changes (R141, R165, R408). -/
theorem walks_dataAddrs (s : State) (x : Seg) (off : Word) (n al : Nat) (k : Access) :
    Walks s (dataAddrs x off n al k s) := by
  unfold dataAddrs
  refine Walks.bind (walks_segCheck s ..) fun lin t _ _ => ?_
  rw [run_get_bind]
  refine Walks.bind (walks_linAddrs t ..) fun pas t _ _ => ?_
  exact Walks.bind (walks_alignCheck t ..) fun _ t _ _ => walks_pure t _

theorem walks_memAddrs (s : State) (m : Mem) (n al : Nat) (k : Access) : Walks s (memAddrs m n al k s) := by
  unfold memAddrs
  rw [run_get_bind]
  exact walks_dataAddrs s ..

theorem walks_memAddrsAt (s : State) (m : Mem) (o : Word) (n al : Nat) (k : Access) :
    Walks s (memAddrsAt m o n al k s) := by
  unfold memAddrsAt
  rw [run_get_bind]
  exact walks_dataAddrs s ..

/-- Checking an operand changes what a walk changes (R601). -/
theorem walks_place (s : State) (z : Sz) (k : Access) (o : RM Reg) : Walks s (place z k o s) := by
  cases o with
  | reg r => exact walks_pure s _
  | mem m => exact Walks.bind (walks_memAddrs s ..) fun pas t _ _ => walks_pure t _

/-- Checking a byte operand changes what a walk changes (R601). -/
theorem walks_place8 (s : State) (k : Access) (o : RM Reg8) : Walks s (place8 k o s) := by
  cases o with
  | reg r => exact walks_pure s _
  | mem m => exact Walks.bind (walks_memAddrs s ..) fun pas t _ _ => walks_pure t _

/-- The segment checks of pushes change nothing (R422, R607). -/
theorem walks_pushLins (s : State) (ss : SegReg) (e : Exc) (z : Sz) (n : Nat) (esp : Word) :
    Walks s (pushLins ss e z n esp s) := by
  induction n generalizing esp s with
  | zero => exact walks_pure s _
  | succ n ih =>
    exact Walks.bind (walks_segCheckReg s ..) fun _ t _ _ => Walks.bind (ih t _) fun _ u _ _ => walks_pure u _

/-- Translating the places of pushes and checking their alignment changes what a walk changes (R165, R449). -/
theorem walks_pushPas (s : State) (user : Bool) (z : Sz) (lins : List Word) : Walks s (pushPas user z lins s) := by
  induction lins generalizing s with
  | nil => exact walks_pure s _
  | cons lin lins ih =>
    refine Walks.bind (walks_linAddrs s ..) fun pas t _ _ => ?_
    have hrest : ∀ v : State, Walks v ((do return pas :: (← pushPas user z lins) : M (List (List Nat))) v) :=
      fun v => Walks.bind (ih v) fun _ w _ _ => walks_pure w _
    cases user with
    | true => exact Walks.bind (walks_alignCheck t ..) fun _ v _ _ => hrest v
    | false => exact hrest t

/-- Checking the places of pushes changes what a walk changes (R422, R607). -/
theorem walks_pushPlaces (s : State) (ss : SegReg) (e : Exc) (user : Bool) (z : Sz) (n : Nat) (esp : Word) :
    Walks s (pushPlaces ss e user z n esp s) :=
  Walks.bind (walks_pushLins s ..) fun _ t _ _ => Walks.bind (walks_pushPas t ..) fun _ u _ _ => walks_pure u _

theorem walks_pushPrep (s : State) (z : Sz) (n : Nat) : Walks s (pushPrep z n s) := by
  unfold pushPrep
  rw [run_get_bind]
  exact walks_pushPlaces s ..

/-- What holds of a computation that ends normally. -/
theorem Walks.of_ok {s t : State} {x : M α} {a : α} (h : Walks s (x s)) (hr : x s = .ok a t) : SameButWalk s t := by
  rw [hr] at h
  exact h

/-! ## Plain memory -/

theorem phRead_plain {pas : List Nat} {s : State} (h : s.plain pas) : phRead pas s = .ok (s.valueAt pas) s := by
  unfold State.plain at h
  unfold phRead
  rw [run_get_bind, h]
  rfl

theorem phWrite_plain {pas : List Nat} {s : State} (v : Nat) (h : s.plain pas) :
    phWrite pas v s = .ok () (s.storeAt pas v) := by
  unfold State.plain at h
  unfold phWrite
  rw [run_get_bind, h]
  rfl

/-- Reading a plain place gives its value and changes nothing. -/
theorem place_get {p : Place} {s : State} (h : p.plain s) : p.get s = .ok (p.value s) s := by
  cases p with
  | reg z r => rfl
  | reg8 r => rfl
  | mem pas => exact run_bind_ok (phRead_plain h)

/-- Writing a plain place stores the value there. -/
theorem place_set {p : Place} {s : State} (v : Word) (h : p.plain s) : p.set v s = .ok () (p.put s v) := by
  cases p with
  | reg z r => rfl
  | reg8 r => rfl
  | mem pas => exact phWrite_plain _ h

/-- A plain place may be the operand of a locked instruction (R484). -/
theorem lockCheck_plain {p : Place} {s : State} (l : Bool) (h : p.plain s) : lockCheck l p s = .ok () s := by
  cases p with
  | reg z r => rfl
  | reg8 r => rfl
  | mem pas =>
    unfold Place.plain State.plain at h
    cases l with
    | false => rfl
    | true =>
      show noLockedApic pas s = _
      unfold noLockedApic
      rw [run_get_bind, h]
      rfl

/-- A write to a place changes the register or the bytes of the place only. -/
theorem put_frame (s : State) (p : Place) (v : Word) : MemFrame s (p.put s v) p.bytes := by
  intro a ha
  cases p with
  | reg z r => exact .inl (physByte_of_mem rfl rfl a)
  | reg8 r => exact .inl (physByte_of_mem rfl rfl a)
  | mem pas => exact .inl (physByte_storeAt_other s pas _ a ha)

/-- A store after a walk changes the stored bytes and accessed and dirty flags. -/
theorem MemFrame.after_walk {s t u : State} {pas : List Nat} (h : SameButWalk s t) (hu : MemFrame t u pas) :
    MemFrame s u pas := fun a ha => byte_trans h.pg (h.mem a List.not_mem_nil) (hu a ha)

/-- Memory frames see memory and the parameters only. -/
theorem MemFrame.congr {s t u : State} {pas : List Nat} (h : MemFrame s t pas) (hm : u.mem = t.mem)
    (hc : u.cfg = t.cfg) : MemFrame s u pas := by
  intro a ha
  have e : u.physByte a = t.physByte a := physByte_of_mem hc hm a
  exact (h a ha).imp (e.trans ·) fun h => ⟨h.1, h.2.1, e ▸ h.2.2⟩

end Sys2Proof.Machine
end

