-- ==== Sys2Proof/Laws/Encoding.lean ====
section
/-! SUPPORT. How the decoder reads what the encoder writes: bytes, ModRM and SIB, displacements, immediates. -/
namespace Sys2Proof
open Sys2Proof.Machine

/-- Taking as many bytes as a list has gives the list. -/
theorem takeBytes_append (xs rest : List Byte) : takeBytes xs.length (xs ++ rest) = some (xs, rest) := by
  induction xs with
  | nil => rfl
  | cons b bs ih => simp [takeBytes, ih]

/-- The bytes of a number, as many as asked for. -/
theorem leBytes_length (n v : Nat) : (leBytes n v).length = n := by
  induction n generalizing v with
  | zero => rfl
  | succ n ih => simp [leBytes, ih]

/-- Taking the bytes of a number gives them. -/
theorem takeBytes_le (n v : Nat) (rest : List Byte) : takeBytes n (leBytes n v ++ rest) = some (leBytes n v, rest) := by
  have := takeBytes_append (leBytes n v) rest
  rwa [leBytes_length] at this

/-- Four bytes hold a word. -/
theorem leWord_le4 (w : Word) : leWord (leBytes 4 w.toNat) = w := by
  unfold leWord
  rw [leNat_leBytes]
  apply BitVec.eq_of_toNat_eq
  have := w.isLt
  simp
  omega

/-- Two bytes hold a 16-bit value. -/
theorem le2 (h : Half) : BitVec.ofNat 16 (leNat (leBytes 2 h.toNat)) = h := by
  rw [leNat_leBytes]
  apply BitVec.eq_of_toNat_eq
  have := h.isLt
  simp
  omega

/-- Two bytes hold a word whose upper half is 0. -/
theorem leWord_le2 (w : Word) (h : w.toNat < 65536) : leWord (leBytes 2 w.toNat) = w := by
  unfold leWord
  rw [leNat_leBytes]
  apply BitVec.eq_of_toNat_eq
  have := w.isLt
  simp
  omega

/-- A ModRM or SIB byte as a number (R203, R204). -/
theorem modrm_toNat (m r x : Nat) (hm : m < 4) (hr : r < 8) (hx : x < 8) : (modrmByte m r x).toNat = 64 * m + 8 * r + x := by
  simp [modrmByte]; omega

/-- The number of a register names it (R203). -/
theorem reg_num (r : Reg) : r.num < 8 ∧ Reg.ofNum r.num = r := by cases r <;> exact ⟨by decide, rfl⟩
/-- The number of a byte register names it (R203). -/
theorem reg8_num (r : Reg8) : r.num < 8 ∧ Reg8.ofNum r.num = r := by cases r <;> exact ⟨by decide, rfl⟩

/-- The encoding of a 32-bit displacement (R203). -/
theorem dispOf_enc (d : Disp32) (rest : List Byte) : dispOf (encDisp32 d).1 ((encDisp32 d).2 ++ rest) = some (d, rest) := by
  cases d with
  | none => rfl
  | d8 v => simp [encDisp32, dispOf, takeBytes, leNat]
  | d32 w =>
    have : (encDisp32 (.d32 w)) = (2, leBytes 4 w.toNat) := rfl
    rw [this]
    simp only [dispOf]
    rw [takeBytes_le]
    simp [leWord_le4]

/-- The mod field of a displacement is no register form. -/
theorem encDisp_lt (d : Disp32) : (encDisp32 d).1 < 3 := by cases d <;> simp [encDisp32]

/-- Only an absent displacement has mod = 0. -/
theorem encDisp_zero (d : Disp32) : (encDisp32 d).1 = 0 ↔ d = .none := by cases d <;> simp [encDisp32]

/-- The encoding of an index register (R204). -/
theorem indexOf_enc (i : Option Index) (h : (match i with | some x => x.reg != .esp | none => true) = true) :
    indexOf (encIndex i).1 (encIndex i).2 = i ∧ (encIndex i).1 < 4 ∧ (encIndex i).2 < 8 := by
  cases i with
  | none => exact ⟨rfl, by decide, by decide⟩
  | some x =>
    obtain ⟨r, c⟩ := x
    cases r <;> cases c <;> first | exact ⟨rfl, by decide, by decide⟩ | exact absurd h (by decide)

/-- Decoding a memory operand from the fields of its ModRM byte. -/
theorem decodeRM_mem (a16 : Bool) (md g x : Nat) (bs : List Byte) (hm : md < 3) (hg : g < 8) (hx : x < 8) :
    decodeRM a16 (modrmByte md g x).toNat bs =
      (if a16 then decodeMem16 md x bs else decodeMem32 md x bs).map fun (m, r) => (.mem m, r) := by
  rw [modrm_toNat _ _ _ (by omega) hg hx]
  have h1 : (64 * md + 8 * g + x) / 64 = md := by omega
  have h2 : (64 * md + 8 * g + x) % 8 = x := by omega
  have h3 : md ≠ 3 := by omega
  simp only [decodeRM, h1, h2, if_neg h3]

/-- The reg field of a ModRM byte (R203). -/
theorem modrm_reg (md g x : Nat) (hm : md < 4) (hg : g < 8) (hx : x < 8) : (modrmByte md g x).toNat / 8 % 8 = g := by
  rw [modrm_toNat _ _ _ hm hg hx]; omega

/-- The encoding of a memory operand holds the reg field and decodes to the operand (R203, R204, R206). -/
theorem encMem_spec (a16 : Bool) (g : Nat) (hg : g < 8) (m : Mem) (h : m.wf a16 = true) (rest : List Byte) :
    ∃ b bs, encMem g m = b :: bs ∧ b.toNat / 8 % 8 = g ∧ decodeRM a16 b.toNat (bs ++ rest) = some (.mem m, rest) := by
  cases m with
  | abs32 d =>
    have ha : a16 = false := by simpa [Mem.wf] using h
    subst ha
    refine ⟨_, _, rfl, modrm_reg _ _ _ (by decide) hg (by decide), ?_⟩
    rw [decodeRM_mem _ _ _ _ _ (by decide) hg (by decide)]
    simp [decodeMem32, takeBytes_le, leWord_le4]
  | base32 b d =>
    simp only [Mem.wf, Bool.and_eq_true, Bool.not_eq_true', bne_iff_ne, Bool.or_eq_true] at h
    obtain ⟨⟨rfl, hb⟩, hd⟩ := h
    have hl := encDisp_lt d
    obtain ⟨hn, ho⟩ := reg_num b
    have h4 : b.num ≠ 4 := by cases b <;> simp_all [Reg.num]
    have h5 : ¬ (b.num = 5 ∧ (encDisp32 d).1 = 0) := by
      rw [encDisp_zero]; rintro ⟨h5, h6⟩
      cases b <;> simp_all [Reg.num]
    refine ⟨_, _, rfl, modrm_reg _ _ _ (by omega) hg hn, ?_⟩
    rw [decodeRM_mem _ _ _ _ _ hl hg hn]
    simp only [Bool.false_eq_true, if_false, decodeMem32, if_neg h4, if_neg h5, dispOf_enc, ho, Option.map_some]
  | sib b i d =>
    simp only [Mem.wf, Bool.and_eq_true, Bool.not_eq_true', bne_iff_ne, Bool.or_eq_true] at h
    obtain ⟨⟨rfl, hb⟩, hi⟩ := h
    have hl := encDisp_lt d
    obtain ⟨hn, ho⟩ := reg_num b
    obtain ⟨e1, e2, e3⟩ := indexOf_enc i (by cases i <;> simp_all)
    have h5 : ¬ (b.num = 5 ∧ (encDisp32 d).1 = 0) := by
      rw [encDisp_zero]; rintro ⟨h5, h6⟩
      cases b <;> simp_all [Reg.num]
    refine ⟨_, _, rfl, modrm_reg _ _ _ (by omega) hg (by decide), ?_⟩
    rw [decodeRM_mem _ _ _ _ _ hl hg (by decide)]
    have hm := modrm_toNat (encIndex i).1 (encIndex i).2 b.num e2 e3 hn
    have h6 : (64 * (encIndex i).1 + 8 * (encIndex i).2 + b.num) / 64 = (encIndex i).1 := by omega
    have h7 : (64 * (encIndex i).1 + 8 * (encIndex i).2 + b.num) / 8 % 8 = (encIndex i).2 := by omega
    have h8 : (64 * (encIndex i).1 + 8 * (encIndex i).2 + b.num) % 8 = b.num := by omega
    simp only [Bool.false_eq_true, if_false, decodeMem32, if_true, List.cons_append, hm, h6, h7, h8, if_neg h5,
      dispOf_enc, ho, e1, Option.map_some]
  | sibAbs i d =>
    simp only [Mem.wf, Bool.and_eq_true, Bool.not_eq_true'] at h
    obtain ⟨rfl, hi⟩ := h
    obtain ⟨e1, e2, e3⟩ := indexOf_enc i (by cases i <;> simp_all)
    refine ⟨_, _, rfl, modrm_reg _ _ _ (by decide) hg (by decide), ?_⟩
    rw [decodeRM_mem _ _ _ _ _ (by decide) hg (by decide)]
    have hm := modrm_toNat (encIndex i).1 (encIndex i).2 5 e2 e3 (by decide)
    have h6 : (64 * (encIndex i).1 + 8 * (encIndex i).2 + 5) / 64 = (encIndex i).1 := by omega
    have h7 : (64 * (encIndex i).1 + 8 * (encIndex i).2 + 5) / 8 % 8 = (encIndex i).2 := by omega
    have h8 : (64 * (encIndex i).1 + 8 * (encIndex i).2 + 5) % 8 = 5 := by omega
    simp only [Bool.false_eq_true, if_false, decodeMem32, if_true, List.cons_append, hm, h6, h7, h8, and_self,
      takeBytes_le, leWord_le4, e1, Option.map_some]
  | abs16 d =>
    have ha : a16 = true := by simpa [Mem.wf] using h
    subst ha
    refine ⟨_, _, rfl, modrm_reg _ _ _ (by decide) hg (by decide), ?_⟩
    rw [decodeRM_mem _ _ _ _ _ (by decide) hg (by decide)]
    simp [decodeMem16, takeBytes_le, le2]
  | base16 b d =>
    simp only [Mem.wf, Bool.and_eq_true, bne_iff_ne, Bool.or_eq_true] at h
    obtain ⟨rfl, hb⟩ := h
    have hn : b.num < 8 ∧ Base16.ofNum b.num = b := by cases b <;> exact ⟨by decide, rfl⟩
    cases d with
    | none =>
      have h5 : b.num ≠ 6 := by cases b <;> simp_all [Base16.num]
      refine ⟨_, _, rfl, modrm_reg _ _ _ (by decide) hg hn.1, ?_⟩
      rw [decodeRM_mem _ _ _ _ _ (by decide) hg hn.1]
      simp [decodeMem16, h5, hn.2]
    | d8 v =>
      refine ⟨_, _, rfl, modrm_reg _ _ _ (by decide) hg hn.1, ?_⟩
      rw [decodeRM_mem _ _ _ _ _ (by decide) hg hn.1]
      simp [decodeMem16, hn.2, takeBytes, leNat]
    | d16 v =>
      refine ⟨_, _, rfl, modrm_reg _ _ _ (by decide) hg hn.1, ?_⟩
      rw [decodeRM_mem _ _ _ _ _ (by decide) hg hn.1]
      simp [decodeMem16, takeBytes_le, hn.2, le2]

/-- The encoding of an r/m operand of operand size (R203). -/
theorem encRM_spec (a16 : Bool) (g : Nat) (hg : g < 8) (o : RM Reg) (h : o.wf a16 = true) (rest : List Byte) :
    ∃ b bs n, encRM g o = b :: bs ∧ b.toNat / 8 % 8 = g ∧ decodeRM a16 b.toNat (bs ++ rest) = some (n, rest) ∧
      toRM n = o := by
  cases o with
  | mem m =>
    obtain ⟨b, bs, h1, h2, h3⟩ := encMem_spec a16 g hg m h rest
    exact ⟨b, bs, _, h1, h2, h3, rfl⟩
  | reg r =>
    obtain ⟨hn, ho⟩ := reg_num r
    refine ⟨_, _, .reg r.num, rfl, modrm_reg _ _ _ (by decide) hg hn, ?_, ?_⟩
    · rw [modrm_toNat _ _ _ (by decide) hg hn]
      have h1 : (64 * 3 + 8 * g + r.num) / 64 = 3 := by omega
      have h2 : (64 * 3 + 8 * g + r.num) % 8 = r.num := by omega
      simp [decodeRM, h1, h2]
    · simp [toRM, ho]

/-- The encoding of a byte r/m operand (R203). -/
theorem encRM8_spec (a16 : Bool) (g : Nat) (hg : g < 8) (o : RM Reg8) (h : o.wf a16 = true) (rest : List Byte) :
    ∃ b bs n, encRM8 g o = b :: bs ∧ b.toNat / 8 % 8 = g ∧ decodeRM a16 b.toNat (bs ++ rest) = some (n, rest) ∧
      toRM8 n = o := by
  cases o with
  | mem m =>
    obtain ⟨b, bs, h1, h2, h3⟩ := encMem_spec a16 g hg m h rest
    exact ⟨b, bs, _, h1, h2, h3, rfl⟩
  | reg r =>
    obtain ⟨hn, ho⟩ := reg8_num r
    refine ⟨_, _, .reg r.num, rfl, modrm_reg _ _ _ (by decide) hg hn, ?_, ?_⟩
    · rw [modrm_toNat _ _ _ (by decide) hg hn]
      have h1 : (64 * 3 + 8 * g + r.num) / 64 = 3 := by omega
      have h2 : (64 * 3 + 8 * g + r.num) % 8 = r.num := by omega
      simp [decodeRM, h1, h2]
    · simp [toRM8, ho]
/-- An immediate of operand size (R205). -/
theorem finishImm_enc {c : DecodeCtx} {f : Word → Instr} {v : Word} {rest : List Byte} (h : fits16 c.osz16 v = true) :
    finishImm (immBytes c.osz16) f (encImm c v ++ rest) = .instr (f v) rest := by
  unfold finishImm encImm immBytes
  cases ho : c.osz16 with
  | false => simp [takeBytes_le, leWord_le4]
  | true =>
    have : v.toNat < 65536 := by simpa [fits16, ho] using h
    simp [takeBytes_le, leWord_le2 v this]
/-- An offset of address size (R205). -/
theorem finishImm_moffs {c : DecodeCtx} {f : Word → Instr} {v : Word} {rest : List Byte} (h : fits16 c.asz16 v = true) :
    finishImm (immBytes c.asz16) f (encMoffs c v ++ rest) = .instr (f v) rest := by
  unfold finishImm encMoffs immBytes
  cases ho : c.asz16 with
  | false => simp [takeBytes_le, leWord_le4]
  | true =>
    have : v.toNat < 65536 := by simpa [fits16, ho] using h
    simp [takeBytes_le, leWord_le2 v this]
/-- An opcode with an r/m operand of operand size, then what follows the operand. -/
theorem finishTail_modrm {c : DecodeCtx} {f : Nat → RM Nat → RmTail} {g : Nat} (hg : g < 8) {o : RM Reg}
    (h : o.wf c.asz16 = true) {rest : List Byte} {D : Decoded}
    (hk : ∀ n, toRM n = o → finishRm c (f g n) rest = D) :
    finishTail c (.modrm f) (encRM g o ++ rest) = D := by
  obtain ⟨b, bs, n, h1, h2, h3, h4⟩ := encRM_spec c.asz16 g hg o h rest
  rw [h1]
  simp only [finishTail, List.cons_append, h3, h2, hk n h4]
/-- An opcode with a byte r/m operand, then what follows the operand. -/
theorem finishTail_modrm8 {c : DecodeCtx} {f : Nat → RM Nat → RmTail} {g : Nat} (hg : g < 8) {o : RM Reg8}
    (h : o.wf c.asz16 = true) {rest : List Byte} {D : Decoded}
    (hk : ∀ n, toRM8 n = o → finishRm c (f g n) rest = D) :
    finishTail c (.modrm f) (encRM8 g o ++ rest) = D := by
  obtain ⟨b, bs, n, h1, h2, h3, h4⟩ := encRM8_spec c.asz16 g hg o h rest
  rw [h1]
  simp only [finishTail, List.cons_append, h3, h2, hk n h4]
/-- An opcode with a memory operand, then what follows the operand. -/
theorem finishTail_mem {c : DecodeCtx} {f : Nat → RM Nat → RmTail} {g : Nat} (hg : g < 8) {m : Mem}
    (h : m.wf c.asz16 = true) {rest : List Byte} {D : Decoded}
    (hk : finishRm c (f g (.mem m)) rest = D) :
    finishTail c (.modrm f) (encMem g m ++ rest) = D := by
  obtain ⟨b, bs, h1, h2, h3⟩ := encMem_spec c.asz16 g hg m h rest
  rw [h1]
  simp only [finishTail, List.cons_append, h3, h2, hk]

end Sys2Proof
end

