-- ==== Sys2Proof/Laws/Run.lean ====
section
/-! SUPPORT. What the shared operations of the instructions do when their operand checks succeed: one lemma an
operation, cited instead of unfolding it. -/
namespace Sys2Proof.Machine

/-- An instruction that goes on to the next one. -/
theorem runInsn_done {lockable : Bool} {body : M Unit} {s t : State} (hl : s.lockOk lockable)
    (h : body s = .ok () t) : runInsn lockable body s = .next t.done := runInsn_next hl h

/-- An instruction that places EIP itself. -/
theorem runJump_ok {lockable : Bool} {body : M Unit} {s t : State} (hl : s.lockOk lockable)
    (h : body s = .ok () t) : runJump lockable body s = .next t := runJump_next hl h

/-- An instruction whose body raises an exception: its effects are abandoned, the exception is taken (R405). -/
theorem runJump_raise {lockable : Bool} {body : M Unit} {s t : State} {e : Exc} (hl : s.lockOk lockable)
    (h : body s = .error (.raise e) t) : runJump lockable body s = takeException e (rollback s t) := by
  unfold runJump
  rw [run_bind_ok (a := ()) (t := s) (by rw [hl]; rfl), h]
  rfl

theorem runInsn_raise {lockable : Bool} {body : M Unit} {s t : State} {e : Exc} (hl : s.lockOk lockable)
    (h : body s = .error (.raise e) t) : runInsn lockable body s = takeException e (rollback s t) :=
  runJump_raise hl (run_bind_error h)

theorem runJump_refuse {lockable : Bool} {body : M Unit} {s t : State} {r : Refusal} (hl : s.lockOk lockable)
    (h : body s = .error (.refuse r) t) : runJump lockable body s = .refused r := by
  unfold runJump
  rw [run_bind_ok (a := ()) (t := s) (by rw [hl]; rfl), h]
  rfl

theorem runInsn_refuse {lockable : Bool} {body : M Unit} {s t : State} {r : Refusal} (hl : s.lockOk lockable)
    (h : body s = .error (.refuse r) t) : runInsn lockable body s = .refused r :=
  runJump_refuse hl (run_bind_error h)

@[simp] theorem rollback_self (s : State) : rollback s s = s := rfl

theorem run_atOsz (f : Sz → M Unit) (s : State) : atOsz f s = f s.osz s := rfl

theorem run_setFlags (f : Eflags → Eflags) (s : State) : setFlags f s = .ok () (s.withFlags (f s.eflags)) := rfl

/-- A write to a place changes the registers or memory only. -/
@[simp] theorem put_eflags (p : Place) (s : State) (v : Word) : (p.put s v).eflags = s.eflags := by
  cases p <;> simp [Place.put]
@[simp] theorem put_cfg (p : Place) (s : State) (v : Word) : (p.put s v).cfg = s.cfg := by
  cases p <;> simp [Place.put]
@[simp] theorem put_ctx (p : Place) (s : State) (v : Word) : (p.put s v).ctx = s.ctx := by
  cases p <;> simp [Place.put]
@[simp] theorem put_msr (p : Place) (s : State) (v : Word) : (p.put s v).msr = s.msr := by
  cases p <;> simp [Place.put]

/-- Whether a place is plain depends on the APIC's registers and the parameters only. -/
theorem plain_congr {s t : State} (hm : t.msr = s.msr) (hc : t.cfg = s.cfg) (pas : List Nat) :
    t.plain pas ↔ s.plain pas := by
  unfold State.plain State.inApic State.apicOn State.apicPage
  rw [hm, hc]

theorem place_plain_congr {s t : State} (hm : t.msr = s.msr) (hc : t.cfg = s.cfg) (p : Place) :
    p.plain t ↔ p.plain s := by
  cases p with
  | reg z r => exact Iff.rfl
  | reg8 r => exact Iff.rfl
  | mem pas => exact plain_congr hm hc pas

/-! ## Completing -/

/-- An instruction completes if it answers `t`, its checks are a walk, and the rest changes only the given bytes. -/
theorem completes_of {i : Instr} {s s1 t : State} {bytes : List Nat} (h : exec i s = .next t)
    (w : SameButWalk s s1) (m : MemFrame s1 t bytes) : Completes i s s1 t bytes := ⟨h, w, m.after_walk w⟩

theorem memFrame_same {s t : State} (hm : t.mem = s.mem) (hc : t.cfg = s.cfg) : MemFrame s t [] :=
  fun a _ => .inl (physByte_of_mem hc hm a)

theorem memFrame_storeAt {s u t : State} (pas : List Nat) (v : Nat) (hm : u.mem = s.mem) (hc : u.cfg = s.cfg)
    (ht : t.mem = (u.storeAt pas v).mem) (htc : t.cfg = s.cfg) : MemFrame s t pas := fun a ha =>
  .inl ((physByte_of_mem (s := u.storeAt pas v) (by rw [htc, storeAt_cfg, hc]) ht a).trans
    ((physByte_storeAt_other u pas v a ha).trans (physByte_of_mem hc hm a)))

/-- A write to a place, with updates of other fields before and after it. -/
theorem memFrame_put {s u t : State} (p : Place) (v : Word) (hm : u.mem = s.mem) (hc : u.cfg = s.cfg)
    (ht : t.mem = (p.put u v).mem) (htc : t.cfg = s.cfg) : MemFrame s t p.bytes := by
  cases p with
  | reg z r => exact memFrame_same (ht.trans hm) htc
  | reg8 r => exact memFrame_same (ht.trans hm) htc
  | mem pas => exact memFrame_storeAt pas _ hm hc ht htc

theorem walks_of_place {z : Sz} {k : Access} {o : RM Reg} {s s1 : State} {p : Place}
    (h : place z k o s = .ok p s1) : SameButWalk s s1 := (walks_place s z k o).of_ok h

theorem walks_of_place8 {k : Access} {o : RM Reg8} {s s1 : State} {p : Place}
    (h : place8 k o s = .ok p s1) : SameButWalk s s1 := (walks_place8 s k o).of_ok h

theorem walks_of_memAddrs {m : Mem} {n al : Nat} {k : Access} {s s1 : State} {pas : List Nat}
    (h : memAddrs m n al k s = .ok pas s1) : SameButWalk s s1 := (walks_memAddrs s m n al k).of_ok h

theorem walks_of_memAddrsAt {m : Mem} {o : Word} {n al : Nat} {k : Access} {s s1 : State} {pas : List Nat}
    (h : memAddrsAt m o n al k s = .ok pas s1) : SameButWalk s s1 := (walks_memAddrsAt s m o n al k).of_ok h

theorem walks_of_dataAddrs {x : Seg} {off : Word} {n al : Nat} {k : Access} {s s1 : State} {pas : List Nat}
    (h : dataAddrs x off n al k s = .ok pas s1) : SameButWalk s s1 := (walks_dataAddrs s x off n al k).of_ok h

theorem walks_of_linAddrs {lin : Word} {n : Nat} {k : Access} {u : Bool} {s s1 : State} {pas : List Nat}
    (h : linAddrs lin n k u s = .ok pas s1) : SameButWalk s s1 := (walks_linAddrs s lin n k u).of_ok h

theorem walks_of_pushPlaces {ss : SegReg} {e : Exc} {user : Bool} {z : Sz} {n : Nat} {esp : Word}
    {s s1 : State} {r : List (List Nat) × Word} (h : pushPlaces ss e user z n esp s = .ok r s1) :
    SameButWalk s s1 := (walks_pushPlaces s ss e user z n esp).of_ok h

/-! ## Operations -/

/-- The eight two-operand operations on a plain destination (R601, R602). -/
theorem aluOp_ok {o : AluOp} {z : Sz} {dst : Access → M Place} {src : M Word} {s s1 s2 : State} {p : Place} {b : Word}
    (hd : dst (if o == .cmp then .read else .write) s = .ok p s1) (hl : p.plain s1) (hs : src s1 = .ok b s2)
    (hp : p.plain s2) :
    aluOp o z dst src s = .ok () (
      (if o == .cmp then s2.used (if o.isLogic then 1 else 0)
        else p.put (s2.used (if o.isLogic then 1 else 0)) (o.result z (p.value s2) b s2.eflags.cf)).withFlags
      (o.flags z (p.value s2) b (Config.freeBit s2.free) s2.eflags)) := by
  unfold aluOp
  rw [run_bind_ok hd, run_get_bind, run_bind_ok (lockCheck_plain _ hl), run_bind_ok hs, run_bind_ok (place_get hp)]
  cases o
  all_goals
    simp only [AluOp.isLogic, if_true, Bool.false_eq_true, if_false]
    first
    | exact run_bind_ok (place_set _ (by exact (place_plain_congr rfl rfl p).mpr hp)) |>.trans (by
        rw [run_setFlags]
        simp [State.used, AluOp.flags])
    | rfl

/-- TEST on a plain operand (R617). -/
theorem testOp_ok {z : Sz} {dst : M Place} {src : M Word} {s s1 s2 : State} {p : Place} {b : Word}
    (hd : dst s = .ok p s1) (hs : src s1 = .ok b s2) (hp : p.plain s2) :
    testOp z dst src s = .ok () ((s2.used 1).withFlags
      (logicFlags z (p.value s2 &&& b) (Config.freeBit s2.free) s2.eflags)) := by
  unfold testOp
  rw [run_bind_ok hd, run_bind_ok hs, run_bind_ok (place_get hp), run_freshBit_bind]
  rfl

/-- A one-operand operation on a plain operand (R618, R619). -/
theorem unaryOp_ok {dst : M Place} {res : Word → Word} {fl : Word → Eflags → Eflags} {s s1 : State} {p : Place}
    (hd : dst s = .ok p s1) (hp : p.plain s1) :
    unaryOp dst res fl s = .ok () ((p.put s1 (res (p.value s1))).withFlags (fl (p.value s1) s1.eflags)) := by
  unfold unaryOp
  rw [run_bind_ok hd, run_get_bind, run_bind_ok (lockCheck_plain _ hp), run_bind_ok (place_get hp),
    run_bind_ok (place_set _ hp), run_setFlags, put_eflags]

/-- MOV to a plain destination (R603). -/
theorem movOp_ok {dst : M Place} {src : M Word} {s s1 s2 : State} {p : Place} {v : Word} (hd : dst s = .ok p s1)
    (hs : src s1 = .ok v s2) (hp : p.plain s2) : movOp dst src s = .ok () (p.put s2 v) := by
  unfold movOp
  rw [run_bind_ok hd, run_bind_ok hs, place_set _ hp]

/-- Reading a plain r/m operand (R601). -/
theorem readRM_ok {z : Sz} {o : RM Reg} {s s1 : State} {p : Place} (hd : place z .read o s = .ok p s1)
    (hp : p.plain s1) : readRM z o s = .ok (p.value s1) s1 := by
  unfold readRM
  rw [run_bind_ok hd, place_get hp]

theorem readRM8_ok {o : RM Reg8} {s s1 : State} {p : Place} (hd : place8 .read o s = .ok p s1)
    (hp : p.plain s1) : readRM8 o s = .ok (p.value s1) s1 := by
  unfold readRM8
  rw [run_bind_ok hd, place_get hp]

end Sys2Proof.Machine
end

