-- ==== Sys2Proof/Laws/Keeps.lean ====
section
/-! SUPPORT. Which properties of the state every computation keeps: once for each primitive and each shared operation, for any
property that the elementary updates of the state keep. -/
namespace Sys2Proof.Machine

-- one theorem at a time: side by side, each would start a thread of its own
set_option Elab.async false

variable {α β : Type} {P : State → Prop}

/-- A computation keeps a property, however it ends. -/
def Keeps (P : State → Prop) (x : M α) : Prop :=
  ∀ s, P s → match x s with
    | .ok _ t => P t
    | .error _ t => P t

/-- An outcome that is a next state has a property. -/
def Res (P : State → Prop) : Result → Prop
  | .next t => P t
  | _ => True

/-! ## Primitives -/

theorem keeps_pure (a : α) : Keeps P (pure a : M α) := fun _ h => h
theorem keeps_throw (e : Stop) : Keeps P (throw e : M α) := fun _ h => h
theorem keeps_raise (e : Exc) : Keeps P (raise e : M α) := fun _ h => h
theorem keeps_gp0 : Keeps P (gp0 : M α) := fun _ h => h
theorem keeps_refuse (r : Refusal) : Keeps P (refuse r : M α) := fun _ h => h
theorem keeps_get : Keeps P (get : M State) := fun _ h => h
theorem keeps_set {t : State} (h : P t) : Keeps P (set t : M PUnit) := fun _ _ => h
theorem keeps_modify {f : State → State} (h : ∀ s, P s → P (f s)) : Keeps P (modify f : M PUnit) := fun s hs => h s hs

theorem keeps_require (c : Bool) (e : Exc) : Keeps P (require c e) := by
  cases c
  · exact keeps_raise e
  · exact keeps_pure ()

theorem keeps_bind {x : M α} {f : α → M β} (hx : Keeps P x) (hf : ∀ a, Keeps P (f a)) : Keeps P (x >>= f) := by
  intro s hs
  rw [run_bind]
  have := hx s hs
  cases h : x s with
  | ok a t =>
    rw [h] at this
    exact hf a t this
  | error e t =>
    rw [h] at this
    exact this

theorem keeps_get_bind {f : State → M β} (hf : ∀ s, P s → Keeps P (f s)) : Keeps P (get >>= f) :=
  fun s hs => hf s hs s hs

theorem keeps_map {x : M α} (g : α → β) (hx : Keeps P x) : Keeps P (g <$> x) := by
  rw [← bind_pure_comp]
  exact keeps_bind hx fun a => keeps_pure _

theorem keeps_ite {c : Prop} [Decidable c] {x y : M α} (hx : Keeps P x) (hy : Keeps P y) :
    Keeps P (if c then x else y) := by
  split
  · exact hx
  · exact hy

/-- A choice between two computations, followed by the same rest. -/
theorem keeps_either {γ : Type} {c : Prop} [Decidable c] {x y : M γ} {k : γ → M β} (hx : Keeps P x) (hy : Keeps P y)
    (hk : ∀ a, Keeps P (k a)) : Keeps P (if c then x >>= k else y >>= k) :=
  keeps_ite (keeps_bind hx hk) (keeps_bind hy hk)

/-- An optional computation, followed by the rest. -/
theorem keeps_when {γ : Type} {c : Prop} [Decidable c] {x : M γ} {k : M β} (hx : Keeps P x) (hk : Keeps P k) :
    Keeps P (if c then x >>= fun _ => k else k) :=
  keeps_ite (keeps_bind hx fun _ => hk) hk

/-- Two optional computations, followed by the rest. -/
theorem keeps_when2 {γ δ : Type} {c : Prop} [Decidable c] {x : M γ} {y : γ → M δ} {k : M β} (hx : Keeps P x)
    (hy : ∀ b, Keeps P (y b)) (hk : Keeps P k) : Keeps P (if c then x >>= fun b => y b >>= fun _ => k else k) :=
  keeps_ite (keeps_bind hx fun b => keeps_bind (hy b) fun _ => hk) hk

/-- What the elementary updates of the state do to a property that depends on memory, CR0, CR4, the copies saved in SMM and
the vectors in the local APIC alone. -/
structure Stable (P : State → Prop) : Prop where
  /-- any other field may change -/
  soft : ∀ s t, P s → t.mem = s.mem → t.memWb = s.memWb → t.sys.cr0 = s.sys.cr0 → t.sys.cr4 = s.sys.cr4 →
    t.smm = s.smm → t.apic.irr = s.apic.irr → t.apic.isr = s.apic.isr → t.apic.tmr = s.apic.tmr → P t
  /-- bytes may be stored -/
  write : ∀ s ws, P s → P (s.physWrite ws)
  /-- CR0.TS may be set -/
  ts : ∀ s, P s → P { s with sys := { s.sys with cr0 := setBit s.sys.cr0 3 true } }
  /-- a vector from 16 on may be logged -/
  log : ∀ s v l, 16 ≤ v → P s → P { s with apic := s.apic.log v l }
  /-- a fault keeps memory and gives back the rest -/
  mix : ∀ s t, P s → P t → P (rollback s t)
  /-- the bit of a vector may leave the ISR -/
  eoi : ∀ s v, P s → P { s with apic := { s.apic with isr := setVec s.apic.isr v false } }

namespace Stable

variable (hP : Stable P)
include hP

/-- A property after an update of the other fields, from the state before it. -/
theorem soft' {s t : State} (hs : P s) (h1 : t.mem = s.mem := by rfl) (h2 : t.memWb = s.memWb := by rfl)
    (h3 : t.sys.cr0 = s.sys.cr0 := by rfl) (h4 : t.sys.cr4 = s.sys.cr4 := by rfl) (h5 : t.smm = s.smm := by rfl)
    (h6 : t.apic.irr = s.apic.irr := by rfl) (h7 : t.apic.isr = s.apic.isr := by rfl)
    (h8 : t.apic.tmr = s.apic.tmr := by rfl) : P t := hP.soft s t hs h1 h2 h3 h4 h5 h6 h7 h8

/-! ## The local APIC -/

theorem keeps_fresh : Keeps P fresh := fun _ hs => hP.soft' hs
theorem keeps_freshBit : Keeps P freshBit := fun _ hs => hP.soft' hs

theorem setLvt {s : State} (hs : P s) (e : Lvt) (w : Word) : P { s with apic := s.apic.setLvt e w } := by
  cases e <;> exact hP.soft' hs

theorem apicErrors {s : State} (hs : P s) (bits : Byte) : P (s.apicErrors bits) := by
  unfold State.apicErrors
  have h : P { s with apic := { s.apic with errs := s.apic.errs ||| bits } } := hP.soft' hs
  repeat' first
    | exact hP.soft' h
    | exact hP.soft' (hP.log _ _ false (Nat.le_of_not_lt ‹_›) h)
    | split
    | dsimp only

theorem apicError {s : State} (hs : P s) (k : Nat) : P (s.apicError k) := hP.apicErrors hs _

theorem post {s : State} (hs : P s) (f : Pending → Pending) : P (s.post f) := by
  unfold State.post; split
  · exact hs
  · exact hP.soft' hs

theorem postInit {s : State} (hs : P s) : P s.postInit := hP.post hs _
theorem postNmi {s : State} (hs : P s) : P s.postNmi := hP.post hs _
theorem postSmi {s : State} (hs : P s) : P s.postSmi := hP.post hs _
theorem postExtInt {s : State} (hs : P s) : P s.postExtInt := hP.post hs _
theorem postSipi {s : State} (hs : P s) (v : Byte) : P (s.postSipi v) := by
  unfold State.postSipi; split
  · exact hP.soft' hs
  · exact hs

theorem postLocal {s : State} (hs : P s) (e : Lvt) (m : DelMode) : P (s.postLocal e m) := by
  have h : P (match m with
      | .smi => s.postSmi
      | .nmi => s.postNmi
      | .init => s.postInit
      | _ => s.postExtInt) := by
    split
    exacts [hP.postSmi hs, hP.postNmi hs, hP.postInit hs, hP.postExtInt hs]
  unfold State.postLocal
  dsimp only
  split
  · exact h
  · exact hP.soft' h

theorem acceptFixed {s : State} (hs : P s) (v : Byte) (l o : Bool) : P (s.acceptFixed v l o) := by
  unfold State.acceptFixed
  split
  · exact hP.apicError hs 6
  · split
    · rename_i h _
      exact hP.log s _ l (Nat.le_of_not_lt h) hs
    · split <;> exact hP.soft' hs

theorem resendSelf {s : State} (hs : P s) : P s.resendSelf := by
  unfold State.resendSelf
  have h : P { s with apic := { s.apic with selfRetry := [] } } := hP.soft' hs
  revert h
  generalize { s with apic := { s.apic with selfRetry := [] } } = t
  induction s.apic.selfRetry generalizing t with
  | nil => exact id
  | cons v vs ih => exact fun h => ih _ (hP.acceptFixed h v false true)

theorem localFixed {s : State} (hs : P s) (e : Lvt) (l : Bool) : P (s.localFixed e l) := by
  unfold State.localFixed
  dsimp only
  split
  · exact hP.apicError (hP.setLvt hs e _) 6
  · split
    · rename_i h _
      have hl := hP.log s _ l (Nat.le_of_not_lt h) hs
      split <;> exact hP.soft' (hP.setLvt hl e _)
    · exact hP.setLvt hs e _

theorem keeps_localDeliver (e : Lvt) : Keeps P (localDeliver e) := by
  unfold localDeliver
  refine keeps_get_bind fun s hs => ?_
  simp only
  split
  · exact keeps_pure _
  · have ht := hP.setLvt hs e (setBit (s.apic.lvt e) 12 false)
    split
    · exact keeps_set (hP.localFixed hs e _)
    · exact keeps_set (hP.postLocal ht e _)
    · exact keeps_set (hP.postLocal ht e _)
    · exact keeps_set (hP.postLocal ht e _)
    · refine keeps_set ?_
      split
      · exact ht
      · exact hP.postLocal ht e _
    · exact keeps_throw _

theorem keeps_perfDeliver : Keeps P perfDeliver := by
  unfold perfDeliver
  refine keeps_bind (hP.keeps_localDeliver _) fun _ => keeps_modify fun s hs => ?_
  split
  · exact hP.soft' hs
  · exact hs

theorem keeps_lintEdge (e : Lvt) (w : Bool) : Keeps P (lintEdge e w) := by
  unfold lintEdge
  refine keeps_get_bind fun s hs => ?_
  split
  · split
    · split
      · exact keeps_set (hP.postNmi hs)
      · exact keeps_pure _
    · split
      · exact keeps_pure _
      · exact hP.keeps_localDeliver e
  · exact keeps_pure _

omit hP in
theorem keeps_forIn {x : α} (l : List β) {f : β → α → M (ForInStep α)} (hf : ∀ b a, Keeps P (f b a)) :
    Keeps P (forIn l x f) := by
  induction l generalizing x with
  | nil => exact keeps_pure _
  | cons b bs ih =>
    rw [List.forIn_cons]
    refine keeps_bind (hf b x) fun r => ?_
    cases r with
    | done a => exact keeps_pure _
    | yield a => exact ih

theorem keeps_pollLocal : Keeps P pollLocal := by
  unfold pollLocal
  refine keeps_bind (keeps_modify fun s hs => ?_) fun _ => keeps_get_bind fun s hs => ?_
  · split
    · exact hP.resendSelf hs
    · exact hs
  split
  · have loop : Keeps P (do
        forIn [Lvt.timer, Lvt.thermal, Lvt.perf, Lvt.lint0, Lvt.lint1, Lvt.error] PUnit.unit fun e _ => do
          if bit ((← get).apic.lvt e) 12 then
            localDeliver e
            pure (ForInStep.yield PUnit.unit)
          else pure (ForInStep.yield PUnit.unit)
        pure () : M PUnit) := by
      refine keeps_bind (keeps_forIn _ fun e _ => keeps_get_bind fun t ht => ?_) fun _ => keeps_pure _
      split
      · exact keeps_bind (hP.keeps_localDeliver e) fun _ => keeps_pure _
      · exact keeps_pure _
    simp only
    split
    · exact keeps_bind (hP.keeps_localDeliver _) fun _ => loop
    · exact loop
  · exact keeps_pure _

omit hP in
theorem keeps_acceptLogical (m : Nat) : Keeps P (acceptLogical m) := by
  unfold acceptLogical
  refine keeps_get_bind fun s hs => ?_
  repeat' first
    | exact keeps_pure _
    | exact keeps_refuse _
    | split

omit hP in
theorem keeps_isDestination (d : Nat) (l : Bool) : Keeps P (isDestination d l) := by
  unfold isDestination
  refine keeps_get_bind fun s hs => ?_
  split
  · exact keeps_acceptLogical d
  · exact keeps_pure _

theorem keeps_takeMessage (m : DelMode) (v : Byte) (l c o : Bool) : Keeps P (takeMessage m v l c o) := by
  refine keeps_modify fun s hs => ?_
  cases m with
  | fixed => dsimp only; split; exacts [hP.acceptFixed hs v l o, hs]
  | lowest => dsimp only; split; exacts [hP.acceptFixed hs v l o, hs]
  | smi => exact hP.postSmi hs
  | nmi => exact hP.postNmi hs
  | init => exact hP.postInit hs
  | startUp => exact hP.postSipi hs v
  | extInt => dsimp only; split; exacts [hP.postExtInt hs, hs]
  | initDeassert => dsimp only; split; exacts [hs, hP.soft' hs]
  | bipi => exact hs
  | fipi => exact hs

theorem keeps_arbitrationLost : Keeps P arbitrationLost := by
  unfold arbitrationLost
  refine keeps_get_bind fun s hs => ?_
  split
  · split
    · exact keeps_bind hP.keeps_fresh fun _ => keeps_modify fun _ ht => hP.soft' ht
    · exact keeps_set (hP.soft' hs)
  · exact keeps_pure _

theorem send {s : State} (hs : P s) (e : BusEvent) : P (s.send e) := hP.soft' hs

theorem keeps_acceptMessage (m : IntMsg) : Keeps P (acceptMessage m) := by
  unfold acceptMessage
  refine keeps_get_bind fun s hs => ?_
  repeat' first
    | exact keeps_pure _
    | exact keeps_refuse _
    | exact hP.keeps_arbitrationLost
    | exact hP.keeps_takeMessage _ _ _ _ _
    | exact keeps_isDestination _ _
    | exact keeps_get
    | refine keeps_bind ?_ fun _ => ?_
    | refine keeps_ite ?_ ?_

theorem keeps_acceptMsi (a d : Word) (c : Bool) : Keeps P (acceptMsi a d c) := by
  unfold acceptMsi
  refine keeps_get_bind fun s hs => ?_
  repeat' first
    | exact keeps_pure _
    | exact keeps_refuse _
    | exact hP.keeps_takeMessage _ _ _ _ _
    | exact keeps_isDestination _ _
    | refine keeps_bind ?_ fun _ => ?_
    | refine keeps_ite ?_ ?_
    | split

omit hP in
theorem keeps_ipiToSelf (m : DelMode) (sh d : Nat) (l : Bool) : Keeps P (ipiToSelf m sh d l) := by
  unfold ipiToSelf
  split
  · exact keeps_pure _
  · split
    exacts [keeps_isDestination d l, keeps_pure _, keeps_pure _]

theorem keeps_ipiChosen (m : DelMode) (b : Bool) : Keeps P (ipiChosen m b) := keeps_ite hP.keeps_freshBit (keeps_pure _)

theorem keeps_sendIpi : Keeps P sendIpi := by
  unfold sendIpi
  refine keeps_get_bind fun s hs => ?_
  dsimp only
  split
  · exact keeps_refuse _
  · refine keeps_ite (keeps_when (keeps_refuse _) (keeps_when (keeps_refuse _) ?rest)) ?rest
    refine keeps_ite (keeps_modify fun s hs => hP.apicErrors hs _) ?_
    refine keeps_bind (keeps_ipiToSelf _ _ _ _) fun self => keeps_when (keeps_modify fun s hs => hP.soft' hs) ?_
    exact keeps_ite (keeps_bind (hP.keeps_ipiChosen _ _) fun _ => hP.keeps_takeMessage _ _ _ _ _) (keeps_pure _)

theorem illegalRegister {s : State} (hs : P s) : P s.illegalRegister := by
  unfold State.illegalRegister
  split
  · exact hP.apicError hs 7
  · exact hs

theorem keeps_apicRead (o : Nat) : Keeps P (apicRead o) := by
  unfold apicRead
  refine keeps_get_bind fun s hs => ?_
  dsimp only
  split
  · exact keeps_bind (keeps_set (hP.illegalRegister hs)) fun _ => keeps_pure _
  · split
    · exact keeps_refuse _
    · exact keeps_pure _

theorem keeps_writeLvt (e : Lvt) (v : Word) : Keeps P (writeLvt e v) := by
  unfold writeLvt
  refine keeps_get_bind fun s hs => ?_
  repeat' first
    | exact keeps_pure _
    | exact hP.keeps_freshBit
    | exact keeps_modify fun s hs => hP.setLvt hs e _
    | exact keeps_modify fun s hs => hP.apicError hs 6
    | refine keeps_bind ?_ fun _ => ?_
    | refine keeps_ite ?_ ?_

theorem writeSvr {s : State} (hs : P s) (v : Word) : P (writeSvr s v) := by
  unfold Machine.writeSvr
  dsimp only
  generalize (if s.isXapic = true then v &&& 0x1FF#32 else (v &&& 0x3FF#32) ||| 0xF#32) = w
  split
  · exact hP.soft' hs
  · exact hP.soft' hs

theorem writeEoi {s : State} (hs : P s) : P (writeEoi s) := by
  unfold Machine.writeEoi
  split
  · exact hs
  · rename_i v _
    have h : P { s with apic := { s.apic with isr := setVec s.apic.isr v false }.endRemote v } :=
      hP.soft _ _ (hP.eoi s v hs) rfl rfl rfl rfl rfl (endRemote_irr _ _) (endRemote_isr _ _) (endRemote_tmr _ _)
    dsimp only
    split
    · exact hP.soft' h
    · exact h

theorem keeps_writeTpr (v : Word) : Keeps P (writeTpr v) := by
  unfold writeTpr
  intro s hs
  rw [run_get_bind]
  cases h : s.apic.intr with
  | none => exact hP.soft' hs
  | some i =>
    dsimp only
    rw [run_ite]
    by_cases c : i.toNat / 16 ≤ (v.setWidth 8 : Byte).toNat / 16
    · rw [if_pos c, run_freshBit_bind]; exact hP.soft' hs
    · rw [if_neg c]; exact hP.soft' hs

theorem keeps_apicWrite (o : Nat) (v : Word) : Keeps P (apicWrite o v) := by
  unfold apicWrite
  refine keeps_get_bind fun s hs => ?_
  dsimp only
  split
  · exact keeps_bind (keeps_set (hP.illegalRegister hs)) fun _ => keeps_pure _
  · split
    all_goals first
      | exact hP.keeps_writeTpr _
      | exact hP.keeps_writeLvt _ _
      | exact keeps_set (hP.writeEoi hs)
      | exact keeps_set (hP.writeSvr hs _)
      | exact keeps_set (hP.soft' hs)
      | exact keeps_pure _
      | exact keeps_bind (keeps_set (hP.soft' hs)) fun _ => hP.keeps_sendIpi

theorem keeps_timerTick : Keeps P timerTick := by
  unfold timerTick
  refine keeps_get_bind fun s hs => ?_
  dsimp only
  split
  · split
    · exact keeps_bind (keeps_set (hP.soft' hs)) fun _ => hP.keeps_localDeliver _
    · exact keeps_set (hP.soft' hs)
  · exact keeps_pure _

/-! ## Accesses -/

theorem keeps_phRead (pas : List Nat) : Keeps P (phRead pas) := by
  unfold phRead
  refine keeps_get_bind fun s hs => ?_
  split
  · split
    · exact keeps_bind (hP.keeps_apicRead _) fun _ => keeps_pure _
    · exact keeps_refuse _
  · exact keeps_pure _

theorem keeps_phWrite (pas : List Nat) (v : Nat) : Keeps P (phWrite pas v) := by
  unfold phWrite
  refine keeps_get_bind fun s hs => ?_
  split
  · split
    · exact hP.keeps_apicWrite _ _
    · exact keeps_refuse _
  · exact keeps_set (hP.write s _ hs)

theorem keeps_pageFault (lin : Word) (p : Bool) (k : Access) (u r : Bool) : Keeps P (pageFault lin p k u r : M α) :=
  keeps_bind (keeps_modify fun _ hs => hP.soft' hs) fun _ => keeps_raise _

theorem keeps_orEntry (a n v b : Nat) : Keeps P (orEntry a n v b) := by
  unfold orEntry
  split
  · exact keeps_modify fun s hs => hP.write s _ hs
  · exact keeps_pure _

omit hP in
theorem keeps_walkRead (a n : Nat) : Keeps P (walkRead a n) := by
  unfold walkRead
  exact keeps_get_bind fun _ _ => keeps_when (keeps_refuse _) (keeps_pure _)

theorem keeps_walk32 (lin : Word) (k : Access) (u : Bool) : Keeps P (walk32 lin k u) := by
  unfold walk32
  refine keeps_get_bind fun s hs => ?_
  repeat' first
    | exact keeps_pure _
    | exact hP.keeps_pageFault _ _ _ _ _
    | exact hP.keeps_orEntry _ _ _ _
    | exact keeps_walkRead _ _
    | exact keeps_get
    | refine keeps_bind ?_ fun _ => ?_
    | refine keeps_ite ?_ ?_

theorem keeps_walkPae (lin : Word) (k : Access) (u : Bool) : Keeps P (walkPae lin k u) := by
  unfold walkPae
  refine keeps_get_bind fun s hs => ?_
  repeat' first
    | exact keeps_pure _
    | exact hP.keeps_pageFault _ _ _ _ _
    | exact hP.keeps_orEntry _ _ _ _
    | exact keeps_walkRead _ _
    | exact keeps_get
    | refine keeps_bind ?_ fun _ => ?_
    | refine keeps_ite ?_ ?_

theorem keeps_lookupOrWalk (lin : Word) (k : Access) (u : Bool) : Keeps P (lookupOrWalk lin k u) := by
  have walk (s : State) : Keeps P (lookupOrWalk.walk lin k u s) := by
    unfold lookupOrWalk.walk
    dsimp only
    have last (e : TlbEntry) : Keeps P (do
        let k ← fresh
        modify fun s => { s with tlb := if Config.tlbKeep k then e :: s.tlb else s.tlb }
        return e) :=
      keeps_bind hP.keeps_fresh fun n => keeps_bind (keeps_modify fun s hs => hP.soft' hs) fun _ => keeps_pure _
    split
    · exact keeps_bind (hP.keeps_walkPae _ _ _) last
    · exact keeps_bind (hP.keeps_walk32 _ _ _) last
  unfold lookupOrWalk
  refine keeps_get_bind fun s hs => ?_
  split
  · exact walk s
  · refine keeps_bind hP.keeps_fresh fun n => ?_
    split
    · split
      · exact keeps_pure _
      · exact hP.keeps_pageFault _ _ _ _ _
    · exact walk s

theorem keeps_translate (lin : Word) (k : Access) (u : Bool) : Keeps P (translate lin k u) := by
  unfold translate
  refine keeps_get_bind fun s hs => ?_
  split
  · exact keeps_pure _
  · exact keeps_bind (hP.keeps_lookupOrWalk _ _ _) fun _ => keeps_pure _

theorem keeps_linAddrs (lin : Word) (n : Nat) (k : Access) (u : Bool) : Keeps P (linAddrs lin n k u) := by
  unfold linAddrs
  refine keeps_bind (hP.keeps_translate _ _ _) fun p => ?_
  split
  · exact keeps_pure _
  · exact keeps_bind (hP.keeps_translate _ _ _) fun _ => keeps_pure _

theorem keeps_sysRead (lin : Word) (n : Nat) : Keeps P (sysRead lin n) :=
  keeps_bind (hP.keeps_linAddrs _ _ _ _) fun _ => hP.keeps_phRead _

omit hP in
theorem keeps_readPdptes (c : Word) (e : Exc) : Keeps P (readPdptes c e) := by
  unfold readPdptes
  iterate 4 refine keeps_bind (keeps_walkRead _ _) fun _ => ?_
  exact keeps_bind (keeps_require _ _) fun _ => keeps_pure _

/-! ## Segments -/

theorem keeps_readDescAt (lin : Word) : Keeps P (readDescAt lin) :=
  keeps_bind (hP.keeps_sysRead _ _) fun _ => keeps_pure _

theorem keeps_readDesc (sel : Half) (e : Exc) : Keeps P (readDesc sel e) := by
  unfold readDesc
  refine keeps_get_bind fun s hs => ?_
  split
  · exact hP.keeps_readDescAt _
  · exact keeps_raise _

theorem keeps_setAccessed (sel : Half) (d : Desc) : Keeps P (setAccessed sel d) := by
  unfold setAccessed
  split
  · exact keeps_pure _
  · refine keeps_get_bind fun s hs => ?_
    dsimp only
    split
    · refine keeps_bind ?_ fun _ => keeps_pure _
      exact keeps_bind (hP.keeps_linAddrs _ _ _ _) fun _ => hP.keeps_phWrite _ _
    · exact keeps_pure _

omit hP in
theorem keeps_segCheckReg (r : SegReg) (o : Word) (n : Nat) (k : Access) (e : Exc) : Keeps P (segCheckReg r o n k e) :=
  keeps_bind (keeps_require _ _) fun _ => keeps_pure _

omit hP in
theorem keeps_segCheck (x : Seg) (o : Word) (n : Nat) (k : Access) : Keeps P (segCheck x o n k) :=
  keeps_get_bind fun _ _ => keeps_bind (keeps_require _ _) fun _ => keeps_segCheckReg _ _ _ _ _

omit hP in
theorem keeps_alignCheck (lin : Word) (n : Nat) : Keeps P (alignCheck lin n) :=
  keeps_get_bind fun _ _ => keeps_require _ _

theorem keeps_dataAddrs (x : Seg) (o : Word) (n a : Nat) (k : Access) : Keeps P (dataAddrs x o n a k) :=
  keeps_bind (keeps_segCheck _ _ _ _) fun _ => keeps_get_bind fun _ _ =>
    keeps_bind (hP.keeps_linAddrs _ _ _ _) fun _ => keeps_bind (keeps_alignCheck _ _) fun _ => keeps_pure _

theorem keeps_loadSeg (x : Seg) (sel : Half) : Keeps P (loadSeg x sel) := by
  unfold loadSeg checkSs checkDataSeg
  refine keeps_get_bind fun s hs => ?_
  repeat' first
    | exact keeps_pure _
    | exact keeps_gp0
    | exact keeps_require _ _
    | exact hP.keeps_readDesc _ _
    | exact hP.keeps_setAccessed _ _
    | exact keeps_get
    | refine keeps_bind ?_ fun _ => ?_
    | refine keeps_ite ?_ ?_

/-! ## Operands and the stack -/

theorem keeps_memAddrs (m : Mem) (n a : Nat) (k : Access) : Keeps P (memAddrs m n a k) :=
  keeps_get_bind fun _ _ => hP.keeps_dataAddrs _ _ _ _ _

theorem keeps_memAddrsAt (m : Mem) (o : Word) (n a : Nat) (k : Access) : Keeps P (memAddrsAt m o n a k) :=
  keeps_get_bind fun _ _ => hP.keeps_dataAddrs _ _ _ _ _

theorem keeps_placeGet (p : Place) : Keeps P p.get := by
  cases p with
  | reg z r => exact keeps_get_bind fun _ _ => keeps_pure _
  | reg8 r => exact keeps_get_bind fun _ _ => keeps_pure _
  | mem pas => exact keeps_bind (hP.keeps_phRead _) fun _ => keeps_pure _

theorem keeps_placeSet (p : Place) (v : Word) : Keeps P (p.set v) := by
  cases p with
  | reg z r => exact keeps_modify fun _ hs => hP.soft' hs
  | reg8 r => exact keeps_modify fun _ hs => hP.soft' hs
  | mem pas => exact hP.keeps_phWrite _ _

theorem keeps_place (z : Sz) (k : Access) (o : RM Reg) : Keeps P (place z k o) := by
  cases o with
  | reg r => exact keeps_pure _
  | mem m => exact keeps_bind (hP.keeps_memAddrs _ _ _ _) fun _ => keeps_pure _

theorem keeps_place8 (k : Access) (o : RM Reg8) : Keeps P (place8 k o) := by
  cases o with
  | reg r => exact keeps_pure _
  | mem m => exact keeps_bind (hP.keeps_memAddrs _ _ _ _) fun _ => keeps_pure _

omit hP in
theorem keeps_lockCheck (l : Bool) (p : Place) : Keeps P (lockCheck l p) := by
  cases p with
  | reg z r => exact keeps_pure _
  | reg8 r => exact keeps_pure _
  | mem pas =>
    unfold lockCheck noLockedApic
    dsimp only
    split
    · refine keeps_get_bind fun _ _ => ?_
      split
      · exact keeps_refuse _
      · exact keeps_pure _
    · exact keeps_pure _

theorem keeps_readRM (z : Sz) (o : RM Reg) : Keeps P (readRM z o) :=
  keeps_bind (hP.keeps_place _ _ _) fun _ => hP.keeps_placeGet _

theorem keeps_readRM8 (o : RM Reg8) : Keeps P (readRM8 o) :=
  keeps_bind (hP.keeps_place8 _ _) fun _ => hP.keeps_placeGet _

omit hP in
theorem keeps_pushLins (ss : SegReg) (e : Exc) (z : Sz) (n : Nat) : ∀ esp, Keeps P (pushLins ss e z n esp) := by
  induction n with
  | zero => exact fun _ => keeps_pure _
  | succ n ih =>
    exact fun esp => keeps_bind (keeps_segCheckReg _ _ _ _ _) fun _ => keeps_bind (ih _) fun _ => keeps_pure _

theorem keeps_pushPas (u : Bool) (z : Sz) (lins : List Word) : Keeps P (pushPas u z lins) := by
  induction lins with
  | nil => exact keeps_pure _
  | cons lin lins ih =>
    exact keeps_bind (hP.keeps_linAddrs _ _ _ _) fun _ => keeps_when (keeps_alignCheck _ _)
      (keeps_bind ih fun _ => keeps_pure _)

theorem keeps_pushPlaces (ss : SegReg) (e : Exc) (u : Bool) (z : Sz) (n : Nat) (esp : Word) :
    Keeps P (pushPlaces ss e u z n esp) :=
  keeps_bind (keeps_pushLins _ _ _ _ _) fun _ => keeps_bind (hP.keeps_pushPas _ _ _) fun _ => keeps_pure _

theorem keeps_pushValues : ∀ (ps : List (List Nat)) (vs : List Word), Keeps P (pushValues ps vs)
  | [], _ => by unfold pushValues; exact keeps_pure _
  | _ :: _, [] => by unfold pushValues; exact keeps_pure _
  | _ :: ps, _ :: vs => by
    unfold pushValues
    exact keeps_bind (hP.keeps_phWrite _ _) fun _ => keeps_pushValues ps vs

theorem keeps_setEsp (v : Word) : Keeps P (setEsp v) := keeps_modify fun _ hs => hP.soft' hs

theorem keeps_peekPlace (z : Sz) (k : Nat) : Keeps P (peekPlace z k) :=
  keeps_get_bind fun _ _ => hP.keeps_dataAddrs _ _ _ _ _

theorem keeps_peek (z : Sz) (k : Nat) : Keeps P (peek z k) :=
  keeps_bind (hP.keeps_peekPlace _ _) fun _ => keeps_bind (hP.keeps_phRead _) fun _ => keeps_pure _

theorem keeps_advance : Keeps P advance := keeps_modify fun _ hs => hP.soft' hs

/-! ## The task switch -/

theorem keeps_tssField (pas : List Nat) (k n : Nat) : Keeps P (tssField pas k n) := hP.keeps_phRead _

theorem keeps_readTss32 (pas : List Nat) : Keeps P (readTss32 pas) := by
  unfold readTss32
  repeat' first
    | exact keeps_pure _
    | exact hP.keeps_tssField _ _ _
    | refine keeps_bind ?_ fun _ => ?_

theorem keeps_readTss16 (pas : List Nat) : Keeps P (readTss16 pas) := by
  unfold readTss16
  repeat' first
    | exact keeps_pure _
    | exact hP.keeps_tssField _ _ _
    | exact keeps_get
    | refine keeps_bind ?_ fun _ => ?_

theorem keeps_writeFields (pas : List Nat) (n st : Nat) (vs : List Nat) : ∀ k, Keeps P (writeFields pas n st k vs) := by
  induction vs with
  | nil => exact fun _ => keeps_pure _
  | cons v vs ih => exact fun k => keeps_bind (hP.keeps_phWrite _ _) fun _ => ih _

theorem keeps_saveTask (is32 : Bool) (pas : List Nat) (r : Resume) (f : Eflags) : Keeps P (saveTask is32 pas r f) := by
  unfold saveTask
  refine keeps_get_bind fun s hs => ?_
  dsimp only
  split
  · exact keeps_bind (hP.keeps_writeFields _ _ _ _ _) fun _ => hP.keeps_writeFields _ _ _ _ _
  · exact hP.keeps_writeFields _ _ _ _ _

omit hP in
theorem keeps_asTrap {x : M α} (hx : Keeps P x) : Keeps P (asTrap x) := by
  intro s hs
  have h := hx s hs
  unfold asTrap
  cases hr : x s with
  | ok a t => rw [hr] at h; exact h
  | error e t =>
    rw [hr] at h
    cases e <;> exact h

theorem keeps_unqualified (sel : Half) : Keeps P (unqualified sel) :=
  keeps_bind hP.keeps_fresh fun _ => keeps_bind hP.keeps_fresh fun _ =>
    keeps_bind hP.keeps_fresh fun _ => keeps_pure _

theorem keeps_visible (sel : Half) : Keeps P (visible sel) := by
  unfold visible
  repeat' first
    | exact keeps_pure _
    | exact hP.keeps_readDescAt _
    | exact keeps_get
    | refine keeps_bind ?_ fun _ => ?_
    | refine keeps_map _ ?_
    | refine keeps_ite ?_ ?_
    | split

theorem keeps_dataDescs (ext : Bool) : ∀ l, Keeps P (dataDescs ext l)
  | [] => keeps_pure _
  | _ :: r => keeps_ite (keeps_dataDescs ext r) (keeps_bind (hP.keeps_readDesc _ _) fun _ =>
      keeps_bind (keeps_require _ _) fun _ => keeps_bind (keeps_dataDescs ext r) fun _ => keeps_pure _)

omit hP in
theorem keeps_rowOver (ok : TaskSeg → Bool) (e : TaskSeg → Exc) : ∀ l, Keeps P (rowOver ok e l)
  | [] => keeps_pure _
  | _ :: ds => keeps_bind (keeps_require _ _) fun _ => keeps_rowOver ok e ds

theorem keeps_loadDataSegs : ∀ l, Keeps P (loadDataSegs l)
  | [] => keeps_pure _
  | _ :: ts => keeps_bind (hP.keeps_setAccessed _ _) fun _ =>
      keeps_bind (keeps_modify fun _ hs => hP.soft' hs) fun _ => keeps_loadDataSegs ts

theorem keeps_qualifyData (t : TssImage) (ext : Bool) : Keeps P (qualifyData t ext) := by
  unfold qualifyData
  refine keeps_bind (hP.keeps_dataDescs _ _) fun ds => ?_
  iterate 3 refine keeps_bind (keeps_rowOver _ _ _) fun _ => ?_
  exact hP.keeps_loadDataSegs ds

theorem keeps_qualifyLdt (sel : Half) (e : Exc) : Keeps P (qualifyLdt sel e) := by
  unfold qualifyLdt
  refine keeps_ite (keeps_pure _) (keeps_bind (keeps_require _ _) fun _ => ?_)
  refine keeps_bind (hP.keeps_readDesc _ _) fun _ => keeps_bind (keeps_require _ _) fun _ => ?_
  exact keeps_bind (keeps_modify fun _ hs => hP.soft' hs) fun _ => keeps_pure _

theorem keeps_qualify (t : TssImage) (ext : Bool) : Keeps P (qualify t ext) := by
  unfold qualify
  refine keeps_bind (hP.keeps_qualifyLdt _ _) fun _ => keeps_bind (hP.keeps_visible _) fun cs => ?_
  refine keeps_bind (keeps_require _ _) fun _ => keeps_bind (keeps_require _ _) fun _ => ?_
  refine keeps_bind (hP.keeps_readDesc _ _) fun _ => ?_
  iterate 4 refine keeps_bind (keeps_require _ _) fun _ => ?_
  cases cs with
  | none => exact keeps_bind (keeps_raise _) fun _ => hP.keeps_qualifyData _ _
  | some cd =>
    dsimp only
    iterate 3 refine keeps_bind (keeps_require _ _) fun _ => ?_
    refine keeps_bind (hP.keeps_setAccessed _ _) fun _ => keeps_bind (keeps_modify fun _ hs => hP.soft' hs) fun _ => ?_
    refine keeps_bind (hP.keeps_setAccessed _ _) fun _ => keeps_bind (keeps_modify fun _ hs => hP.soft' hs) fun _ => ?_
    exact hP.keeps_qualifyData _ _

theorem loaded {u : State} (hu : P u) (g : Gprs) (e : Word) (f : Eflags) (sg : Segs) (r : SysRegs)
    (p : Pending) (h0 : r.cr0 = setBit u.sys.cr0 3 true) (h4 : r.cr4 = u.sys.cr4) :
    P { disarm u with gpr := g, eip := e, eflags := f, segs := sg, sys := r, pend := p } :=
  hP.soft _ _ (hP.ts u hu) rfl rfl h0 h4 rfl rfl rfl rfl

theorem withTables {s : State} (hs : P s) (cr3 : Word) (o : Option (List Quad)) : P (s.withTables cr3 o) := by
  unfold State.withTables
  dsimp only
  cases o <;> split <;> exact hP.soft' hs

theorem keeps_loadTask (k : SwitchKind) (t : TssImage) (o : Option (List Quad)) : Keeps P (loadTask k t o) := by
  unfold loadTask
  iterate 7 refine keeps_bind (hP.keeps_unqualified _) fun _ => ?_
  exact keeps_get_bind fun s hs => keeps_set (hP.loaded (hP.withTables hs t.cr3 o) _ _ _ _ _ _ rfl rfl)

theorem keeps_busyAddr (sel : Half) : Keeps P (busyAddr sel) := keeps_get_bind fun _ _ => hP.keeps_linAddrs _ _ _ _

theorem keeps_oldBusyAddr (ext : Bool) : Keeps P (oldBusyAddr ext) :=
  keeps_get_bind fun _ _ => keeps_bind (keeps_require _ _) fun _ => hP.keeps_busyAddr _

theorem keeps_underCr3 (cr3 : Word) (o : Option (List Quad)) {x : M Unit} (hx : Keeps P x) :
    Keeps P (underCr3 cr3 o x) := by
  intro s hs
  have h := hx _ (hP.withTables hs cr3 o)
  unfold underCr3
  cases hr : x (s.withTables cr3 o) with
  | ok a t => rw [hr] at h; exact hP.soft' (hP.mix s t hs h)
  | error e t => rw [hr] at h; exact hP.soft' (hP.mix s t hs h)

theorem keeps_taskLdt (sel : Half) : Keeps P (taskLdt sel) := by
  unfold taskLdt
  refine keeps_get_bind fun s hs => keeps_ite (keeps_pure _) (keeps_bind (hP.keeps_visible _) fun o => ?_)
  cases o <;> exact keeps_pure _

theorem keeps_descsPaged (ldt : SegReg) : ∀ l, Keeps P (descsPaged ldt l)
  | [] => keeps_pure _
  | sel :: r => by
    unfold descsPaged
    refine keeps_ite (keeps_get_bind fun s hs => ?_) (keeps_descsPaged ldt r)
    split
    · exact keeps_bind (hP.keeps_linAddrs _ _ _ _) fun _ => keeps_descsPaged ldt r
    · exact keeps_descsPaged ldt r

theorem keeps_taskDescsPaged (t : TssImage) : Keeps P (taskDescsPaged t) :=
  keeps_bind (hP.keeps_taskLdt _) fun _ => hP.keeps_descsPaged _ _

theorem keeps_readTss (b : Bool) (pas : List Nat) : Keeps P (readTss b pas) :=
  keeps_ite (hP.keeps_readTss32 _) (hP.keeps_readTss16 _)

omit hP in
theorem keeps_addrsIf (c : Bool) {x : M (List Nat)} (hx : Keeps P x) : Keeps P (addrsIf c x) := keeps_ite hx (keeps_pure _)

omit hP in
theorem keeps_actIf (c : Bool) {x : M Unit} (hx : Keeps P x) : Keeps P (actIf c x) := keeps_ite hx (keeps_pure _)

theorem keeps_taskDesc (kd : SwitchKind) (sel : Half) (ext : Bool) : Keeps P (taskDesc kd sel ext) := by
  unfold taskDesc
  refine keeps_bind (keeps_require _ _) fun _ => keeps_bind (hP.keeps_readDesc _ _) fun d => ?_
  iterate 4 refine keeps_bind (keeps_require _ _) fun _ => ?_
  exact keeps_pure _

theorem keeps_taskPlaces (kd : SwitchKind) (sel : Half) (d : Desc) (ext : Bool) :
    Keeps P (taskPlaces kd sel d ext) := by
  unfold taskPlaces
  refine keeps_get_bind fun s hs => keeps_bind (keeps_require _ _) fun _ => ?_
  iterate 3 refine keeps_bind (hP.keeps_linAddrs _ _ _ _) fun _ => ?_
  refine keeps_bind (keeps_addrsIf _ (hP.keeps_linAddrs _ _ _ _)) fun _ => ?_
  refine keeps_bind (keeps_addrsIf _ (hP.keeps_oldBusyAddr _)) fun _ => ?_
  refine keeps_bind (keeps_addrsIf _ (hP.keeps_busyAddr _)) fun _ => ?_
  exact keeps_pure _

theorem keeps_taskTables (d : Desc) (t : TssImage) (ext : Bool) : Keeps P (taskTables d t ext) := by
  unfold taskTables
  refine keeps_get_bind fun s hs => keeps_when (keeps_refuse _) ?_
  refine keeps_either (keeps_map _ (keeps_readPdptes _ _)) (keeps_pure _) fun ps => ?_
  exact keeps_bind (hP.keeps_underCr3 _ _ (hP.keeps_taskDescsPaged _)) fun _ => keeps_pure _

theorem keeps_leaveTask (kd : SwitchKind) (sel : Half) (d : Desc) (p : TaskPlaces) (r : Resume) :
    Keeps P (leaveTask kd sel d p r) := by
  unfold leaveTask
  refine keeps_get_bind fun s hs => keeps_bind (keeps_actIf _ ?_) fun _ => keeps_bind (hP.keeps_saveTask _ _ _ _) fun _ => ?_
  · exact keeps_bind (hP.keeps_phRead _) fun _ => hP.keeps_phWrite _ _
  · iterate 2 refine keeps_bind (keeps_actIf _ (hP.keeps_phWrite _ _)) fun _ => ?_
    exact keeps_modify fun _ ht => hP.soft' ht

theorem keeps_enterTask (kd : SwitchKind) (d : Desc) (p : TaskPlaces) (o : Option (List Quad)) (ext : Bool) :
    Keeps P (enterTask kd d p o ext) := by
  unfold enterTask
  refine keeps_bind (hP.keeps_readTss _ _) fun t => keeps_bind (hP.keeps_loadTask _ _ _) fun _ => ?_
  exact keeps_bind (keeps_asTrap (hP.keeps_qualify _ _)) fun _ => keeps_modify fun _ hs => hP.soft' hs

theorem keeps_taskSwitch (kd : SwitchKind) (sel : Half) (r : Resume) (ext : Bool) :
    Keeps P (taskSwitch kd sel r ext) := by
  unfold taskSwitch
  refine keeps_bind (hP.keeps_taskDesc _ _ _) fun d => keeps_bind (hP.keeps_taskPlaces _ _ _ _) fun p => ?_
  refine keeps_bind (hP.keeps_readTss _ _) fun t => keeps_bind (hP.keeps_taskTables _ _ _) fun o => ?_
  refine keeps_bind (hP.keeps_leaveTask _ _ _ _ _) fun _ => keeps_bind (hP.keeps_enterTask _ _ _ _ _) fun _ => ?_
  exact keeps_pure _

/-! ## Delivery -/

theorem keeps_tssStack (cpl : Nat) (ext : Bool) : Keeps P (tssStack cpl ext) := by
  unfold tssStack
  refine keeps_get_bind fun s hs => ?_
  dsimp only
  split
  all_goals
    refine keeps_bind (keeps_require _ _) fun _ => keeps_bind (hP.keeps_sysRead _ _) fun _ => ?_
    exact keeps_bind (hP.keeps_sysRead _ _) fun _ => keeps_pure _

theorem keeps_innerSs (sel : Half) (cpl : Nat) (ext : Bool) : Keeps P (innerSs sel cpl ext) := by
  unfold innerSs
  refine keeps_bind (keeps_require _ _) fun _ => keeps_bind (hP.keeps_readDesc _ _) fun d => ?_
  refine keeps_bind (keeps_require _ _) fun _ => keeps_bind (keeps_require _ _) fun _ => ?_
  exact keeps_bind (hP.keeps_setAccessed _ _) fun _ => keeps_pure _

theorem keeps_deliverReal (ev : Event) : Keeps P (deliverReal ev) := by
  unfold deliverReal
  refine keeps_get_bind fun s hs => ?_
  repeat' first
    | exact keeps_require _ _
    | exact hP.keeps_sysRead _ _
    | exact hP.keeps_pushPlaces _ _ _ _ _ _
    | exact hP.keeps_pushValues _ _
    | exact hP.keeps_setEsp _
    | exact keeps_modify fun _ hs => hP.soft' hs
    | refine keeps_bind ?_ fun _ => ?_

theorem keeps_deliverGate (ev : Event) (g : Desc) (ext : Bool) : Keeps P (deliverGate ev g ext) := by
  unfold deliverGate
  refine keeps_get_bind fun s hs => ?_
  repeat' first
    | exact keeps_require _ _
    | exact hP.keeps_readDesc _ _
    | exact hP.keeps_setAccessed _ _
    | exact hP.keeps_tssStack _ _
    | exact hP.keeps_innerSs _ _ _
    | exact hP.keeps_pushPlaces _ _ _ _ _ _
    | exact hP.keeps_pushValues _ _
    | exact keeps_modify fun _ hs => hP.soft' hs
    | refine keeps_bind ?_ fun _ => ?_
    | refine keeps_ite ?_ ?_

theorem keeps_deliverTask (ev : Event) (g : Desc) (ext : Bool) : Keeps P (deliverTask ev g ext) := by
  unfold deliverTask
  refine keeps_bind (hP.keeps_taskSwitch _ _ _ _) fun r => ?_
  split
  · exact keeps_pure _
  · refine keeps_asTrap (keeps_get_bind fun s hs => ?_)
    refine keeps_bind (hP.keeps_pushPlaces _ _ _ _ _ _) fun _ => ?_
    exact keeps_bind (hP.keeps_pushValues _ _) fun _ => hP.keeps_setEsp _

theorem keeps_handlerEntered : Keeps P handlerEntered := keeps_modify fun _ hs => hP.soft' hs

theorem keeps_deliverOnce (ev : Event) : Keeps P (deliverOnce ev) := by
  unfold deliverOnce deliverProt
  refine keeps_get_bind fun s hs => ?_
  repeat' first
    | exact keeps_refuse _
    | exact keeps_require _ _
    | exact hP.keeps_deliverReal ev
    | exact hP.keeps_readDescAt _
    | exact hP.keeps_deliverTask _ _ _
    | exact hP.keeps_deliverGate _ _ _
    | exact hP.keeps_handlerEntered
    | exact keeps_get
    | refine keeps_bind ?_ fun _ => ?_
    | refine keeps_ite ?_ ?_

theorem holdException {s : State} (hs : P s) (b : Bool) (ev : Event) : P (s.holdException b ev) := by
  cases b
  · exact hs
  · exact hP.soft' hs

theorem nested {k : Event → State → Result} (hk : ∀ ev s, P s → Res P (k ev s)) {hold : State → State}
    (hh : ∀ s, P s → P (hold s)) (ev : Event) (e : Exc) {s : State} (hs : P s) : Res P (nestedException k hold ev e s) := by
  unfold nestedException
  split
  · exact hP.soft' hs
  · split
    · exact hk _ _ (hP.soft' hs)
    · exact hk _ _ (hh _ hs)

theorem deliverLoop (n : Nat) : ∀ b ev s, P s → Res P (deliverLoop n b ev s) := by
  induction n with
  | zero => exact fun b ev s hs => hP.soft' hs
  | succ n ih =>
    intro b ev s hs
    have h := hP.keeps_deliverOnce ev s hs
    unfold Machine.deliverLoop
    split
    · rename_i hr; rw [hr] at h; exact hP.soft' h
    · trivial
    · trivial
    · rename_i hr; rw [hr] at h; exact hP.nested (ih _) (fun _ h => hP.holdException h _ _) _ _ (hP.mix s _ hs h)
    · rename_i hr; rw [hr] at h; exact hP.nested (ih _) (fun _ h => h) _ _ h

/-- Taking an event leads to a state with the property (R420, R409). -/
theorem takeEvent (ev : Event) {s : State} (hs : P s) : Res P (takeEvent ev s) := hP.deliverLoop _ _ ev s hs

/-- Taking an exception leads to a state with the property (R404). -/
theorem takeException (e : Exc) {s : State} (hs : P s) : Res P (takeException e s) := hP.takeEvent _ hs

/-- Taking an exception of a task switch after its commit point leads to a state with the property (R326). -/
theorem takeTaskException (e : Exc) {s : State} (hs : P s) : Res P (takeTaskException e s) := hP.deliverLoop _ _ _ s hs

/-- An instruction whose body keeps the property leads to a state with it, whether it completes or raises an exception
(R405, R413). -/
theorem runJump {l : Bool} {b : M Unit} (hb : Keeps P b) {s : State} (hs : P s) : Res P (runJump l b s) := by
  have h : Keeps P (do require (!s.locked || l) .ud; b : M Unit) := keeps_bind (keeps_require _ _) fun _ => hb
  have h := h s hs
  unfold Machine.runJump conclude
  split
  · rename_i hr; rw [hr] at h; exact h
  · rename_i hr; rw [hr] at h; exact hP.takeException _ (hP.mix s _ hs h)
  · rename_i hr; rw [hr] at h; exact hP.takeTaskException _ h
  · trivial
  · trivial

theorem runInsn {l : Bool} {b : M Unit} (hb : Keeps P b) {s : State} (hs : P s) : Res P (runInsn l b s) :=
  hP.runJump (keeps_bind hb fun _ => hP.keeps_advance) hs

/-! ## Returning -/

theorem keeps_checkReturnCs (sel : Half) (off : Word) : Keeps P (checkReturnCs sel off) := by
  unfold checkReturnCs
  refine keeps_get_bind fun s hs => ?_
  repeat' first
    | exact keeps_pure _
    | exact keeps_gp0
    | exact keeps_require _ _
    | exact hP.keeps_readDesc _ _
    | refine keeps_bind ?_ fun _ => ?_
    | refine keeps_ite ?_ ?_

theorem keeps_checkReturnSs (sel : Half) (cpl : Nat) : Keeps P (checkReturnSs sel cpl) := by
  unfold checkReturnSs
  dsimp only
  refine keeps_bind (keeps_require _ _) fun _ => keeps_bind (hP.keeps_readDesc _ _) fun d => ?_
  refine keeps_bind (keeps_require _ _) fun _ => keeps_bind (keeps_require _ _) fun _ => ?_
  exact keeps_bind (hP.keeps_setAccessed _ _) fun _ => keeps_pure _

theorem keeps_farReturn (z : Sz) (k n : Nat) {fl : M (Eflags → Eflags)} (hf : Keeps P fl) :
    Keeps P (farReturn z k n fl) := by
  unfold farReturn
  refine keeps_get_bind fun s hs => ?_
  repeat' first
    | exact hf
    | exact hP.keeps_peek _ _
    | exact hP.keeps_checkReturnCs _ _
    | exact hP.keeps_checkReturnSs _ _
    | exact hP.keeps_setAccessed _ _
    | exact keeps_modify fun _ hs => hP.soft' hs
    | refine keeps_bind ?_ fun _ => ?_
    | refine keeps_ite ?_ ?_

theorem keeps_farReturnReal (z : Sz) (k n : Nat) {fl : M (Eflags → Eflags)} (hf : Keeps P fl) :
    Keeps P (farReturnReal z k n fl) := by
  unfold farReturnReal
  refine keeps_get_bind fun s hs => keeps_bind (hP.keeps_peek _ _) fun _ => keeps_bind (hP.keeps_peek _ _) fun _ => ?_
  refine keeps_bind hf fun _ => keeps_bind (keeps_require _ _) fun _ => keeps_modify fun _ hs => hP.soft' hs

theorem keeps_handlerDone : Keeps P handlerDone := keeps_modify fun _ hs => hP.soft' hs

theorem keeps_popFlags (z : Sz) : Keeps P (popFlags z) := by
  unfold popFlags
  refine keeps_get_bind fun s hs => keeps_bind (hP.keeps_peek _ _) fun _ => ?_
  exact keeps_when (keeps_refuse _) (keeps_pure _)

theorem keeps_iretBody : Keeps P iretBody := by
  unfold iretBody
  refine keeps_get_bind fun s hs => keeps_ite ?_ ?_
  · refine keeps_bind (hP.keeps_sysRead _ _) fun _ => keeps_bind hP.keeps_handlerDone fun _ => ?_
    exact keeps_bind (hP.keeps_taskSwitch _ _ _ _) fun _ => keeps_pure _
  · exact keeps_either (hP.keeps_farReturn _ _ _ (hP.keeps_popFlags _)) (hP.keeps_farReturnReal _ _ _ (hP.keeps_popFlags _))
      fun _ => hP.keeps_handlerDone

end Stable
end Sys2Proof.Machine
end

