-- ==== Sys2Proof/Laws/Switch.lean ====
section
/-! SUPPORT. Descriptors read and loaded, and the task switch: what the shared operations do when the conditions that
`DescAt`, `Accessed`, `Qualifies` and `Switches` name hold. -/
namespace Sys2Proof.Machine

/-! ## Bit fields -/

theorem field_eq (w : Word) (lo n : Nat) : field w lo n = (w.extractLsb' lo n).toNat := by
  rw [field, BitVec.extractLsb'_toNat, Nat.shiftRight_eq_div_pow]

/-- A field outside the bits that are set. -/
theorem field_or_of_zero {w m : Word} {lo n : Nat} (h : m.extractLsb' lo n = 0#n) :
    field (w ||| m) lo n = field w lo n := by
  rw [field_eq, field_eq, BitVec.extractLsb'_or, h, BitVec.or_zero]

/-- A bit that is not one of those set. -/
theorem bit_or_of_zero {w m : Word} {i : Nat} (h : m.getLsbD i = false) : bit (w ||| m) i = bit w i := by
  rw [bit, bit, BitVec.getLsbD_or, h, Bool.or_false]

theorem byte1_eq (w : Word) : w.toNat / 256 % 256 = (w.extractLsb' 8 8).toNat := field_eq w 8 8

theorem bit_of_extract {w : Word} {lo n i : Nat} (h : i < n) : (field w lo n).testBit i = bit w (lo + i) := by
  rw [field_eq, BitVec.testBit_toNat, BitVec.getLsbD_extractLsb', bit]
  simp [h]

/-- Setting the accessed flag in byte 5 of a descriptor that has it clear adds 1. -/
theorem accessed_byte {w : Word} (h : (field w 8 4).testBit 0 = false) :
    field w 8 8 + 1 = (w ||| 0x100#32).toNat / 256 % 256 := by
  rw [bit_of_extract (by decide)] at h
  have h0 : (w.extractLsb' 8 8).getLsbD 0 = false := by rw [BitVec.getLsbD_extractLsb']; simpa [bit] using h
  rw [byte1_eq, field_eq, BitVec.extractLsb'_or]
  generalize w.extractLsb' 8 8 = b at h0
  show b.toNat + 1 = (b ||| 1#8).toNat
  revert b
  decide

/-- Setting the busy flag in byte 5 of a TSS descriptor. -/
theorem busy_byte (d : Desc) : busyByte d true = (d.hi ||| 0x200#32).toNat / 256 % 256 := by
  unfold busyByte
  rw [byte1_eq, field_eq, BitVec.extractLsb'_or, BitVec.toNat_or]
  rfl

/-- Clearing the busy flag in byte 5 of a TSS descriptor. -/
theorem busy_clear (b : Nat) (h : b < 256) : (if b.testBit 1 then b - 2 else b) = b &&& 0xFD := by
  have key : ∀ x : Byte, (if x.toNat.testBit 1 then x.toNat - 2 else x.toNat) = x.toNat &&& 0xFD := by decide +kernel
  have := key (BitVec.ofNat 8 b)
  rwa [BitVec.toNat_ofNat, Nat.mod_eq_of_lt h] at this

/-! ## Descriptors -/

theorem sysRead_ok {lin : Word} {n v : Nat} {s s1 : State} (h : SysItem s lin n v s1) : sysRead lin n s = .ok v s1 := by
  obtain ⟨pas, hl, hp, rfl⟩ := h
  unfold sysRead
  rw [run_bind_ok hl, phRead_plain hp]

theorem readDescAt_ok {lin : Word} {pas : List Nat} {s s1 : State} (hl : linAddrs lin 8 .read false s = .ok pas s1)
    (hp : s1.plain pas) : readDescAt lin s =
      .ok ⟨BitVec.ofNat 32 (s1.valueAt pas), BitVec.ofNat 32 (s1.valueAt pas / 2 ^ 32)⟩ s1 := by
  unfold readDescAt
  rw [run_bind_ok (sysRead_ok ⟨pas, hl, hp, rfl⟩)]
  rfl

/-- The descriptor a selector names is read (R131). -/
theorem readDesc_ok {sel : Half} {d : Desc} {s s1 : State} (h : DescAt s sel d s1) (e : Exc) :
    readDesc sel e s = .ok d s1 := by
  obtain ⟨lin, pas, ha, hl, hp, rfl⟩ := h
  unfold readDesc
  rw [run_get_bind, ha]
  exact readDescAt_ok hl hp

/-- The descriptor of a selector that is not null is visible (R261). -/
theorem visible_ok {sel : Half} {d : Desc} {s s1 : State} (hn : isNull sel = false) (h : DescAt s sel d s1) :
    visible sel s = .ok (some d) s1 := by
  obtain ⟨lin, pas, ha, hl, hp, rfl⟩ := h
  unfold visible
  rw [hn, if_neg Bool.false_ne_true, run_get_bind, ha]
  exact run_bind_ok (readDescAt_ok hl hp)

/-- Reading a descriptor is a walk. -/
theorem DescAt.walks {sel : Half} {d : Desc} {s s1 : State} (h : DescAt s sel d s1) : SameButWalk s s1 := by
  obtain ⟨lin, pas, -, hl, -⟩ := h
  exact walks_of_linAddrs hl

/-- The accessed flag of a descriptor is set (R144). -/
theorem setAccessed_ok {sel : Half} {d d1 : Desc} {bytes : List Nat} {s s1 : State}
    (h : Accessed s sel d d1 bytes s1) : setAccessed sel d s = .ok d1 s1 := by
  unfold setAccessed
  rcases h with ⟨ht, rfl, -, rfl⟩ | ⟨ht, rfl, lin, t, ha, hl, hp, rfl⟩
  · rw [if_pos ht]
    rfl
  · rw [if_neg (by rw [ht]; decide), run_get_bind, ha]
    refine run_bind_ok (a := ()) ?_
    unfold writeDescByte5
    rw [run_bind_ok hl, phWrite_plain _ hp, accessed_byte ht]

/-- The descriptor cache after a TSS descriptor's busy flag is set (R139). -/
theorem toSegReg_busy {d : Desc} (h : d.isTss = true) (sel : Half) :
    { d.toSegReg sel with attr := { d.attr with typ := if d.tss32 then 11#4 else 3#4 } } =
      Desc.toSegReg { d with hi := d.hi ||| 0x200#32 } sel := by
  have ht : (if d.tss32 then 11#4 else 3#4) = BitVec.ofNat 4 (Desc.typ { d with hi := d.hi ||| 0x200#32 }) := by
    have hf : Desc.typ { d with hi := d.hi ||| 0x200#32 } = d.typ ||| 2 := by
      unfold Desc.typ
      rw [field_eq, field_eq, BitVec.extractLsb'_or, BitVec.toNat_or]
      rfl
    rw [hf]
    unfold Desc.isTss Desc.isSys at h
    unfold Desc.tss32
    simp only [Bool.or_eq_true, Bool.and_eq_true, beq_iff_eq] at h
    rcases h with ((⟨-, e⟩ | ⟨-, e⟩) | ⟨-, e⟩) | ⟨-, e⟩ <;> rw [e] <;> decide
  rw [ht]
  unfold Desc.toSegReg Desc.base Desc.limit Desc.attr Desc.s Desc.dpl Desc.p
  simp only [field_or_of_zero (show (0x200#32).extractLsb' 24 8 = 0#8 from rfl),
    field_or_of_zero (show (0x200#32).extractLsb' 0 8 = 0#8 from rfl),
    field_or_of_zero (show (0x200#32).extractLsb' 16 4 = 0#4 from rfl),
    field_or_of_zero (show (0x200#32).extractLsb' 13 2 = 0#2 from rfl),
    bit_or_of_zero (show (0x200#32).getLsbD 12 = false from rfl),
    bit_or_of_zero (show (0x200#32).getLsbD 15 = false from rfl),
    bit_or_of_zero (show (0x200#32).getLsbD 20 = false from rfl),
    bit_or_of_zero (show (0x200#32).getLsbD 22 = false from rfl),
    bit_or_of_zero (show (0x200#32).getLsbD 23 = false from rfl)]

/-! ## What stays -/

/-- Stores of bytes made the difference: memory, and a monitor that they disarm. -/
def OnlyStored (s u : State) : Prop := u = { s with mem := u.mem, act := u.act }

namespace OnlyStored

theorem refl (s : State) : OnlyStored s s := rfl
theorem storeAt (s : State) (pas : List Nat) (v : Nat) : OnlyStored s (s.storeAt pas v) := by
  unfold OnlyStored State.storeAt State.physWrite
  dsimp only
  split <;> rfl
theorem trans {s t u : State} (h1 : OnlyStored s t) (h2 : OnlyStored t u) : OnlyStored s u := by
  unfold OnlyStored at h1 h2 ⊢
  rw [h2, h1]
theorem ite {p : Prop} [Decidable p] {s t u : State} (h1 : OnlyStored s t) (h2 : OnlyStored s u) :
    OnlyStored s (if p then t else u) := by split <;> assumption
theorem plain {s u : State} (h : OnlyStored s u) {pas : List Nat} (hp : s.plain pas) : u.plain pas :=
  (plain_congr (by rw [h]) (by rw [h]) pas).mpr hp

end OnlyStored

theorem SysItem.walks {lin : Word} {n v : Nat} {s s1 : State} (h : SysItem s lin n v s1) : SameButWalk s s1 := by
  obtain ⟨pas, hl, -⟩ := h
  exact walks_of_linAddrs hl

/-- No register differs: memory, the TLB, the activity state and the use of free values may. -/
def SameRegs (s t : State) : Prop := t = { s with mem := t.mem, tlb := t.tlb, act := t.act, free := t.free }

namespace SameRegs

theorem trans {s t u : State} (h1 : SameRegs s t) (h2 : SameRegs t u) : SameRegs s u := by
  unfold SameRegs at h1 h2 ⊢
  rw [h2, h1]
theorem walk {s t : State} (h : SameButWalk s t) : SameRegs s t := by
  unfold SameRegs
  rw [h.fields]
theorem store {s t : State} (h : OnlyStored s t) : SameRegs s t := by
  unfold OnlyStored at h
  unfold SameRegs
  rw [h]
/-- Setting an accessed flag stores at most one byte (R144). -/
theorem accessed {sel : Half} {d d1 : Desc} {bytes : List Nat} {s t : State} (h : Accessed s sel d d1 bytes t) :
    SameRegs s t := by
  rcases h with ⟨-, -, -, rfl⟩ | ⟨-, -, lin, u, -, hl, -, rfl⟩
  · rfl
  · exact (walk (walks_of_linAddrs hl)).trans (store (.storeAt u bytes _))
theorem gpr {s t : State} (h : SameRegs s t) : t.gpr = s.gpr := by rw [h]
theorem segs {s t : State} (h : SameRegs s t) : t.segs = s.segs := by rw [h]
theorem sys {s t : State} (h : SameRegs s t) : t.sys = s.sys := by rw [h]
theorem eflags {s t : State} (h : SameRegs s t) : t.eflags = s.eflags := by rw [h]
theorem ctx {s t : State} (h : SameRegs s t) : t.ctx = s.ctx := by rw [h]
theorem cpl {s t : State} (h : SameRegs s t) : t.cpl = s.cpl := by
  unfold State.cpl State.pe
  rw [h.sys, h.eflags, h.segs]
theorem plain {s t : State} (h : SameRegs s t) (pas : List Nat) : t.plain pas ↔ s.plain pas :=
  plain_congr (by rw [h]) (by rw [h]) pas

theorem resumeNext {s t : State} (h : SameRegs s t) : t.resumeNext = s.resumeNext := by rw [h]; rfl

end SameRegs

/-! ## Fields of a task-state segment -/

theorem plain_sub {s : State} {pas : List Nat} (h : s.plain pas) (k n : Nat) : s.plain ((pas.drop k).take n) := by
  unfold State.plain at h ⊢
  rw [List.any_eq_false] at h ⊢
  exact fun a ha => h a (List.mem_of_mem_drop (List.mem_of_mem_take ha))

theorem tssField_ok {s : State} {pas : List Nat} (h : s.plain pas) (k n : Nat) :
    tssField pas k n s = .ok (s.valueAt ((pas.drop k).take n)) s := phRead_plain (plain_sub h k n)

/-- A TSS in plain memory is read as it stands (R322, R334). -/
theorem readTss_ok {s : State} {pas : List Nat} (h : s.plain pas) (is32 : Bool) :
    readTss is32 pas s = .ok (taskImage is32 s pas) s := by
  unfold readTss
  cases is32
  · simp only [Bool.false_eq_true, if_false, readTss16, run_bind, tssField_ok h, run_pure, run_get]
    rfl
  · simp only [if_true, readTss32, run_bind, tssField_ok h, run_pure]
    rfl

/-- Values of one width at successive offsets: offset, width, value. -/
def fieldsFrom (n stride : Nat) : Nat → List Nat → List (Nat × Nat × Nat)
  | _, [] => []
  | k, v :: vs => (k, n, v) :: fieldsFrom n stride (k + stride) vs

theorem storeFields_append (pas : List Nat) (first : Nat) (l m : List (Nat × Nat × Nat)) (s : State) :
    s.storeFields pas first (l ++ m) = (s.storeFields pas first l).storeFields pas first m := by
  induction l generalizing s with
  | nil => rfl
  | cons x l ih => exact ih _

/-- Stores to a TSS leave every field but memory and the monitor. -/
theorem storeFields_same (pas : List Nat) (first : Nat) (l : List (Nat × Nat × Nat)) (s : State) :
    s.storeFields pas first l =
      { s with mem := (s.storeFields pas first l).mem, act := (s.storeFields pas first l).act } := by
  induction l generalizing s with
  | nil => rfl
  | cons x l ih =>
    obtain ⟨k, n, v⟩ := x
    have e : s.storeFields pas first ((k, n, v) :: l) =
        (s.storeAt ((pas.drop (k - first)).take n) v).storeFields pas first l := rfl
    rw [e, ih]
    simp

theorem plain_storeAt {s : State} {ps : List Nat} (h : s.plain ps) (pas : List Nat) (v : Nat) :
    (s.storeAt pas v).plain ps := (plain_congr (by simp) (by simp) ps).mpr h

theorem writeFields_ok {pas : List Nat} (first n stride : Nat) (vs : List Nat) :
    ∀ (k : Nat) (s : State), s.plain pas →
      writeFields pas n stride k vs s = .ok () (s.storeFields pas first (fieldsFrom n stride (first + k) vs)) := by
  induction vs with
  | nil => exact fun _ _ _ => rfl
  | cons v vs ih =>
    intro k s h
    unfold writeFields
    refine (run_bind_ok (phWrite_plain v (plain_sub h k n))).trans ?_
    rw [ih _ _ (plain_storeAt h _ v), fieldsFrom, State.storeFields, Nat.add_sub_cancel_left, Nat.add_assoc]

/-- The old task's fields are saved (R326 step 8). -/
theorem saveTask_ok {s : State} {pas : List Nat} (h : s.plain pas) (is32 : Bool) (r : Resume) (f : Eflags) :
    saveTask is32 pas r f s =
      .ok () (s.storeFields pas (if is32 then 32 else 14) (savedFields is32 s r f.toWord)) := by
  unfold saveTask
  rw [run_get_bind]
  cases is32
  · simp only [Bool.false_eq_true, if_false]
    rw [writeFields_ok 14 _ _ _ _ _ h]
    rfl
  · simp only [if_true]
    rw [run_bind_ok (writeFields_ok 32 _ _ _ _ _ h)]
    have hp : (s.storeFields pas 32 (fieldsFrom 4 4 (32 + 0) ([r.eip.toNat, f.toWord.toNat] ++ s.gpr.list))).plain pas := by
      rw [storeFields_same]
      exact (plain_congr rfl rfl pas).mpr h
    rw [writeFields_ok 32 _ _ _ _ _ hp, ← storeFields_append]
    rfl

/-! ## Loading the new task -/

theorem unqualified_ok (sel : Half) (s : State) : unqualified sel s = .ok (anySeg sel s.free) (s.used 3) := by
  have h : SegAttr.ofBits (Config.freeWord (s.free + 2)) = (anySeg sel s.free).attr := by
    unfold SegAttr.ofBits anySeg
    have e1 : ∀ w : Word, w.setWidth 4 = w.extractLsb' 0 4 := fun w => by
      rw [BitVec.setWidth_eq_extractLsb' (by decide)]
    have e2 : ∀ w : Word, BitVec.ofNat 2 (field w 5 2) = w.extractLsb' 5 2 := fun w => by
      rw [field_eq, BitVec.ofNat_toNat, BitVec.setWidth_eq]
    simp only [e1, e2]
  show EStateM.Result.ok (⟨sel, _, _, SegAttr.ofBits (Config.freeWord (s.free + 2))⟩ : SegReg) _ = _
  rw [h]
  rfl

/-- The page tables of another CR3 (R182). -/
theorem withTables_eq (s : State) (cr3 : Word) (pd : Option (List Quad)) :
    s.withTables cr3 pd = { s with
      tlb := if s.pg = true ∧ s.sys.cr3 ≠ cr3 then s.tlb.filter fun e => e.global && bit s.sys.cr4 7 else s.tlb
      sys := { (match pd with
        | some es => s.sys.setPdptes es
        | none => s.sys) with cr3 := if s.pg then cr3 else s.sys.cr3 } } := by
  unfold State.withTables
  by_cases h : s.pg = true ∧ s.sys.cr3 ≠ cr3
  · have hc : (s.pg && s.sys.cr3 != cr3) = true := by simpa using h
    cases pd <;> simp only [hc, if_pos h, if_true, State.flushLocal]
  · have hc : (s.pg && s.sys.cr3 != cr3) = false := by
      rw [← Bool.not_eq_true]
      simpa using h
    cases pd <;> simp only [hc, if_neg h, Bool.false_eq_true, if_false]

theorem used_used (s : State) (a b : Nat) : (s.used a).used b = s.used (a + b) := by
  unfold State.used
  rw [Nat.add_assoc]

/-- The new task's state is loaded, its descriptors not yet (R326 step 12). -/
theorem loadTask_ok (kind : SwitchKind) (t : TssImage) (pd : Option (List Quad)) (s : State) :
    loadTask kind t pd s = .ok () (s.taskLoaded (decide (kind = .call ∨ kind = .int)) t pd) := by
  unfold loadTask
  iterate 7 rw [run_bind_ok (unqualified_ok _ _)]
  rw [run_get_bind, run_set]
  have hk : kind.nests = decide (kind = .call ∨ kind = .int) := by cases kind <;> rfl
  have hb (w : Word) : setBit w 3 true = w ||| 8#32 := rfl
  simp only [used_used, Nat.reduceAdd, used_free]
  rw [hk, withTables_eq, hb]
  cases pd <;> cases kind <;> rfl

/-! ## Qualifying the new task's descriptors -/

/-- What the last rows of Table 6-1 ask of a data segment's descriptor (R327, R143). -/
def TaskSeg.fits (cpl : Nat) (x : TaskSeg) : Bool := x.desc.isReadable && x.desc.p && x.privileged cpl

theorem isReadable_s {d : Desc} (h : d.isReadable = true) : d.s = true := by
  unfold Desc.isReadable Desc.isData Desc.isCode at h
  cases hs : d.s
  · rw [hs] at h
    simp at h
  · rfl

theorem dataDescs_ok {cpl : Nat} {l : List (Seg × Half)} {s t : State} {ds : List TaskSeg} (ext : Bool)
    (h : DataDescs cpl l s ds t) : dataDescs ext l s = .ok ds t ∧ ∀ x ∈ ds, x.fits cpl = true := by
  induction h with
  | nil s => exact ⟨rfl, nofun⟩
  | null x sel xs ds s t hn _ ih =>
    refine ⟨?_, ih.2⟩
    unfold dataDescs
    rw [if_pos hn]
    exact ih.1
  | desc x sel d xs ds s s1 t hn hd hr hp hv _ ih =>
    refine ⟨?_, ?_⟩
    · unfold dataDescs
      rw [if_neg (by rw [hn]; decide), run_bind_ok (readDesc_ok hd _), isReadable_s hr, run_require_true_bind,
        run_bind_ok ih.1]
      rfl
    · intro y hy
      rcases List.mem_cons.mp hy with rfl | hy
      · simpa [TaskSeg.fits, TaskSeg.privileged, hr, hp] using hv
      · exact ih.2 y hy

/-- A row that every data segment passes. -/
theorem rowOver_ok {ok : TaskSeg → Bool} {e : TaskSeg → Exc} {l : List TaskSeg} (h : ∀ x ∈ l, ok x = true) (s : State) :
    rowOver ok e l s = .ok () s := by
  induction l with
  | nil => rfl
  | cons x l ih =>
    unfold rowOver
    rw [h x List.mem_cons_self, run_require_true_bind]
    exact ih fun y hy => h y (List.mem_cons_of_mem _ hy)

theorem loadDataSegs_ok {ds : List TaskSeg} {s t : State} {bytes : List Nat} (h : DataLoads ds s bytes t) :
    loadDataSegs ds s = .ok () t := by
  induction h with
  | nil s => rfl
  | more x sel d d1 xs b bs s s1 t ha _ ih =>
    unfold loadDataSegs
    rw [run_bind_ok (setAccessed_ok ha), run_modify_bind]
    exact ih

/-- An offset as the instruction pointer of a 16-bit segment. -/
theorem trunc_w (v : Word) : Sz.w.trunc v = v &&& 0xFFFF#32 := by
  apply BitVec.eq_of_toNat_eq
  have h : v.toNat &&& 65535 = v.toNat % 2 ^ 16 := Nat.and_two_pow_sub_one_eq_mod v.toNat 16
  rw [Sz.trunc, BitVec.toNat_ofNat, BitVec.toNat_and]
  refine Eq.trans (Nat.mod_eq_of_lt ?_) h.symm
  exact Nat.lt_of_lt_of_le (Nat.mod_lt _ (by decide)) (by decide)

/-- The instruction pointer in a code segment (R23). -/
theorem attr_ip (d : Desc) (v : Word) : d.attr.ip v = d.entry v := by
  unfold SegAttr.ip Desc.entry
  rw [trunc_w]
  rfl

/-- Setting the accessed flag leaves the D flag. -/
theorem Accessed.entry {s s1 : State} {sel : Half} {d d1 : Desc} {bytes : List Nat} (h : Accessed s sel d d1 bytes s1)
    (v : Word) : d1.entry v = d.entry v := by
  rcases h with ⟨-, rfl, -, -⟩ | ⟨-, rfl, -⟩
  · rfl
  · unfold Desc.entry
    rw [bit_or_of_zero (show (0x100#32).getLsbD 22 = false from rfl)]

/-- The last rows of Table 6-1 pass and the data segments are loaded (R327). -/
theorem qualifyData_ok {im : TssImage} {ds : List TaskSeg} {bytes : List Nat} {s s1 t : State}
    (hd : DataDescs (rpl im.cs) [(.ds, im.ds), (.es, im.es), (.fs, im.fs), (.gs, im.gs)] s ds s1)
    (hl : DataLoads ds s1 bytes t) (ext : Bool) : qualifyData im ext s = .ok () t := by
  obtain ⟨hdd, hf⟩ := dataDescs_ok ext hd
  unfold TaskSeg.fits at hf
  simp only [Bool.and_eq_true] at hf
  unfold qualifyData
  rw [run_bind_ok hdd, run_bind_ok (rowOver_ok (fun x hx => (hf x hx).1.1) s1),
    run_bind_ok (rowOver_ok (fun x hx => (hf x hx).1.2) s1), run_bind_ok (rowOver_ok (fun x hx => (hf x hx).2) s1)]
  exact loadDataSegs_ok hl

/-- The descriptors of the new task are loaded (R326 step 13, R327). -/
theorem qualify_ok {im : TssImage} {s t : State} {bytes : List Nat} (h : Qualifies im s bytes t) (ext : Bool) :
    qualify im ext s = .ok () t := by
  obtain ⟨cd, cd1, sd, sd1, ds, b1, b2, b3, s1, s2, s3, s4, s5, s6, t, hl, hcn, hcd, hcc, hcv, hcp, hsn, hsd, hsw, hsp,
    hsv, hsr, ha, hb, hd, hm⟩ := h
  have hldt : qualifyLdt im.ldt (.ts (selCode im.ldt ext)) s = .ok true s1 := by
    unfold qualifyLdt
    rcases hl with ⟨hn, rfl⟩ | ⟨hn, hg, d, u, hd, ht, hp, rfl⟩
    · rw [if_pos hn]
      rfl
    · rw [if_neg (by rw [hn]; decide), hg, Bool.not_false, run_require_true_bind, run_bind_ok (readDesc_ok hd _), ht,
        run_require_true_bind, run_modify_bind, hp]
      rfl
  have hcl : (some cd).all (fun d => d.dpl == rpl im.cs) = true := by rw [Option.all_some, hcv, beq_self_eq_true]
  have hsl : (sd.dpl == rpl im.cs) = true := by rw [hsv, beq_self_eq_true]
  have hsr : (sd.dpl == rpl im.ss) = true := by rw [← hsr, beq_self_eq_true]
  unfold qualify
  dsimp only
  rw [run_bind_ok hldt, run_bind_ok (visible_ok hcn hcd), hcl, run_require_true_bind, hsn, Bool.not_false,
    run_require_true_bind, run_bind_ok (readDesc_ok hsd _), hsw, run_require_true_bind, hsp, run_require_true_bind, hsl,
    run_require_true_bind, run_require_true_bind]
  dsimp only
  rw [hcc, run_require_true_bind, hcp, run_require_true_bind, hsr, run_require_true_bind,
    run_bind_ok (setAccessed_ok ha), run_modify_bind, attr_ip, ha.entry, run_bind_ok (setAccessed_ok hb),
    run_modify_bind]
  exact qualifyData_ok hd hm ext

/-! ## The switch -/

/-- The address of one byte. -/
theorem linAddrs_one {lin : Word} {k : Access} {u : Bool} {s t : State} {pas : List Nat}
    (h : linAddrs lin 1 k u s = .ok pas t) : pas.length = 1 := by
  unfold linAddrs at h
  rw [run_bind] at h
  cases hx : translate lin k u s with
  | ok p v =>
    rw [hx] at h
    dsimp only at h
    rw [if_pos (by omega)] at h
    rw [← (EStateM.Result.ok.inj h).1, addrsFrom_length]
  | error e v =>
    rw [hx] at h
    cases h

theorem valueAt_lt {s : State} {pas : List Nat} (h : pas.length = 1) : s.valueAt pas < 256 := by
  have := leNat_lt (pas.map s.physByte)
  rwa [List.length_map, h] at this

/-- Clearing the busy flag of a TSS descriptor in plain memory (R326 step 6). -/
theorem clearBusy_ok {s : State} {pas : List Nat} (h : s.plain pas) (hl : pas.length = 1) :
    clearBusy pas s = .ok () (s.storeAt pas (s.valueAt pas &&& 0xFD)) := by
  unfold clearBusy
  rw [run_bind_ok (phRead_plain h), busy_clear _ (valueAt_lt hl), phWrite_plain _ h]

/-- The byte of the GDT that holds the busy flag of a selector's TSS descriptor (R325). -/
theorem busyAddr_ok {sel : Half} {g : TableReg} {s t : State} {pas : List Nat} (hg : s.sys.gdtr = g)
    (h : linAddrs (g.base + BitVec.ofNat 32 (sel.toNat / 8 * 8 + 5)) 1 .write false s = .ok pas t) :
    busyAddr sel s = .ok pas t := by
  unfold busyAddr
  rw [run_get_bind, hg, Nat.mul_comm, h]

/-- The byte of the old task's busy flag is found where TR's selector names a descriptor of the GDT (R131, R326). -/
theorem oldBusyAddr_ok {s t u : State} {pas : List Nat} (hs : t.sys = s.sys) (hn : s.namesGdt s.sys.tr.sel = true)
    (h : linAddrs (s.sys.gdtr.base + BitVec.ofNat 32 (s.sys.tr.sel.toNat / 8 * 8 + 5)) 1 .write false t = .ok pas u)
    (ext : Bool) : oldBusyAddr ext t = .ok pas u := by
  unfold oldBusyAddr
  have hn' : t.namesGdt t.sys.tr.sel = true := by rw [State.namesGdt, hs]; exact hn
  rw [run_get_bind, hn', run_require_true_bind, hs, busyAddr_ok (congrArg (·.gdtr) hs) h]

/-- An access that a switch makes in some cases only. -/
theorem addrsIf_ok {c : Bool} {p : Prop} {x : M (List Nat)} {s t : State} {pas : List Nat} (hc : c = true ↔ p)
    (h : p ∧ x s = .ok pas t ∨ ¬ p ∧ pas = [] ∧ t = s) : addrsIf c x s = .ok pas t := by
  unfold addrsIf
  rcases h with ⟨hp, hx⟩ | ⟨hp, rfl, rfl⟩
  · rw [if_pos (hc.mpr hp), hx]
  · rw [if_neg fun h => hp (hc.mp h)]
    rfl

/-- An action that a switch takes in some cases only. -/
theorem actIf_ok {c : Bool} {p : Prop} [Decidable p] {x : M Unit} {s t : State} (hc : c = true ↔ p)
    (h : p → x s = .ok () t) : actIf c x s = .ok () (if p then t else s) := by
  unfold actIf
  by_cases hp : p
  · rw [if_pos (hc.mpr hp), if_pos hp, h hp]
  · rw [if_neg fun h => hp (hc.mp h), if_neg hp]
    rfl

theorem nests_iff (k : SwitchKind) : k.nests = true ↔ k = .call ∨ k = .int := by cases k <;> decide
theorem leaves_iff (k : SwitchKind) : k.leaves = true ↔ k = .jmp ∨ k = .iret := by cases k <;> decide
theorem notIret_iff (k : SwitchKind) : (k != .iret) = true ↔ k ≠ .iret := by cases k <;> decide

/-- What a check under other page tables leaves of the state. -/
theorem underCr3_same {cr3 : Word} {pd : Option (List Quad)} {x : M Unit} {s t : State}
    (h : underCr3 cr3 pd x s = .ok () t) :
    t = { s with mem := t.mem, act := t.act, sys := { s.sys with cr2 := t.sys.cr2 }, free := t.free } := by
  unfold underCr3 at h
  cases hx : x (s.withTables cr3 pd) with
  | ok a u =>
    rw [hx] at h
    rw [← (EStateM.Result.ok.inj h).2]
  | error e u =>
    rw [hx] at h
    cases h

theorem OnlyStored.storeFields (s : State) (pas : List Nat) (first : Nat) (l : List (Nat × Nat × Nat)) :
    OnlyStored s (s.storeFields pas first l) := storeFields_same pas first l s

/-- Leaving the old task changes no register that says where the local APIC's page is. -/
theorem taskLeft_plain {s : State} {kind : SwitchKind} {sel : Half} {d : Desc} {r : Resume}
    {old link busy0 busy1 pas : List Nat} (h : s.plain pas) :
    (s.taskLeft kind sel d r old link busy0 busy1).plain pas := by
  unfold State.taskLeft
  dsimp only
  refine (plain_congr rfl rfl pas).mpr (OnlyStored.plain (.ite (.trans (.ite (.trans (.trans (.ite (.storeAt s busy0 _)
    (.refl s)) (.storeFields _ old _ _)) (.storeAt _ link _)) (.trans (.ite (.storeAt s busy0 _) (.refl s))
    (.storeFields _ old _ _))) (.storeAt _ busy1 _)) (.ite (.trans (.trans (.ite (.storeAt s busy0 _) (.refl s))
    (.storeFields _ old _ _)) (.storeAt _ link _)) (.trans (.ite (.storeAt s busy0 _) (.refl s))
    (.storeFields _ old _ _)))) h)

theorem savedFields_congr {s t : State} (hg : t.gpr = s.gpr) (hs : t.segs = s.segs) {b : Bool} {r : Resume} {f : Word} :
    savedFields b t r f = savedFields b s r f := by
  unfold savedFields
  rw [hg, hs]

/-- Loading the new task's descriptors leaves TR. -/
theorem Qualifies.tr {im : TssImage} {s t : State} {bytes : List Nat} (h : Qualifies im s bytes t) : t.sys.tr = s.sys.tr := by
  have data {cpl : Nat} {l : List (Seg × Half)} {u v : State} {ds : List TaskSeg} (h : DataDescs cpl l u ds v) :
      v.sys.tr = u.sys.tr := by
    induction h with
    | nil => rfl
    | null _ _ _ _ _ _ _ _ ih => exact ih
    | desc _ _ _ _ _ _ _ _ _ hd _ _ _ _ ih => rw [ih, hd.walks.sys]
  have loads {ds : List TaskSeg} {u v : State} {bs : List Nat} (h : DataLoads ds u bs v) : v.sys.tr = u.sys.tr := by
    induction h with
    | nil => rfl
    | more _ _ _ _ _ _ _ _ _ _ ha _ ih => rw [ih, State.setSeg, (SameRegs.accessed ha).sys]
  cases h with
  | mk cd cd1 sd sd1 ds b1 b2 b3 s1 s2 s3 s4 s5 s6 t hl _ hc _ _ _ _ hs _ _ _ _ ha hb hd hx =>
    have h1 : s1.sys.tr = s.sys.tr := by
      rcases hl with ⟨-, rfl⟩ | ⟨-, -, d, u, hd, -, -, rfl⟩
      · rfl
      · rw [hd.walks.sys]
    rw [loads hx, data hd, State.setSeg, (SameRegs.accessed hb).sys]
    dsimp only [State.setSeg]
    rw [(SameRegs.accessed ha).sys, hs.walks.sys, hc.walks.sys, h1]

/-- Two alternatives of a walk that may be left out. -/
theorem walks_or {p : Prop} {x : EStateM.Result Stop State (List Nat)} {s u t : State} {pas : List Nat}
    (h : SameButWalk s u) (hw : x = .ok pas t → SameButWalk u t) (ho : p ∧ x = .ok pas t ∨ ¬ p ∧ pas = [] ∧ t = u) :
    SameButWalk s t := by
  rcases ho with ⟨-, hx⟩ | ⟨-, -, rfl⟩
  exacts [h.trans (hw hx), h]

/-- A task switch whose conditions hold completes (R326). -/
theorem taskSwitch_ok {kind : SwitchKind} {sel : Half} {r : Resume} {ext : Bool} {s t : State} {written : List Nat}
    (h : Switches kind sel r ext s t written) :
    taskSwitch kind sel r ext s = .ok (if t.sys.tr.attr.typ.getLsbD 3 then .d else .w) t := by
  obtain ⟨d, oldAll, old, new, link, busy0, busy1, bytes, pd, im0, im, s1, s2, s3, s4, s5, s6, s7, s8, u, w, hg, hn, hd,
    ht, hp, hav, hmin, hold, h2, h3, h4, h5, h6, h7, hpl, him0, hvm, hpd, hu, hleft, him, hq, rfl, -⟩ := h
  have w1 := hd.walks
  have w4 := ((w1.trans (walks_of_linAddrs h2)).trans (walks_of_linAddrs h3)).trans (walks_of_linAddrs h4)
  have w5 : SameButWalk s s5 := walks_or w4 walks_of_linAddrs h5
  have h6w := h6.imp_left fun h => And.intro h.1 h.2.2
  have w6 : SameButWalk s s6 := walks_or w5 walks_of_linAddrs h6w
  have w7 : SameButWalk s s7 := by
    rcases h7 with ⟨-, h7⟩ | ⟨-, -, rfl⟩
    exacts [w6.trans (walks_of_linAddrs h7), w6]
  -- steps 1 to 4
  have hk : (if kind == .iret then !d.tssAvail else d.tssAvail) = true := by
    cases kind <;> simpa using hav
  have desc : taskDesc kind sel ext s = .ok d s1 := by
    unfold taskDesc
    rw [hg, hn, Bool.not_false, Bool.and_self, run_require_true_bind, run_bind_ok (readDesc_ok hd _), ht,
      run_require_true_bind, hp, run_require_true_bind, hk, run_require_true_bind,
      show decide (d.tssMin ≤ d.limit) = true from decide_eq_true hmin, run_require_true_bind]
    rfl
  -- step 5
  have h7' : kind ≠ .iret ∧ busyAddr sel s6 = .ok busy1 s7 ∨ ¬ kind ≠ .iret ∧ busy1 = [] ∧ s7 = s6 :=
    h7.imp (fun h => ⟨h.1, busyAddr_ok (congrArg (·.gdtr) w6.sys) h.2⟩) fun h => ⟨not_not_intro h.1, h.2⟩
  have h6' : (kind = .jmp ∨ kind = .iret) ∧ oldBusyAddr ext s5 = .ok busy0 s6 ∨
      ¬ (kind = .jmp ∨ kind = .iret) ∧ busy0 = [] ∧ s6 = s5 :=
    h6.imp_left fun h => ⟨h.1, oldBusyAddr_ok w5.sys h.2.1 h.2.2 ext⟩
  have places : taskPlaces kind sel d ext s1 = .ok ⟨old, new, link, busy0, busy1⟩ s7 := by
    have e1 : (if s.sys.tr.attr.typ.getLsbD 3 = true then 103 else 43) + 1 =
        if s.sys.tr.attr.typ.getLsbD 3 = true then 104 else 44 := by split <;> rfl
    have e2 : (if s.sys.tr.attr.typ.getLsbD 3 = true then 32#32 else 14#32) =
        BitVec.ofNat 32 (if s.sys.tr.attr.typ.getLsbD 3 = true then 32 else 14) := by split <;> rfl
    have e3 : d.tssMin + 1 = if d.tss32 = true then 104 else 44 := by unfold Desc.tssMin; split <;> rfl
    unfold taskPlaces
    rw [run_get_bind, State.old32, w1.sys, decide_eq_true hold, run_require_true_bind, e1, run_bind_ok h2, e2, run_bind_ok h3, e3,
      run_bind_ok h4, run_bind_ok (addrsIf_ok (nests_iff kind) h5), run_bind_ok (addrsIf_ok (leaves_iff kind) h6'),
      run_bind_ok (addrsIf_ok (notIret_iff kind) h7')]
    rfl
  have tables : taskTables d im0 ext s7 = .ok pd s8 := by
    have hpd' : (if (s7.pg && bit s7.sys.cr4 5 && d.tss32) = true then
        some <$> readPdptes im0.cr3 (.gp (zeroCode ext)) else pure none : M (Option (List Quad))) s7 = .ok pd s7 := by
      rw [w7.pg, w7.sys, run_ite]
      split at hpd
      · obtain ⟨es, he, rfl⟩ := hpd
        rw [if_pos (by simp [*]), ← bind_pure_comp, run_bind_ok he]
        rfl
      · rename_i hc
        rw [if_neg (by simpa [and_assoc] using hc), hpd]
        rfl
    unfold taskTables
    rw [run_get_bind, if_neg (by simp [hvm])]
    rw [run_ite] at hpd'
    dsimp only
    split at hpd'
    · rw [if_pos ‹_›, run_bind_ok hpd', run_bind_ok hu]
      rfl
    · rw [if_neg ‹_›, run_bind_ok hpd', run_bind_ok hu]
      rfl
  -- steps 6 to 11
  have h8 := underCr3_same hu
  have plain8 (ps : List Nat) (hm : ps ∈ [old, new, link, busy0, busy1]) : s8.plain ps :=
    (plain_congr (by rw [h8]) (by rw [h8]) ps).mpr (hpl ps hm)
  have one (x : Half) (v t : State) (pas : List Nat) (p q : Prop)
      (h : p ∧ linAddrs (s.sys.gdtr.base + BitVec.ofNat 32 (x.toNat / 8 * 8 + 5)) 1 .write false v = .ok pas t ∨ q)
      (hq : ¬ q) : pas.length = 1 := by
    rcases h with ⟨-, h⟩ | h
    exacts [linAddrs_one h, absurd h hq]
  have leave : leaveTask kind sel d ⟨old, new, link, busy0, busy1⟩ r s8 = .ok () u := by
    rw [hleft]
    have hk : (kind != .iret) = decide (kind ≠ .iret) := by cases kind <;> rfl
    unfold State.taskLeft leaveTask
    rw [run_get_bind, State.old32, hk]
    dsimp only
    have r0 := actIf_ok (leaves_iff kind) fun hp => clearBusy_ok (plain8 busy0 (by simp)) (one _ _ _ _ _ _ h6w fun c => c.1 hp)
    rw [run_bind_ok r0]
    generalize hu0 : (if kind = .jmp ∨ kind = .iret then s8.storeAt busy0 (s8.valueAt busy0 &&& 0xFD) else s8) = u0
    have o0 : OnlyStored s8 u0 := hu0 ▸ (.ite (.storeAt s8 busy0 _) (.refl s8))
    rw [run_bind_ok (saveTask_ok (o0.plain (plain8 old (by simp))) _ _ _), savedFields_congr (congrArg State.gpr o0)
      (congrArg State.segs o0)]
    generalize hu1 : u0.storeFields _ _ _ = u1
    have o1 : OnlyStored s8 u1 := hu1 ▸ o0.trans (.storeFields u0 old _ _)
    rw [run_bind_ok (actIf_ok (nests_iff kind) fun _ => phWrite_plain _ (o1.plain (plain8 link (by simp))))]
    generalize hu2 : (if kind = .call ∨ kind = .int then u1.storeAt link _ else u1) = u2
    have o2 : OnlyStored s8 u2 := hu2 ▸ o1.trans (.ite (.storeAt u1 link _) (.refl u1))
    rw [run_bind_ok (actIf_ok decide_eq_true_iff fun _ => phWrite_plain _ (o2.plain (plain8 busy1 (by simp)))), busy_byte,
      run_modify, toSegReg_busy ht]
    subst hu2 hu1 hu0
    rfl
  -- steps 12 and 13
  have enter : enterTask kind d ⟨old, new, link, busy0, busy1⟩ pd ext u = .ok () { w with
      pend := { w.pend with taskTrap := w.pend.taskTrap || (im.trap && w.cfg.modelTf) } } := by
    have hc : u.plain new := hleft ▸ taskLeft_plain (plain8 new (by simp))
    unfold enterTask
    rw [run_bind_ok (readTss_ok hc _), ← him, run_bind_ok (loadTask_ok kind im pd u)]
    refine run_bind_ok (a := ()) ?_
    unfold asTrap
    rw [qualify_ok hq ext]
  have width : w.sys.tr.attr.typ.getLsbD 3 = d.tss32 := by
    have tr (v : State) (nest : Bool) : (v.taskLoaded nest im pd).sys.tr = v.sys.tr := by cases pd <;> rfl
    rw [hq.tr, tr, hleft]
    show (Desc.toSegReg { d with hi := d.hi ||| 0x200#32 } sel).attr.typ.getLsbD 3 = d.tss32
    rw [← toSegReg_busy ht]
    dsimp only
    split <;> simp [*]
  unfold taskSwitch
  rw [run_bind_ok desc, run_bind_ok places, run_bind_ok (readTss_ok (hpl new (by simp)) _), ← him0, run_bind_ok tables,
    run_bind_ok leave, run_bind_ok enter, ← width]
  rfl

end Sys2Proof.Machine
end

