-- ==== Sys2Proof/Laws/Transfer.lean ====
section
/-! SUPPORT. Pushes, inner stacks, far transfers and the delivery of events: what the shared operations do when the
conditions that `FarCalls`, `FarReturns` and `Delivers` name hold. -/
namespace Sys2Proof.Machine

theorem Accessed.dpl {s s1 : State} {sel : Half} {d d1 : Desc} {bytes : List Nat} (h : Accessed s sel d d1 bytes s1) :
    d1.dpl = d.dpl := by
  rcases h with ⟨-, rfl, -, -⟩ | ⟨-, rfl, -⟩
  · rfl
  · exact field_or_of_zero (show (0x100#32).extractLsb' 13 2 = 0#2 from rfl)

/-! ## Stacks -/

theorem OnlyStored.storeAll (s : State) (ps : List (List Nat)) (vs : List Word) : OnlyStored s (s.storeAll ps vs) := by
  induction ps generalizing s vs with
  | nil => cases vs <;> exact .refl s
  | cons p ps ih =>
    cases vs with
    | nil => exact .refl s
    | cons v vs => exact (OnlyStored.storeAt s p _).trans (ih _ vs)

/-- Pushed values are stored in turn (R422). -/
theorem pushValues_ok {ps : List (List Nat)} {vs : List Word} {s : State} (h : s.plains ps) :
    pushValues ps vs s = .ok () (s.storeAll ps vs) := by
  induction ps generalizing s vs with
  | nil => cases vs <;> rfl
  | cons p ps ih =>
    cases vs with
    | nil => rfl
    | cons v vs =>
      have o := OnlyStored.storeAt s p v.toNat
      rw [pushValues, run_bind_ok (phWrite_plain _ (h p (by simp)))]
      exact ih fun q hq => o.plain (h q (by simp [hq]))

/-- The walks of pushes (R422). -/
theorem walks_of_pushPas {user : Bool} {z : Sz} {lins : List Word} {s t : State} {ps : List (List Nat)}
    (h : pushPas user z lins s = .ok ps t) : SameButWalk s t := (walks_pushPas s ..).of_ok h

theorem Copies.walks {z : Sz} {lins : List Word} {s t : State} {ps qs : List (List Nat)} (h : Copies z lins s ps qs t) :
    SameButWalk s t := by
  induction h with
  | none s => exact .refl s
  | more lin lins p q ps qs s s1 s2 s3 h1 h2 _ ih => exact ((walks_of_dataAddrs h1).trans (walks_of_linAddrs h2)).trans ih

theorem peekPlace_ok {z : Sz} {k : Nat} {pas : List Nat} {s s1 : State} (h : StackPlace s z k pas s1) :
    peekPlace z k s = .ok pas s1 := by
  unfold peekPlace
  rw [run_get_bind]
  exact h

theorem peek_ok {z : Sz} {k : Nat} {v : Word} {s s1 : State} (h : StackItem s z k v s1) : peek z k s = .ok v s1 := by
  obtain ⟨pas, hl, hp, rfl⟩ := h
  unfold peek
  rw [run_bind_ok (peekPlace_ok hl), run_bind_ok (phRead_plain hp)]
  rfl

theorem StackItem.walks {z : Sz} {k : Nat} {v : Word} {s s1 : State} (h : StackItem s z k v s1) : SameButWalk s s1 := by
  obtain ⟨pas, hl, -⟩ := h
  exact walks_of_dataAddrs hl

/-- The pointer to an inner stack in the TSS (R286 step 2). -/
theorem tssStack_ok {cpl : Nat} {sel : Half} {esp : Word} {s s2 : State} (h : TssPointer s cpl sel esp s2) (ext : Bool) :
    tssStack cpl ext s = .ok (sel, esp) s2 := by
  obtain ⟨e, ss, s1, rfl, rfl, h⟩ := h
  unfold tssStack
  rw [run_get_bind]
  split at h
  all_goals
    obtain ⟨hl, h1, h2⟩ := h
    first | rw [if_pos ‹_›] | rw [if_neg ‹_›]
    rw [decide_eq_true hl, run_require_true_bind, run_bind_ok (sysRead_ok h1), run_bind_ok (sysRead_ok h2)]
    rfl

/-- The inner stack segment (R286 steps 2 and 3, R423). -/
theorem innerSs_ok {sel : Half} {cpl : Nat} {r : SegReg} {bytes : List Nat} {s s2 : State}
    (h : StackSegment s sel cpl r bytes s2) (ext : Bool) : innerSs sel cpl ext s = .ok r s2 := by
  obtain ⟨d, d1, s1, hn, hd, hr, hl, hw, hp, ha, rfl⟩ := h
  unfold innerSs
  rw [hn, Bool.not_false, run_require_true_bind]
  rw [run_bind_ok (readDesc_ok hd _), hr, hl, hw, hp, beq_self_eq_true, Bool.and_self, Bool.and_self, run_require_true_bind,
    run_require_true_bind, run_bind_ok (setAccessed_ok ha)]
  rfl

/-- The stack segment of a return to an outer level (R290 step 4). -/
theorem checkReturnSs_ok {sel : Half} {cpl : Nat} {r : SegReg} {bytes : List Nat} {s s2 : State}
    (h : StackSegment s sel cpl r bytes s2) : checkReturnSs sel cpl s = .ok r s2 := by
  obtain ⟨d, d1, s1, hn, hd, hr, hl, hw, hp, ha, rfl⟩ := h
  unfold checkReturnSs
  rw [hn, Bool.not_false, run_require_true_bind, run_bind_ok (readDesc_ok hd _), hr, hl, hw, hp, beq_self_eq_true,
    Bool.and_self, Bool.and_self, run_require_true_bind, run_require_true_bind, run_bind_ok (setAccessed_ok ha)]
  rfl

theorem SameRegs.tssPointer {cpl : Nat} {sel : Half} {esp : Word} {s t : State} (h : TssPointer s cpl sel esp t) :
    SameRegs s t := by
  obtain ⟨e, ss, s1, -, -, h⟩ := h
  split at h <;> exact .walk (h.2.1.walks.trans h.2.2.walks)

theorem SameRegs.stackSegment {sel : Half} {cpl : Nat} {r : SegReg} {bytes : List Nat} {s t : State}
    (h : StackSegment s sel cpl r bytes t) : SameRegs s t := by
  obtain ⟨d, d1, s1, -, hd, -, -, -, -, ha, -⟩ := h
  exact (walk hd.walks).trans (accessed ha)

/-- The places of a call gate's parameters and of their copies are found (R286 step 7). -/
theorem copyPlaces_ok {z : Sz} {lins : List Word} {s t : State} {ps qs : List (List Nat)}
    (h : Copies z lins s ps qs t) : copyPlaces z lins s = .ok (ps, qs) t := by
  induction h with
  | none s => rfl
  | more lin lins p q ps qs s s1 s2 s3 h1 h2 _ ih =>
    rw [copyPlaces, run_bind_ok (peekPlace_ok h1), run_bind_ok h2, run_bind_ok ih]
    rfl

theorem OnlyStored.copyAll (s : State) (ps qs : List (List Nat)) : OnlyStored s (s.copyAll ps qs) := by
  induction ps generalizing s qs with
  | nil => cases qs <;> exact .refl s
  | cons p ps ih =>
    cases qs with
    | nil => exact .refl s
    | cons q qs => exact (OnlyStored.storeAt s q _).trans (ih _ qs)

/-- Items in plain memory are copied in turn (R286 step 7). -/
theorem copyItems_ok {ps qs : List (List Nat)} {s : State} (hp : s.plains ps) (hq : s.plains qs) :
    copyItems ps qs s = .ok () (s.copyAll ps qs) := by
  induction ps generalizing s qs with
  | nil => cases qs <;> rfl
  | cons p ps ih =>
    cases qs with
    | nil => rfl
    | cons q qs =>
      have o := OnlyStored.storeAt s q (s.valueAt p)
      rw [copyItems, run_bind_ok (phRead_plain (hp p (by simp))), run_bind_ok (phWrite_plain _ (hq q (by simp)))]
      exact ih (fun x hx => o.plain (hp x (by simp [hx]))) fun x hx => o.plain (hq x (by simp [hx]))

/-! ## Delivery -/

/-- Delivery through the vector table (R420, R571). -/
theorem deliverReal_ok {ev : Event} {s t : State} {bytes : List Nat} (h : Delivers ev s t bytes) (hpe : s.pe = false) :
    deliverReal ev s = .ok () t := by
  cases h with
  | real v ps esp s1 s2 _ hl hv hp hlim hpl =>
    have w := hv.walks.trans (walks_of_pushPlaces hp)
    have o := (SameRegs.walk w).trans (.store (.storeAll s2 ps [Eflags.toWord { s.eflags with rf := ev.resume.rf },
      ev.resume.cs.setWidth 32, ev.resume.eip]))
    unfold deliverReal
    rw [run_get_bind, decide_eq_true hl, run_require_true_bind, run_bind_ok (sysRead_ok hv), run_bind_ok hp]
    dsimp only
    rw [hlim, run_require_true_bind, run_bind_ok (pushValues_ok hpl)]
    unfold setEsp
    rw [run_modify_bind, run_modify]
    dsimp only [State.withEsp, State.setSeg]
    rw [o.segs, o.eflags]
    rfl
  | same g d d1 ps esp bytes s1 s2 s3 hg => obtain ⟨v, s1, hp, -⟩ := hg; simp [State.prot, hpe] at hp
  | inner g d d1 ssSel esp0 esp ss ps b1 b2 s1 s2 s3 s4 s5 hg => obtain ⟨v, s1, hp, -⟩ := hg; simp [State.prot, hpe] at hp

/-- The gate of an event is read (R420 steps 2 to 6). -/
theorem readGate_ok {ev : Event} {s s1 : State} {v : Nat} {g : Desc} {types : List Nat}
    (hl : 8 * ev.vector.toNat + 7 ≤ s.sys.idtr.limit.toNat)
    (hv : SysItem s (s.sys.idtr.base + BitVec.ofNat 32 (8 * ev.vector.toNat)) 8 v s1)
    (hg : g = ⟨BitVec.ofNat 32 v, BitVec.ofNat 32 (v / 2 ^ 32)⟩) (hs : g.s = false) (ht : g.typ ∈ types)
    (hts : ∀ x ∈ types, x ∈ [5, 6, 7, 14, 15]) (hd : ev.kind = .soft → s.cpl ≤ g.dpl) (hp : g.p = true) :
    deliverProt ev s =
      (if g.typ == 5 then deliverTask ev g ev.ext else do deliverGate ev g ev.ext; handlerEntered) s1 := by
  have h1 : (!g.s && [5, 6, 7, 14, 15].contains g.typ) = true := by
    rw [hs, List.contains_eq_mem, decide_eq_true (hts _ ht)]
    rfl
  have h2 : (ev.kind != .soft || decide (s.cpl ≤ g.dpl)) = true := by
    cases hk : ev.kind <;> simp [hd, hk]
  have h3 : readDescAt (s.sys.idtr.base + BitVec.ofNat 32 (8 * ev.vector.toNat)) s = .ok g s1 := by
    rw [hg]
    exact run_bind_ok (sysRead_ok hv)
  unfold deliverProt
  rw [run_get_bind, decide_eq_true hl, run_require_true_bind, run_bind_ok h3, h1, run_require_true_bind, h2,
    run_require_true_bind, hp, run_require_true_bind]
  rfl

/-- Delivery through an interrupt or trap gate on the same stack (R422). -/
theorem deliverGate_same {ev : Event} {u s1 s2 s3 : State} {g d d1 : Desc} {ext : Bool} {ps : List (List Nat)} {esp : Word}
    {bytes : List Nat} (hn : isNull g.gateSel = false) (hd : DescAt u g.gateSel d s1) (hc : d.isCode = true)
    (hl : d.dpl ≤ u.cpl) (hdp : d.p = true) (hpriv : d.conforming = true ∨ d.dpl = u.cpl)
    (hp : pushPlaces u.segs.ss (.ss (zeroCode ext)) (u.cpl == 3) (if g.typ.testBit 3 then .d else .w)
      (ev.items u).length u.gpr.esp s1 = .ok (ps, esp) s2)
    (hoff : g.gateOff.toNat ≤ d.limit) (ha : Accessed s2 g.gateSel d d1 bytes s3) (hpl : s3.plains ps) :
    deliverGate ev g ext u = .ok () { ((s3.storeAll ps (ev.items u)).withEsp esp).setSeg .cs
      (d1.toSegReg (withRpl g.gateSel u.cpl)) with
        eip := d.entry g.gateOff, eflags := u.eflags.handler (!g.typ.testBit 0) } := by
  have w := (SameRegs.walk hd.walks).trans ((SameRegs.walk (walks_of_pushPlaces hp)).trans (.accessed ha))
  have o := w.trans (.store (.storeAll s3 ps (ev.items u)))
  have hc' : (!d.conforming && decide (d.dpl < u.cpl)) = false := by rcases hpriv with h | h <;> simp [h]
  have hf : frameItems ev u false = ev.items u := rfl
  unfold deliverGate
  rw [run_get_bind, hn, Bool.not_false, run_require_true_bind, run_bind_ok (readDesc_ok hd _), hc, decide_eq_true hl,
    Bool.and_self, run_require_true_bind, hdp, run_require_true_bind, hc', if_neg (by decide), hf]
  dsimp only
  rw [run_bind_ok hp]
  dsimp only
  rw [decide_eq_true hoff, run_require_true_bind, run_bind_ok (setAccessed_ok ha), run_bind_ok (pushValues_ok hpl), run_modify]
  unfold State.withEsp State.setCs State.setSeg
  dsimp only
  rw [attr_ip, ha.entry, o.eflags]
  rfl

/-- Delivery through an interrupt or trap gate to a more privileged level (R423). -/
theorem deliverGate_inner {ev : Event} {u s1 s2 s3 s4 s5 : State} {g d d1 : Desc} {ext : Bool} {ssSel : Half}
    {esp0 esp : Word} {ss : SegReg} {ps : List (List Nat)} {b1 b2 : List Nat} (hn : isNull g.gateSel = false)
    (hd : DescAt u g.gateSel d s1) (hc : d.isCode = true) (hdp : d.p = true) (hnc : d.conforming = false)
    (hlt : d.dpl < u.cpl) (hts : TssPointer s1 d.dpl ssSel esp0 s2) (hss : StackSegment s2 ssSel d.dpl ss b1 s3)
    (hp : pushPlaces ss (.ss (selCode ssSel ext)) false (if g.typ.testBit 3 then .d else .w)
      ((ev.items u).length + 2) esp0 s3 = .ok (ps, esp) s4)
    (ha : Accessed s4 g.gateSel d d1 b2 s5) (hpl : s5.plains ps) :
    deliverGate ev g ext u = .ok ()
      { (((s5.storeAll ps ([u.segs.ss.sel.setWidth 32, u.gpr.esp] ++ ev.items u)).withEsp esp).setSeg .ss ss).setSeg .cs
          (d1.toSegReg (withRpl g.gateSel d.dpl)) with
        eip := d.entry g.gateOff, eflags := u.eflags.handler (!g.typ.testBit 0) } := by
  have hf : frameItems ev u true = [u.segs.ss.sel.setWidth 32, u.gpr.esp] ++ ev.items u := rfl
  have hlen : (frameItems ev u true).length = (ev.items u).length + 2 := by rw [hf, List.length_append]; exact Nat.add_comm _ _
  have hc' : (!d.conforming && decide (d.dpl < u.cpl)) = true := by simp [hnc, hlt]
  have w := (SameRegs.walk hd.walks).trans ((SameRegs.tssPointer hts).trans ((SameRegs.stackSegment hss).trans
    ((SameRegs.walk (walks_of_pushPlaces hp)).trans (.accessed ha))))
  have o := w.trans (.store (.storeAll s5 ps ([u.segs.ss.sel.setWidth 32, u.gpr.esp] ++ ev.items u)))
  unfold deliverGate
  rw [run_get_bind, hn, Bool.not_false, run_require_true_bind, run_bind_ok (readDesc_ok hd _), hc,
    decide_eq_true (Nat.le_of_lt hlt), Bool.and_self, run_require_true_bind, hdp, run_require_true_bind, hc', if_pos rfl,
    run_bind_ok (tssStack_ok hts ext)]
  dsimp only
  rw [run_bind_ok (innerSs_ok hss ext), hlen]
  rw [run_bind_ok hp]
  dsimp only
  rw [run_bind_ok (setAccessed_ok ha), hf, run_bind_ok (pushValues_ok hpl), run_modify]
  unfold State.withEsp State.setCs State.setSeg
  dsimp only
  rw [attr_ip, ha.entry, ha.dpl, o.eflags]
  rfl

theorem deliverOnce_prot {ev : Event} {s : State} (h : s.prot = true) : deliverOnce ev s = deliverProt ev s := by
  simp only [State.prot, Bool.and_eq_true, Bool.not_eq_true'] at h
  unfold deliverOnce
  rw [run_get_bind, State.v86, h.1, h.2]
  rfl

/-- An event is delivered without a task switch (R420 to R426), and its handler is counted. -/
theorem deliver_ok {ev : Event} {s t : State} {bytes : List Nat} (h : Delivers ev s t bytes) :
    deliverOnce ev s = .ok () { t with pend := t.pend.entered } := by
  have gate {g : Desc} (h : g.typ ∈ [6, 7, 14, 15]) : (g.typ == 5) = false := by
    generalize g.typ = y at h
    revert y
    decide
  have items {u : State} (h : SameRegs s u) : ev.items u = ev.items s := by unfold Event.items; rw [h.eflags]
  cases h with
  | real v ps esp s1 s2 hpe hl hv hp hlim hpl =>
    unfold deliverOnce
    rw [run_get_bind, State.v86, hpe]
    exact run_bind_ok (deliverReal_ok (.real v ps esp s1 s2 hpe hl hv hp hlim hpl) hpe)
  | same g d d1 ps esp bytes s1 s2 s3 hg hpriv hp hoff ha hpl =>
    obtain ⟨v, s0, hprot, hl, hv, hgd, hs, htyp, hdpl, hgp, hn, hd, hc, hle, hdp⟩ := hg
    have w := SameRegs.walk hv.walks
    rw [← items w, ← w.segs, ← w.cpl, ← w.gpr] at hp
    rw [deliverOnce_prot hprot, readGate_ok hl hv hgd hs htyp (by decide) hdpl hgp, gate htyp, if_neg (by decide),
      run_bind_ok (deliverGate_same hn hd hc (w.cpl ▸ hle) hdp (w.cpl ▸ hpriv) hp hoff ha hpl), items w, w.cpl, w.eflags]
    rfl
  | inner g d d1 ssSel esp0 esp ss ps b1 b2 s1 s2 s3 s4 s5 hg hnc hlt hts hss hp ha hpl =>
    obtain ⟨v, s0, hprot, hl, hv, hgd, hs, htyp, hdpl, hgp, hn, hd, hc, hle, hdp⟩ := hg
    have w := SameRegs.walk hv.walks
    rw [← items w] at hp
    rw [deliverOnce_prot hprot, readGate_ok hl hv hgd hs htyp (by decide) hdpl hgp, gate htyp, if_neg (by decide),
      run_bind_ok (deliverGate_inner hn hd hc hdp hnc (w.cpl ▸ hlt) hts hss hp ha hpl), items w, w.segs, w.gpr, w.eflags]
    rfl

/-- An event is delivered through a task gate, which then takes its error code (R427, R428). -/
theorem deliverTask_ok {ev : Event} {g : Desc} {s s1 t : State} {bytes : List Nat} (hg : TaskGateFor ev s g s1)
    (hs : Switches .int g.gateSel ev.resume ev.ext s1 t bytes) :
    (ev.code = none → deliverOnce ev s = .ok () t) ∧
    (∀ c pas esp u, ev.code = some c →
      pushPlaces t.segs.ss (.ss (zeroCode ev.ext)) (t.cpl == 3) (if t.sys.tr.attr.typ.getLsbD 3 then .d else .w) 1
        t.gpr.esp t = .ok ([pas], esp) u → u.plain pas →
      deliverOnce ev s = .ok () ((u.storeAt pas c.toNat).withEsp esp)) := by
  obtain ⟨v, hprot, hl, hv, hgd, hsys, htyp, hdpl, hp⟩ := hg
  have hsw := taskSwitch_ok hs
  have h : deliverOnce ev s = deliverTask ev g ev.ext s1 := by
    rw [deliverOnce_prot hprot, readGate_ok hl hv hgd hsys (List.mem_singleton.mpr htyp) (by decide) hdpl hp, htyp]
    rfl
  rw [h]
  unfold deliverTask
  rw [run_bind_ok hsw]
  refine ⟨fun hc => by rw [hc]; rfl, fun c pas esp u hc hpu hpl => ?_⟩
  rw [hc]
  dsimp only
  unfold asTrap
  rw [run_get_bind, run_bind_ok hpu]
  dsimp only
  rw [run_bind_ok (pushValues_ok (ps := [pas]) (by simpa [State.plains] using hpl))]
  rfl

/-- An event whose delivery meets no exception is taken (R420). -/
theorem takeEvent_ok {ev : Event} {s t : State} (h : deliverOnce ev s = .ok () t) : takeEvent ev s = .next (t.awakened ev.kind) := by
  unfold takeEvent deliverFuel deliverLoop
  rw [h]
  rfl

/-- An event that is delivered without a task switch is taken (R420 to R426). -/
theorem takeEvent_delivers {ev : Event} {s t : State} {bytes : List Nat} (h : Delivers ev s t bytes) :
    takeEvent ev s = .next (t.taken ev.kind) := takeEvent_ok (deliver_ok h)

/-! ## Far JMP and CALL -/

/-- The far pointer of a memory operand is read (R205). -/
theorem farPointer_ok {m : Mem} {sel : Half} {off : Word} {s s2 : State} (h : FarPtr s m sel off s2) :
    farPointer m s.osz s = .ok (sel, off) s2 := by
  obtain ⟨p, h, hp, rfl, rfl⟩ := h
  have hs {q : List Nat} (hq : q ⊆ p) : s2.plain q :=
    List.any_eq_false.mpr fun a ha => List.any_eq_false.mp hp a (hq ha)
  unfold farPointer
  rw [run_bind_ok h, run_bind_ok (phRead_plain (hs (List.take_subset _ _))), run_bind_ok (phRead_plain (hs (List.drop_subset _ _)))]
  rfl

theorem FarPtr.walks {m : Mem} {sel : Half} {off : Word} {s s2 : State} (h : FarPtr s m sel off s2) : SameButWalk s s2 := by
  obtain ⟨p, h, -⟩ := h
  exact walks_of_memAddrs h

/-- A code segment is entered (R145, R282). -/
theorem enterCode_ok {s s2 : State} {cs : Half} {d d1 : Desc} {bytes : List Nat} (cpl : Nat) (o : Word)
    (ha : Accessed s cs d d1 bytes s2) :
    enterCode cs cpl d o s = .ok () ((s2.setSeg .cs (d1.toSegReg (withRpl cs cpl))).goto (d.entry o)) := by
  unfold enterCode
  rw [run_bind_ok (setAccessed_ok ha), run_modify]
  unfold State.setCs State.goto State.setSeg
  dsimp only
  rw [attr_ip, ha.entry]

/-- A system descriptor is no code segment. -/
theorem not_code {d : Desc} (h : d.isSys 4 = true ∨ d.isSys 12 = true ∨ d.isSys 5 = true ∨ d.isTss = true) :
    d.isCode = false := by
  unfold Desc.isCode
  unfold Desc.isTss Desc.isSys at h
  cases hs : d.s <;> simp_all

/-- A gate that may be used and is present (R284, R324). -/
theorem checkGate_ok {sel : Half} {g : Desc} {s : State} (hc : s.cpl ≤ g.dpl) (hr : rpl sel ≤ g.dpl) (hp : g.p = true) :
    checkGate sel g s = .ok () s := by
  unfold checkGate
  rw [run_get_bind, hp, decide_eq_true hc, decide_eq_true hr]
  rfl

/-- A far JMP to a code segment, directly or through a call gate (R282, R288). -/
theorem jmpFarProt_ok {sel cs : Half} {off o : Word} {s s1 s2 : State} {d d1 : Desc} {z : Sz} {bytes : List Nat}
    (h : CodeTarget s sel off cs d o z s1) (ha : Accessed s1 cs d d1 bytes s2) :
    jmpFarProt sel off s = .ok () ((s2.setSeg .cs (d1.toSegReg (withRpl cs s.cpl))).goto (d.entry o)) := by
  unfold jmpFarProt
  rw [run_get_bind]
  cases h with
  | direct _ _ hn hd hc hpriv hp hlim =>
    rw [hn, if_neg (by decide)]
    have w := SameRegs.walk hd.walks
    dsimp only
    rw [run_bind_ok (readDesc_ok hd _), hc, if_pos rfl]
    have : checkDirect sel d off s1 = .ok () s1 := by
      unfold checkDirect
      rw [run_get_bind, w.cpl, hp, decide_eq_true hlim]
      have : (if d.conforming = true then decide (d.dpl ≤ s.cpl) else decide (rpl sel ≤ s.cpl) && d.dpl == s.cpl) = true := by
        split at hpriv <;> simp [*]
      rw [this]
      rfl
    rw [run_bind_ok this, enterCode_ok _ _ ha]
  | gate g _ s0 _ hn hg hs hc hr hp hgn hd hcode hpriv hdp =>
    rw [hn, if_neg (by decide)]
    have w := SameRegs.walk hg.walks
    dsimp only
    rw [run_bind_ok (readDesc_ok hg _), not_code (by tauto), if_neg (by decide)]
    have h412 : (g.isSys 4 || g.isSys 12) = true := by simpa using hs
    rw [h412, if_pos rfl]
    have e2 : gateTarget g false s0 = .ok d s1 := by
      unfold gateTarget
      rw [run_get_bind, w.cpl, hgn, Bool.not_false, run_require_true_bind, run_bind_ok (readDesc_ok hd _), hcode,
        run_require_true_bind, hdp]
      have : (if (d.conforming || false) = true then decide (d.dpl ≤ s.cpl) else d.dpl == s.cpl) = true := by
        rw [Bool.or_false]
        split at hpriv <;> simp [*]
      rw [this]
      rfl
    rw [run_bind_ok (checkGate_ok (w.cpl ▸ hc) hr hp), run_bind_ok e2, enterCode_ok _ _ ha]

/-- A far JMP or CALL to a task (R321, R326). -/
theorem farTask_ok {kind : SwitchKind} {sel tss : Half} {s s2 t : State} {bytes : List Nat}
    (h : TaskTarget s sel tss s2) (hs : Switches kind tss s.resumeNext false s2 t bytes) :
    ∃ d s1, DescAt s sel d s1 ∧ isNull sel = false ∧ (d.isSys 5 = true ∨ d.isTss = true) ∧
      farTask kind sel d s1 = .ok () t := by
  cases h with
  | tss d s1 hn hd ht hc hr =>
    have w := SameRegs.walk hd.walks
    refine ⟨d, _, hd, hn, .inr ht, ?_⟩
    have h5 : d.isSys 5 = false := by
      unfold Desc.isTss Desc.isSys at ht
      unfold Desc.isSys
      by_contra hh
      simp at hh
      simp_all
    unfold farTask
    rw [run_get_bind, h5, if_neg (by decide), w.cpl, decide_eq_true hc, decide_eq_true hr, w.resumeNext]
    exact run_bind_ok (taskSwitch_ok hs)
  | gate g s1 hn hd ht hc hr hp =>
    have w := SameRegs.walk hd.walks
    refine ⟨g, _, hd, hn, .inl ht, ?_⟩
    unfold farTask
    rw [run_get_bind, ht, if_pos rfl]
    dsimp only
    rw [run_bind_ok (checkGate_ok (w.cpl ▸ hc) hr hp), run_pure_bind, w.resumeNext]
    exact run_bind_ok (taskSwitch_ok hs)

/-- A task gate or a TSS is no call gate. -/
theorem not_callGate {d : Desc} (h : d.isSys 5 = true ∨ d.isTss = true) : (d.isSys 4 || d.isSys 12) = false := by
  unfold Desc.isTss Desc.isSys at *
  cases hs : d.s <;> simp_all
  rcases h with h | h <;> omega

/-- A far CALL on the same stack (R283, R285). -/
theorem callSame_ok {s s1 s2 s3 : State} (w : SameRegs s s1) {z : Sz} {cs : Half} {d d1 : Desc} {o esp : Word}
    {p q bytes : List Nat}
    (hp : pushPlaces s.segs.ss (.ss 0#16) (s.cpl == 3) z 2 s.gpr.esp s1 = .ok ([p, q], esp) s2)
    (ha : Accessed s2 cs d d1 bytes s3) (hpl : s3.plains [p, q]) :
    callSame z cs d o s1 = .ok () ((((s3.storeAll [p, q] [s.segs.cs.sel.setWidth 32, s.ctx.nextEip]).withEsp esp).setSeg .cs
          (d1.toSegReg (withRpl cs s.cpl))).goto (d.entry o)) := by
  unfold callSame
  rw [← w.segs, ← w.cpl, ← w.gpr] at hp
  rw [run_get_bind, run_bind_ok hp]
  dsimp only
  rw [run_bind_ok (setAccessed_ok ha), run_bind_ok (pushValues_ok hpl)]
  unfold setEsp
  rw [run_modify_bind, run_modify, w.cpl, w.segs, w.ctx]
  unfold State.withEsp State.setCs State.goto State.setSeg
  dsimp only
  rw [attr_ip, ha.entry]

/-- As many addresses as pushes. -/
theorem pushLins_length {ss : SegReg} {e : Exc} {z : Sz} {n : Nat} {esp last : Word} {lins : List Word} {s t : State}
    (h : pushLins ss e z n esp s = .ok (lins, last) t) : lins.length = n := by
  induction n generalizing esp lins last s with
  | zero => cases h; rfl
  | succ n ih =>
    rw [pushLins] at h
    dsimp only at h
    rw [run_bind] at h
    split at h
    · rw [run_bind] at h
      split at h
      · rename_i x _ hx
        obtain ⟨l, la⟩ := x
        cases h
        simp [ih hx]
      · cases h
    · cases h

/-- Steps 6 to 8 of R286 in plain memory. -/
theorem pushInner_ok {p : InnerPlaces} {s : State} (h : s.plains (p.stack ++ p.params ++ p.copies ++ p.back)) :
    pushInner p s = .ok () (((s.storeAll p.stack [s.segs.ss.sel.setWidth 32, s.gpr.esp]).copyAll p.params p.copies).storeAll
      p.back [s.segs.cs.sel.setWidth 32, s.ctx.nextEip]) := by
  have o1 := OnlyStored.storeAll s p.stack [s.segs.ss.sel.setWidth 32, s.gpr.esp]
  have o2 := o1.trans (.copyAll _ p.params p.copies)
  have part (q : List (List Nat)) (hq : ∀ x ∈ q, x ∈ p.stack ++ p.params ++ p.copies ++ p.back) : s.plains q :=
    fun x hx => h x (hq x hx)
  have hc := copyItems_ok (s := s.storeAll p.stack [s.segs.ss.sel.setWidth 32, s.gpr.esp]) (ps := p.params) (qs := p.copies)
    (fun x hx => o1.plain (part p.params (by simp_all) x hx)) fun x hx => o1.plain (part p.copies (by simp_all) x hx)
  unfold pushInner
  rw [run_get_bind, run_bind_ok (pushValues_ok (part p.stack (by simp_all))), run_bind_ok hc]
  exact pushValues_ok fun x hx => o2.plain (part p.back (by simp_all) x hx)

/-- A far CALL through a call gate to an inner level (R286, R287). -/
theorem callInner_ok {s s2 s3 s4 s5 s6 s7 s8 : State} (w : SameRegs s s2) {g d d1 : Desc} {ssSel : Half}
    {esp0 esp : Word} {ss : SegReg} {lins : List Word} {ps1 params ps2 ps3 : List (List Nat)} {z : Sz} {n : Nat}
    {b1 b2 : List Nat} (hn : n = g.hi.toNat % 32)
    (h1 : TssPointer s2 d.dpl ssSel esp0 s3) (h2 : StackSegment s3 ssSel d.dpl ss b1 s4)
    (h3 : pushLins ss (.ss (selCode ssSel false)) z (n + 4) esp0 s4 = .ok (lins, esp) s4)
    (h4 : pushPas false z (lins.take 2) s4 = .ok ps1 s5) (h5 : Copies z ((lins.drop 2).take n) s5 params ps2 s6)
    (h6 : pushPas false z (lins.drop (n + 2)) s6 = .ok ps3 s7)
    (h7 : Accessed s7 g.gateSel d d1 b2 s8) (h8 : s8.plains (ps1 ++ params ++ ps2 ++ ps3)) :
    callInner z g d s2 = .ok () (((((((s8.storeAll ps1 [s.segs.ss.sel.setWidth 32, s.gpr.esp]).copyAll params ps2).storeAll ps3
          [s.segs.cs.sel.setWidth 32, s.ctx.nextEip]).setSeg .ss ss).setSeg .cs
          (d1.toSegReg (withRpl g.gateSel d.dpl))).withEsp esp).goto (d.entry g.gateOff)) := by
  have hf : field g.hi 0 5 = n := by rw [hn]; unfold field; simp
  have hlen : lins.length = n + 4 := pushLins_length h3
  have w4 := w.trans ((SameRegs.tssPointer h1).trans (SameRegs.stackSegment h2))
  have w8 := w4.trans (((SameRegs.walk (walks_of_pushPas h4)).trans (.walk (h5.walks.trans (walks_of_pushPas h6)))).trans
    (.accessed h7))
  have hpl : innerPlaces z lins s4 = .ok ⟨ps1, params, ps2, ps3⟩ s7 := by
    unfold innerPlaces
    dsimp only
    rw [show lins.length - 4 = n by omega, run_bind_ok h4, run_bind_ok (copyPlaces_ok h5)]
    dsimp only
    rw [run_bind_ok h6]
    rfl
  have hpu := pushInner_ok (p := ⟨ps1, params, ps2, ps3⟩) h8
  rw [w8.segs, w8.gpr, w8.ctx] at hpu
  unfold callInner
  dsimp only
  rw [run_bind_ok (tssStack_ok h1 _)]
  dsimp only
  rw [run_bind_ok (innerSs_ok h2 _), hf, run_bind_ok h3]
  dsimp only
  rw [run_bind_ok hpl, run_bind_ok (setAccessed_ok h7), run_bind_ok hpu, run_modify]
  unfold State.withEsp State.setCs State.goto State.setSeg
  dsimp only
  rw [attr_ip, h7.entry]

end Sys2Proof.Machine
end

