-- ==== Sys2Proof/Tests/Slice0.lean ====
section
/-! SUPPORT. Tests: ill-formed terms that WellFormed refuses, words written out from the spec's encoding tables, single
steps with the results of spec/95_test_vectors.md, and for each statement a state that meets its hypotheses. -/
-- one theorem at a time: each kernel evaluation would else start a thread of its own
set_option Elab.async false
namespace Sys2Proof.Tests
open Sys2Proof.Machine

/-! ## Well-formed terms -/

/-- 32-bit operands and addresses, no prefix. -/
def ctx32 : DecodeCtx := ⟨true, Pfx.none⟩
/-- 16-bit operands and addresses. -/
def ctx16 : DecodeCtx := ⟨false, Pfx.none⟩

theorem test_wf_disp32_needs_32bit_addressing : (Instr.sgdt (.abs32 0#32)).wf ctx16 = false := by decide
theorem test_wf_base_needs_32bit_addressing : (Instr.sgdt (.base32 .eax .none)).wf ctx16 = false := by decide
theorem test_wf_esp_is_no_plain_base : (Instr.sgdt (.base32 .esp .none)).wf ctx32 = false := by decide
theorem test_wf_ebp_base_has_displacement : (Instr.sgdt (.base32 .ebp .none)).wf ctx32 = false := by decide
theorem test_wf_sib_needs_32bit_addressing : (Instr.sgdt (.sib .eax none .none)).wf ctx16 = false := by decide
theorem test_wf_sib_ebp_base_has_displacement : (Instr.sgdt (.sib .ebp none .none)).wf ctx32 = false := by decide
theorem test_wf_esp_is_no_index : (Instr.sgdt (.sib .eax (some ⟨.esp, .x2⟩) .none)).wf ctx32 = false := by decide
theorem test_wf_sibAbs_needs_32bit_addressing : (Instr.sgdt (.sibAbs none 0#32)).wf ctx16 = false := by decide
theorem test_wf_sibAbs_esp_is_no_index : (Instr.sgdt (.sibAbs (some ⟨.esp, .x1⟩) 0#32)).wf ctx32 = false := by decide
theorem test_wf_disp16_needs_16bit_addressing : (Instr.sgdt (.abs16 0#16)).wf ctx32 = false := by decide
theorem test_wf_base16_needs_16bit_addressing : (Instr.sgdt (.base16 .bx .none)).wf ctx32 = false := by decide
theorem test_wf_bp_base_has_displacement : (Instr.sgdt (.base16 .bp .none)).wf ctx16 = false := by decide
theorem test_wf_rm_operand : (Instr.incRm (.mem (.base32 .esp .none))).wf ctx32 = false := by decide
theorem test_wf_immediate_fits : (Instr.addRmImm (.reg .eax) 0x10000#32).wf ctx16 = false := by decide
theorem test_wf_displacement_fits : (Instr.jmpRel32 0x10000#32).wf ctx16 = false := by decide
theorem test_wf_moffs_fits : (Instr.movEaxMoffs 0x10000#32).wf ctx16 = false := by decide
theorem test_wf_far_offset_fits : (Instr.jmpPtr1632 8#16 0x10000#32).wf ctx16 = false := by decide
theorem test_wf_xchg_eax_eax_is_nop : (Instr.xchgEaxR .eax).wf ctx32 = false := by decide
theorem test_wf_pause_needs_rep : Instr.pause.wf ctx32 = false := by decide
theorem test_wf_nop_excludes_rep : Instr.nop.wf ⟨true, { Pfx.none with rep := some .rep }⟩ = false := by decide

/-! ## Encodings

The words are written out from spec/opcode_table.json, with ModRM bytes from R203. -/

/-- Bytes from numbers. -/
def bytes (bs : List Nat) : List Byte := bs.map (BitVec.ofNat 8)

/-- A word decodes to the instruction, and the instruction encodes to the word. -/
def reads (p : List Nat × Instr) : Bool :=
  decode ctx32 (bytes p.1) == .instr p.2 [] && encode ctx32 p.2 == bytes p.1 && p.2.wf ctx32

theorem test_decode_system_1 : [
    ([0x0F, 0x01, 0xC8], Instr.monitor),
    ([0x0F, 0x01, 0xC9], Instr.mwait),
    ([0x0F, 0xAE, 0xE8], Instr.lfence),
    ([0x0F, 0xAE, 0xF0], Instr.mfence),
    ([0x0F, 0xAE, 0xF8], Instr.sfence),
    ([0x0F, 0x00, 0x43, 0x15], Instr.sldt (.mem (.base32 .ebx (.d8 0x15#8)))),
    ([0x0F, 0x00, 0xCC], Instr.str (.reg .esp)),
    ([0x0F, 0x00, 0x53, 0x17], Instr.lldt (.mem (.base32 .ebx (.d8 0x17#8)))),
    ([0x0F, 0x00, 0x5B, 0x18], Instr.ltr (.mem (.base32 .ebx (.d8 0x18#8)))),
    ([0x0F, 0x00, 0xE7], Instr.verr (.reg .edi)),
    ([0x0F, 0x00, 0x6B, 0x1A], Instr.verw (.mem (.base32 .ebx (.d8 0x1A#8)))),
    ([0x0F, 0x01, 0x43, 0x1B], Instr.sgdt (.base32 .ebx (.d8 0x1B#8))),
    ([0x0F, 0x01, 0x4B, 0x1C], Instr.sidt (.base32 .ebx (.d8 0x1C#8))),
    ([0x0F, 0x01, 0x53, 0x1D], Instr.lgdt (.base32 .ebx (.d8 0x1D#8))),
    ([0x0F, 0x01, 0x5B, 0x1E], Instr.lidt (.base32 .ebx (.d8 0x1E#8))),
    ([0x0F, 0x01, 0xE3], Instr.smsw (.reg .ebx)),
    ([0x0F, 0x01, 0x73, 0x20], Instr.lmsw (.mem (.base32 .ebx (.d8 0x20#8)))),
    ([0x0F, 0x01, 0x7B, 0x21], Instr.invlpg (.base32 .ebx (.d8 0x21#8))),
    ([0x0F, 0xAE, 0x43, 0x22], Instr.fxsave (.base32 .ebx (.d8 0x22#8))),
    ([0x0F, 0xAE, 0x4B, 0x23], Instr.fxrstor (.base32 .ebx (.d8 0x23#8))),
    ([0x0F, 0xAE, 0x53, 0x24], Instr.ldmxcsr (.base32 .ebx (.d8 0x24#8))),
    ([0x0F, 0xAE, 0x5B, 0x25], Instr.stmxcsr (.base32 .ebx (.d8 0x25#8))),
    ([0x0F, 0xAE, 0x7B, 0x26], Instr.clflush (.base32 .ebx (.d8 0x26#8))),
    ([0x0F, 0x02, 0x63, 0x2C], Instr.lar .esp (.mem (.base32 .ebx (.d8 0x2C#8)))),
    ([0x0F, 0x03, 0x6B, 0x2D], Instr.lsl .ebp (.mem (.base32 .ebx (.d8 0x2D#8)))),
    ([0x0F, 0x06], Instr.clts),
    ([0x0F, 0x08], Instr.invd),
    ([0x0F, 0x09], Instr.wbinvd),
    ([0x0F, 0x0B], Instr.ud2),
    ([0x0F, 0x20, 0xE7], Instr.movR32Crn .edi .cr4),
    ([0x0F, 0x21, 0xCB], Instr.movR32Drn .ebx .dr1),
    ([0x0F, 0x22, 0xE4], Instr.movCrnR32 .cr4 .esp),
    ([0x0F, 0x23, 0xDD], Instr.movDrnR32 .dr3 .ebp),
    ([0x0F, 0x30], Instr.wrmsr),
    ([0x0F, 0x31], Instr.rdtsc),
    ([0x0F, 0x32], Instr.rdmsr)
  ].all reads = true := by decide +kernel

theorem test_decode_system_2 : [
    ([0x0F, 0x33], Instr.rdpmc),
    ([0x0F, 0x34], Instr.sysenter),
    ([0x0F, 0x35], Instr.sysexit),
    ([0x0F, 0xA2], Instr.cpuid),
    ([0x0F, 0xAA], Instr.rsm),
    ([0x62, 0x6B, 0x11], Instr.bound .ebp (.base32 .ebx (.d8 0x11#8))),
    ([0x63, 0x4B, 0x12], Instr.arpl (.mem (.base32 .ebx (.d8 0x12#8))) .ecx),
    ([0xF4], Instr.hlt),
    ([0xFA], Instr.cli),
    ([0xFB], Instr.sti),
    ([0xE4, 0x14], Instr.inAlImm8 0x14#8),
    ([0xE5, 0x15], Instr.inEaxImm8 0x15#8),
    ([0xEC], Instr.inAlDx),
    ([0xED], Instr.inEaxDx),
    ([0xE6, 0x18], Instr.outImm8Al 0x18#8),
    ([0xE7, 0x19], Instr.outImm8Eax 0x19#8),
    ([0xEE], Instr.outDxAl),
    ([0xEF], Instr.outDxEax)
  ].all reads = true := by decide +kernel

theorem test_decode_unary_bits : [
    ([0x0F, 0xC7, 0x4B, 0x27], Instr.cmpxchg8b (.base32 .ebx (.d8 0x27#8))),
    ([0x0F, 0xBA, 0xE7, 0x99], Instr.btRmImm8 (.reg .edi) 0x99#8),
    ([0x0F, 0xBA, 0x6B, 0x29, 0x9A], Instr.btsRmImm8 (.mem (.base32 .ebx (.d8 0x29#8))) 0x9A#8),
    ([0x0F, 0xBA, 0x73, 0x2A, 0x9B], Instr.btrRmImm8 (.mem (.base32 .ebx (.d8 0x2A#8))) 0x9B#8),
    ([0x0F, 0xBA, 0xFD, 0x9C], Instr.btcRmImm8 (.reg .ebp) 0x9C#8),
    ([0x0F, 0xC0, 0xD4], Instr.xaddRm8R8 (.reg .ah) .dl),
    ([0x0F, 0xC1, 0x5B, 0x44], Instr.xaddRmR (.mem (.base32 .ebx (.d8 0x44#8))) .ebx),
    ([0x0F, 0xB0, 0x63, 0x45], Instr.cmpxchgRm8R8 (.mem (.base32 .ebx (.d8 0x45#8))) .ah),
    ([0x0F, 0xB1, 0xEF], Instr.cmpxchgRmR (.reg .edi) .ebp),
    ([0x0F, 0xA3, 0x4B, 0x47], Instr.btRmR (.mem (.base32 .ebx (.d8 0x47#8))) .ecx),
    ([0x0F, 0xAB, 0x53, 0x48], Instr.btsRmR (.mem (.base32 .ebx (.d8 0x48#8))) .edx),
    ([0x0F, 0xB3, 0xDD], Instr.btrRmR (.reg .ebp) .ebx),
    ([0x0F, 0xBB, 0x63, 0x4A], Instr.btcRmR (.mem (.base32 .ebx (.d8 0x4A#8))) .esp),
    ([0xFE, 0x43, 0x3B], Instr.incRm8 (.mem (.base32 .ebx (.d8 0x3B#8)))),
    ([0xFF, 0xC6], Instr.incRm (.reg .esi)),
    ([0xFE, 0x4B, 0x3D], Instr.decRm8 (.mem (.base32 .ebx (.d8 0x3D#8)))),
    ([0xFF, 0x4B, 0x3E], Instr.decRm (.mem (.base32 .ebx (.d8 0x3E#8)))),
    ([0xF6, 0xD4], Instr.notRm8 (.reg .ah)),
    ([0xF7, 0x53, 0x40], Instr.notRm (.mem (.base32 .ebx (.d8 0x40#8)))),
    ([0xF6, 0x5B, 0x41], Instr.negRm8 (.mem (.base32 .ebx (.d8 0x41#8)))),
    ([0xF7, 0xDF], Instr.negRm (.reg .edi)),
    ([0x43], Instr.incR .ebx),
    ([0x4C], Instr.decR .esp)
  ].all reads = true := by decide +kernel

theorem test_decode_moves_1 : [
    ([0x0F, 0xC3, 0x53, 0x3E], Instr.movnti (.base32 .ebx (.d8 0x3E#8)) .edx),
    ([0x0F, 0xA0], Instr.pushFs),
    ([0x0F, 0xA8], Instr.pushGs),
    ([0x0F, 0xA1], Instr.popFs),
    ([0x0F, 0xA9], Instr.popGs),
    ([0xC6, 0x43, 0x1D, 0xCE], Instr.movRm8Imm8 (.mem (.base32 .ebx (.d8 0x1D#8))) 0xCE#8),
    ([0xC7, 0xC6, 0x78, 0x56, 0x34, 0xF2], Instr.movRmImm (.reg .esi) 0xF2345678#32),
    ([0xFF, 0x73, 0x1F], Instr.pushRm (.mem (.base32 .ebx (.d8 0x1F#8)))),
    ([0x8F, 0x43, 0x20], Instr.popRm (.mem (.base32 .ebx (.d8 0x20#8)))),
    ([0x8C, 0x53, 0x13], Instr.movRmSreg (.mem (.base32 .ebx (.d8 0x13#8))) .ss),
    ([0x8E, 0xDD], Instr.movSregRm16 .ds (.reg .ebp)),
    ([0x9C], Instr.pushf),
    ([0x9D], Instr.popf),
    ([0x88, 0x4B, 0x2B], Instr.movRm8R8 (.mem (.base32 .ebx (.d8 0x2B#8))) .cl),
    ([0x89, 0xD4], Instr.movRmR (.reg .esp) .edx),
    ([0x8A, 0x5B, 0x2D], Instr.movR8Rm8 .bl (.mem (.base32 .ebx (.d8 0x2D#8)))),
    ([0x8B, 0x63, 0x2E], Instr.movRRm .esp (.mem (.base32 .ebx (.d8 0x2E#8)))),
    ([0xA0, 0x78, 0x56, 0x34, 0xF2], Instr.movAlMoffs8 0xF2345678#32),
    ([0xA1, 0x78, 0x56, 0x34, 0xF2], Instr.movEaxMoffs 0xF2345678#32),
    ([0xA2, 0x78, 0x56, 0x34, 0xF2], Instr.movMoffs8Al 0xF2345678#32),
    ([0xA3, 0x78, 0x56, 0x34, 0xF2], Instr.movMoffsEax 0xF2345678#32),
    ([0x8D, 0x63, 0x33], Instr.lea .esp (.base32 .ebx (.d8 0x33#8))),
    ([0x86, 0x6B, 0x34], Instr.xchgRm8R8 (.mem (.base32 .ebx (.d8 0x34#8))) .ch),
    ([0x87, 0xCB], Instr.xchgRmR (.reg .ebx) .ecx),
    ([0x6A, 0x27], Instr.pushImm8 0x27#8),
    ([0x68, 0x78, 0x56, 0x34, 0xF2], Instr.pushImm32 0xF2345678#32),
    ([0x06], Instr.pushEs),
    ([0x0E], Instr.pushCs),
    ([0x16], Instr.pushSs),
    ([0x1E], Instr.pushDs),
    ([0x07], Instr.popEs),
    ([0x17], Instr.popSs),
    ([0x1F], Instr.popDs),
    ([0xB4, 0x7A], Instr.movR8Imm8 .ah 0x7A#8),
    ([0xBD, 0x78, 0x56, 0x34, 0xF2], Instr.movRImm .ebp 0xF2345678#32),
    ([0x96], Instr.xchgEaxR .esi)
  ].all reads = true := by decide +kernel

theorem test_decode_moves_2 : [
    ([0x51], Instr.pushR .ecx),
    ([0x5A], Instr.popR .edx)
  ].all reads = true := by decide +kernel

theorem test_decode_control_1 : [
    ([0x0F, 0x80, 0x78, 0x56, 0x34, 0xF2], Instr.joRel32 0xF2345678#32),
    ([0x0F, 0x81, 0x78, 0x56, 0x34, 0xF2], Instr.jnoRel32 0xF2345678#32),
    ([0x0F, 0x82, 0x78, 0x56, 0x34, 0xF2], Instr.jbRel32 0xF2345678#32),
    ([0x0F, 0x83, 0x78, 0x56, 0x34, 0xF2], Instr.jaeRel32 0xF2345678#32),
    ([0x0F, 0x84, 0x78, 0x56, 0x34, 0xF2], Instr.jeRel32 0xF2345678#32),
    ([0x0F, 0x85, 0x78, 0x56, 0x34, 0xF2], Instr.jneRel32 0xF2345678#32),
    ([0x0F, 0x86, 0x78, 0x56, 0x34, 0xF2], Instr.jbeRel32 0xF2345678#32),
    ([0x0F, 0x87, 0x78, 0x56, 0x34, 0xF2], Instr.jaRel32 0xF2345678#32),
    ([0x0F, 0x88, 0x78, 0x56, 0x34, 0xF2], Instr.jsRel32 0xF2345678#32),
    ([0x0F, 0x89, 0x78, 0x56, 0x34, 0xF2], Instr.jnsRel32 0xF2345678#32),
    ([0x0F, 0x8A, 0x78, 0x56, 0x34, 0xF2], Instr.jpRel32 0xF2345678#32),
    ([0x0F, 0x8B, 0x78, 0x56, 0x34, 0xF2], Instr.jnpRel32 0xF2345678#32),
    ([0x0F, 0x8C, 0x78, 0x56, 0x34, 0xF2], Instr.jlRel32 0xF2345678#32),
    ([0x0F, 0x8D, 0x78, 0x56, 0x34, 0xF2], Instr.jgeRel32 0xF2345678#32),
    ([0x0F, 0x8E, 0x78, 0x56, 0x34, 0xF2], Instr.jleRel32 0xF2345678#32),
    ([0x0F, 0x8F, 0x78, 0x56, 0x34, 0xF2], Instr.jgRel32 0xF2345678#32),
    ([0xFF, 0x5B, 0x1B], Instr.callM1632 (.base32 .ebx (.d8 0x1B#8))),
    ([0xFF, 0x6B, 0x1C], Instr.jmpM1632 (.base32 .ebx (.d8 0x1C#8))),
    ([0xFF, 0x63, 0x43], Instr.jmpRm32 (.mem (.base32 .ebx (.d8 0x43#8)))),
    ([0xFF, 0x53, 0x44], Instr.callRm32 (.mem (.base32 .ebx (.d8 0x44#8)))),
    ([0x9A, 0x78, 0x56, 0x34, 0xF2, 0x23, 0x91], Instr.callPtr1632 0x9123#16 0xF2345678#32),
    ([0xEA, 0x78, 0x56, 0x34, 0xF2, 0x23, 0x91], Instr.jmpPtr1632 0x9123#16 0xF2345678#32),
    ([0xCB], Instr.retFar),
    ([0xCA, 0x34, 0x92], Instr.retFarImm16 0x9234#16),
    ([0xCC], Instr.int3),
    ([0xCD, 0x0B], Instr.intImm8 0x0B#8),
    ([0xCE], Instr.into),
    ([0xCF], Instr.iret),
    ([0x90], Instr.nop),
    ([0xEB, 0x64], Instr.jmpRel8 0x64#8),
    ([0xE9, 0x78, 0x56, 0x34, 0xF2], Instr.jmpRel32 0xF2345678#32),
    ([0x70, 0x66], Instr.joRel8 0x66#8),
    ([0x71, 0x67], Instr.jnoRel8 0x67#8),
    ([0x72, 0x68], Instr.jbRel8 0x68#8),
    ([0x73, 0x69], Instr.jaeRel8 0x69#8)
  ].all reads = true := by decide +kernel

theorem test_decode_control_2 : [
    ([0x74, 0x6A], Instr.jeRel8 0x6A#8),
    ([0x75, 0x6B], Instr.jneRel8 0x6B#8),
    ([0x76, 0x6C], Instr.jbeRel8 0x6C#8),
    ([0x77, 0x6D], Instr.jaRel8 0x6D#8),
    ([0x78, 0x6E], Instr.jsRel8 0x6E#8),
    ([0x79, 0x6F], Instr.jnsRel8 0x6F#8),
    ([0x7A, 0x70], Instr.jpRel8 0x70#8),
    ([0x7B, 0x71], Instr.jnpRel8 0x71#8),
    ([0x7C, 0x72], Instr.jlRel8 0x72#8),
    ([0x7D, 0x73], Instr.jgeRel8 0x73#8),
    ([0x7E, 0x74], Instr.jleRel8 0x74#8),
    ([0x7F, 0x75], Instr.jgRel8 0x75#8),
    ([0xE3, 0x76], Instr.jecxzRel8 0x76#8),
    ([0xE8, 0x78, 0x56, 0x34, 0xF2], Instr.callRel32 0xF2345678#32),
    ([0xC3], Instr.ret),
    ([0xC2, 0x34, 0x92], Instr.retImm16 0x9234#16)
  ].all reads = true := by decide +kernel

theorem test_decode_alu_group : [
    ([0x80, 0xC4, 0xD2], Instr.addRm8Imm8 (.reg .ah) 0xD2#8),
    ([0x81, 0x43, 0x22, 0x78, 0x56, 0x34, 0xF2], Instr.addRmImm (.mem (.base32 .ebx (.d8 0x22#8))) 0xF2345678#32),
    ([0x83, 0x43, 0x23, 0xD4], Instr.addRmImm8 (.mem (.base32 .ebx (.d8 0x23#8))) 0xD4#8),
    ([0x80, 0xCF, 0xD5], Instr.orRm8Imm8 (.reg .bh) 0xD5#8),
    ([0x81, 0x4B, 0x25, 0x78, 0x56, 0x34, 0xF2], Instr.orRmImm (.mem (.base32 .ebx (.d8 0x25#8))) 0xF2345678#32),
    ([0x83, 0x4B, 0x26, 0xD7], Instr.orRmImm8 (.mem (.base32 .ebx (.d8 0x26#8))) 0xD7#8),
    ([0x80, 0xD5, 0xD8], Instr.adcRm8Imm8 (.reg .ch) 0xD8#8),
    ([0x81, 0x53, 0x28, 0x78, 0x56, 0x34, 0xF2], Instr.adcRmImm (.mem (.base32 .ebx (.d8 0x28#8))) 0xF2345678#32),
    ([0x83, 0x53, 0x29, 0xDA], Instr.adcRmImm8 (.mem (.base32 .ebx (.d8 0x29#8))) 0xDA#8),
    ([0x80, 0xDB, 0xDB], Instr.sbbRm8Imm8 (.reg .bl) 0xDB#8),
    ([0x81, 0x5B, 0x2B, 0x78, 0x56, 0x34, 0xF2], Instr.sbbRmImm (.mem (.base32 .ebx (.d8 0x2B#8))) 0xF2345678#32),
    ([0x83, 0x5B, 0x2C, 0xDD], Instr.sbbRmImm8 (.mem (.base32 .ebx (.d8 0x2C#8))) 0xDD#8),
    ([0x80, 0xE6, 0xDE], Instr.andRm8Imm8 (.reg .dh) 0xDE#8),
    ([0x81, 0x63, 0x2E, 0x78, 0x56, 0x34, 0xF2], Instr.andRmImm (.mem (.base32 .ebx (.d8 0x2E#8))) 0xF2345678#32),
    ([0x83, 0x63, 0x2F, 0xE0], Instr.andRmImm8 (.mem (.base32 .ebx (.d8 0x2F#8))) 0xE0#8),
    ([0x80, 0xEC, 0xE1], Instr.subRm8Imm8 (.reg .ah) 0xE1#8),
    ([0x81, 0x6B, 0x31, 0x78, 0x56, 0x34, 0xF2], Instr.subRmImm (.mem (.base32 .ebx (.d8 0x31#8))) 0xF2345678#32),
    ([0x83, 0x6B, 0x32, 0xE3], Instr.subRmImm8 (.mem (.base32 .ebx (.d8 0x32#8))) 0xE3#8),
    ([0x80, 0xF7, 0xE4], Instr.xorRm8Imm8 (.reg .bh) 0xE4#8),
    ([0x81, 0x73, 0x34, 0x78, 0x56, 0x34, 0xF2], Instr.xorRmImm (.mem (.base32 .ebx (.d8 0x34#8))) 0xF2345678#32),
    ([0x83, 0x73, 0x35, 0xE6], Instr.xorRmImm8 (.mem (.base32 .ebx (.d8 0x35#8))) 0xE6#8),
    ([0x80, 0xFD, 0xE7], Instr.cmpRm8Imm8 (.reg .ch) 0xE7#8),
    ([0x81, 0x7B, 0x37, 0x78, 0x56, 0x34, 0xF2], Instr.cmpRmImm (.mem (.base32 .ebx (.d8 0x37#8))) 0xF2345678#32),
    ([0x83, 0x7B, 0x38, 0xE9], Instr.cmpRmImm8 (.mem (.base32 .ebx (.d8 0x38#8))) 0xE9#8),
    ([0xF6, 0xC3, 0xEA], Instr.testRm8Imm8 (.reg .bl) 0xEA#8),
    ([0xF7, 0x43, 0x3A, 0x78, 0x56, 0x34, 0xF2], Instr.testRmImm (.mem (.base32 .ebx (.d8 0x3A#8))) 0xF2345678#32)
  ].all reads = true := by decide +kernel

theorem test_decode_prefixes : [
    ([0xF0], Instr.lock),
    ([0xF2], Instr.repne),
    ([0xF3], Instr.rep),
    ([0x2E], Instr.segCs),
    ([0x36], Instr.segSs),
    ([0x3E], Instr.segDs),
    ([0x26], Instr.segEs),
    ([0x64], Instr.segFs),
    ([0x65], Instr.segGs),
    ([0x66], Instr.opsize),
    ([0x67], Instr.addrsize)
  ].all reads = true := by decide +kernel

theorem test_decode_alu_forms_1 : [
    ([0x00, 0x4B, 0x3F], Instr.addRm8R8 (.mem (.base32 .ebx (.d8 0x3F#8))) .cl),
    ([0x01, 0x53, 0x40], Instr.addRmR (.mem (.base32 .ebx (.d8 0x40#8))) .edx),
    ([0x02, 0xDD], Instr.addR8Rm8 .bl (.reg .ch)),
    ([0x03, 0x63, 0x42], Instr.addRRm .esp (.mem (.base32 .ebx (.d8 0x42#8)))),
    ([0x04, 0x34], Instr.addAlImm8 0x34#8),
    ([0x05, 0x78, 0x56, 0x34, 0xF2], Instr.addEaxImm 0xF2345678#32),
    ([0x08, 0x53, 0x45], Instr.orRm8R8 (.mem (.base32 .ebx (.d8 0x45#8))) .dl),
    ([0x09, 0x5B, 0x46], Instr.orRmR (.mem (.base32 .ebx (.d8 0x46#8))) .ebx),
    ([0x0A, 0xE6], Instr.orR8Rm8 .ah (.reg .dh)),
    ([0x0B, 0x6B, 0x48], Instr.orRRm .ebp (.mem (.base32 .ebx (.d8 0x48#8)))),
    ([0x0C, 0x3A], Instr.orAlImm8 0x3A#8),
    ([0x0D, 0x78, 0x56, 0x34, 0xF2], Instr.orEaxImm 0xF2345678#32),
    ([0x10, 0x5B, 0x4B], Instr.adcRm8R8 (.mem (.base32 .ebx (.d8 0x4B#8))) .bl),
    ([0x11, 0x63, 0x4C], Instr.adcRmR (.mem (.base32 .ebx (.d8 0x4C#8))) .esp),
    ([0x12, 0xEF], Instr.adcR8Rm8 .ch (.reg .bh)),
    ([0x13, 0x4B, 0x4E], Instr.adcRRm .ecx (.mem (.base32 .ebx (.d8 0x4E#8)))),
    ([0x14, 0x40], Instr.adcAlImm8 0x40#8),
    ([0x15, 0x78, 0x56, 0x34, 0xF2], Instr.adcEaxImm 0xF2345678#32),
    ([0x18, 0x63, 0x11], Instr.sbbRm8R8 (.mem (.base32 .ebx (.d8 0x11#8))) .ah),
    ([0x19, 0x6B, 0x12], Instr.sbbRmR (.mem (.base32 .ebx (.d8 0x12#8))) .ebp),
    ([0x1A, 0xCB], Instr.sbbR8Rm8 .cl (.reg .bl)),
    ([0x1B, 0x53, 0x14], Instr.sbbRRm .edx (.mem (.base32 .ebx (.d8 0x14#8)))),
    ([0x1C, 0x46], Instr.sbbAlImm8 0x46#8),
    ([0x1D, 0x78, 0x56, 0x34, 0xF2], Instr.sbbEaxImm 0xF2345678#32),
    ([0x20, 0x6B, 0x17], Instr.andRm8R8 (.mem (.base32 .ebx (.d8 0x17#8))) .ch),
    ([0x21, 0x4B, 0x18], Instr.andRmR (.mem (.base32 .ebx (.d8 0x18#8))) .ecx),
    ([0x22, 0xD4], Instr.andR8Rm8 .dl (.reg .ah)),
    ([0x23, 0x5B, 0x1A], Instr.andRRm .ebx (.mem (.base32 .ebx (.d8 0x1A#8)))),
    ([0x24, 0x4C], Instr.andAlImm8 0x4C#8),
    ([0x25, 0x78, 0x56, 0x34, 0xF2], Instr.andEaxImm 0xF2345678#32),
    ([0x28, 0x4B, 0x1D], Instr.subRm8R8 (.mem (.base32 .ebx (.d8 0x1D#8))) .cl),
    ([0x29, 0x53, 0x1E], Instr.subRmR (.mem (.base32 .ebx (.d8 0x1E#8))) .edx),
    ([0x2A, 0xDD], Instr.subR8Rm8 .bl (.reg .ch)),
    ([0x2B, 0x63, 0x20], Instr.subRRm .esp (.mem (.base32 .ebx (.d8 0x20#8)))),
    ([0x2C, 0x52], Instr.subAlImm8 0x52#8),
    ([0x2D, 0x78, 0x56, 0x34, 0xF2], Instr.subEaxImm 0xF2345678#32)
  ].all reads = true := by decide +kernel

theorem test_decode_alu_forms_2 : [
    ([0x30, 0x53, 0x23], Instr.xorRm8R8 (.mem (.base32 .ebx (.d8 0x23#8))) .dl),
    ([0x31, 0x5B, 0x24], Instr.xorRmR (.mem (.base32 .ebx (.d8 0x24#8))) .ebx),
    ([0x32, 0xE6], Instr.xorR8Rm8 .ah (.reg .dh)),
    ([0x33, 0x6B, 0x26], Instr.xorRRm .ebp (.mem (.base32 .ebx (.d8 0x26#8)))),
    ([0x34, 0x58], Instr.xorAlImm8 0x58#8),
    ([0x35, 0x78, 0x56, 0x34, 0xF2], Instr.xorEaxImm 0xF2345678#32),
    ([0x38, 0x5B, 0x29], Instr.cmpRm8R8 (.mem (.base32 .ebx (.d8 0x29#8))) .bl),
    ([0x39, 0x63, 0x2A], Instr.cmpRmR (.mem (.base32 .ebx (.d8 0x2A#8))) .esp),
    ([0x3A, 0xEF], Instr.cmpR8Rm8 .ch (.reg .bh)),
    ([0x3B, 0x4B, 0x2C], Instr.cmpRRm .ecx (.mem (.base32 .ebx (.d8 0x2C#8)))),
    ([0x3C, 0x5E], Instr.cmpAlImm8 0x5E#8),
    ([0x3D, 0x78, 0x56, 0x34, 0xF2], Instr.cmpEaxImm 0xF2345678#32),
    ([0x84, 0x63, 0x2F], Instr.testRm8R8 (.mem (.base32 .ebx (.d8 0x2F#8))) .ah),
    ([0x85, 0x6B, 0x30], Instr.testRmR (.mem (.base32 .ebx (.d8 0x30#8))) .ebp),
    ([0xA8, 0x62], Instr.testAlImm8 0x62#8),
    ([0xA9, 0x78, 0x56, 0x34, 0xF2], Instr.testEaxImm 0xF2345678#32)
  ].all reads = true := by decide +kernel


/-- F3 90 is PAUSE, 90 alone NOP (R216). -/
theorem test_decode_pause : decodeInsn true (bytes [0xF3, 0x90]) = .items [.rep, .pause] 2 := by decide

/-- The vectors V5 of spec/95_test_vectors.md. -/
theorem test_decode_vectors : [
    ([0x8B, 0x06], Instr.movRRm .eax (.mem (.base32 .esi .none))),
    ([0x8B, 0x44, 0x8B, 0x10], Instr.movRRm .eax (.mem (.sib .ebx (some ⟨.ecx, .x4⟩) (.d8 0x10#8)))),
    ([0x8B, 0x05, 0x78, 0x56, 0x34, 0x12], Instr.movRRm .eax (.mem (.abs32 0x12345678#32))),
    ([0x8B, 0x04, 0x25, 0x78, 0x56, 0x34, 0x12], Instr.movRRm .eax (.mem (.sibAbs none 0x12345678#32))),
    ([0x8B, 0x45, 0x00], Instr.movRRm .eax (.mem (.base32 .ebp (.d8 0#8)))),
    ([0x8B, 0x04, 0x24], Instr.movRRm .eax (.mem (.sib .esp none .none))),
    ([0x83, 0xC0, 0xFF], Instr.addRmImm8 (.reg .eax) 0xFF#8),
    ([0x0F, 0x01, 0x1D, 0x00, 0x30, 0x00, 0x00], Instr.lidt (.abs32 0x3000#32)),
    ([0x0F, 0xAE, 0x38], Instr.clflush (.base32 .eax .none)),
    ([0xEA, 0, 0, 0, 0, 0x30, 0], Instr.jmpPtr1632 0x30#16 0#32),
    ([0x9A, 0, 0x20, 1, 0, 8, 0], Instr.callPtr1632 8#16 0x12000#32)
  ].all reads = true := by decide +kernel
theorem test_decode_opsize_shortens_immediate :
    decodeInsn true (bytes [0x66, 0xB8, 0x34, 0x12]) = .items [.opsize, .movRImm .eax 0x1234#32] 4 := by decide
theorem test_decode_lidt_register_is_invalid : decode ctx32 (bytes [0x0F, 0x01, 0xD8]) = .invalid := by decide
theorem test_decode_cr1_is_invalid : decode ctx32 (bytes [0x0F, 0x20, 0xC8]) = .invalid := by decide
theorem test_decode_16bit_addressing :
    decode ctx16 (bytes [0x8B, 0x47, 0x05]) = .instr (.movRRm .eax (.mem (.base16 .bx (.d8 5#8)))) [] := by decide
theorem test_decode_table_word :
    decodeTableWord 24 0xC8010F = some .monitor ∧ decodeTableWord 8 0xC8 = none := by decide

/-- Prefix rows and PAUSE (R201, R634): F3 alone is REP, F3 90 is PAUSE, 90 is NOP. -/
theorem test_table_pause :
    decodeTableWord 8 0xF3 = some .rep ∧ decodeTableWord 16 0x90F3 = some .pause ∧ decodeTableWord 8 0x90 = some .nop := by
  decide


/-! ## Single steps -/

/-- A flat segment register of the standard start state S0 of spec/95_test_vectors.md. -/
def seg (sel : Half) (typ : BitVec 4) (dpl : BitVec 2) : SegReg :=
  ⟨sel, 0#32, 0xFFFFFFFF#32, ⟨typ, true, dpl, true, false, true, true⟩⟩
/-- A segment register without a segment. -/
def noSeg : SegReg := ⟨0#16, 0#32, 0#32, ⟨0#4, false, 0#2, false, false, false, false⟩⟩
/-- The TSS of S0's extension in V8, at 6000H. -/
def tss : SegReg := ⟨0x28#16, 0x6000#32, 0x67#32, ⟨11#4, false, 0#2, true, false, false, false⟩⟩

/-- The 32-bit words of a list in memory order. -/
def words (ws : List Nat) : List Byte := ws.flatMap (leBytes 4)

/-- Bytes stored in memory. -/
def put (a : Nat) (bs : List Byte) (s : State) : State := { s with mem := s.mem.writes (pairFrom a bs) }

/-- The descriptors of V7, an LDT, and data segments: not accessed, read-only DPL 3, not present. -/
def gdt : List Byte := words
  [0, 0, 0x0000FFFF, 0x00CF9B00, 0x0000FFFF, 0x00CF9300, 0x0000FFFF, 0x00CFFB00, 0x0000FFFF, 0x00CFF300,
   0x60000067, 0x00008900, 0x00082000, 0x0001EC03, 0x0000FFFF, 0x00CF9E00, 0x00080300, 0x00018E00,
   0x7000000F, 0x00008200, 0x0000FFFF, 0x00CF9200, 0x0000FFFF, 0x0040F040, 0x5678BCDE, 0x121A1234,
   0x00082000, 0x0001EC00]

/-- Interrupt gates of DPL 0 for the vectors 3 to 6, 8, 12, 13, at 80000H and every 16 bytes on; vectors 3 and 4 have
DPL 3. -/
def idt : List Byte := words ((List.range 15).flatMap fun v =>
  if v ∈ [3, 4, 5, 6, 8, 12, 13] then [0x80000 + 16 * v, if v = 3 ∨ v = 4 then 0x8EE00 else 0x88E00] else [0, 0])

/-- The registers of S0: protected mode, flat segments, CPL 0, paging off. -/
def bare : State :=
  { State.reset with
    gpr := ⟨0#32, 0#32, 0#32, 0#32, 0x8000#32, 0#32, 0#32, 0#32⟩
    eip := 0x10000#32
    segs := ⟨seg 16#16 3#4 0#2, seg 8#16 11#4 0#2, seg 16#16 3#4 0#2, seg 16#16 3#4 0#2, noSeg, noSeg⟩
    sys := { State.reset.sys with
      cr0 := 0x11#32, gdtr := ⟨0x1000#32, 0x6F#16⟩, idtr := ⟨0x2000#32, 0x77#16⟩, ldtr := noSeg, tr := tss } }

/-- The cells of bytes that are not what an unlisted address reads as. -/
def cells (a : Nat) (bs : List Byte) : Memory := (pairFrom a bs).filter fun c => c.2 != 0#8

/-- S0 with the tables of V7 and V8 in memory. -/
def flat0 : State :=
  { bare with mem := cells 0x1000 gdt ++ cells 0x2000 idt ++ cells 0x6004 (words [0x9000, 0x10]) ++ [(0x6066, 0x68#8)] }

/-- The same at CPL 3 with the user stack of V8.4, IF = 1. -/
def flat3 : State :=
  { flat0 with
    segs := ⟨seg 0x23#16 3#4 3#2, seg 0x1B#16 11#4 3#2, seg 0x23#16 3#4 3#2, seg 0x23#16 3#4 3#2, noSeg, noSeg⟩
    gpr := { flat0.gpr with esp := 0x400FF4#32 }
    eip := 0x401000#32
    eflags := { flat0.eflags with intf := true } }

/-- Registers changed. -/
def withGpr (f : Gprs → Gprs) (s : State) : State := { s with gpr := f s.gpr }

/-- The state reached in one step from a state with an instruction at its instruction pointer. -/
def run (s : State) (bs : List Nat) : Option State :=
  match step (put s.eip.toNat (bytes bs) s) with
  | .next t => some t
  | _ => none

/-- One step succeeds, and the state after it passes a check. -/
def ran (s : State) (bs : List Nat) (ok : State → Bool) : Bool := (run s bs).any ok

/-- The step ends at the handler of a vector, with an error code pushed (or none), on a frame that saves the start. -/
def traps (s : State) (bs : List Nat) (v : Nat) (code : List Nat) : Bool :=
  ran s bs fun t =>
    t.eip == BitVec.ofNat 32 (0x80000 + 16 * v) && t.segs.cs.sel == 8#16 && !t.eflags.intf &&
      (List.range (code.length + 1)).all fun k =>
        t.physRead (t.gpr.esp.toNat + 4 * k) 4 == (code ++ [s.eip.toNat]).getD k 0

/-- The step is refused. -/
def refuses (s : State) (bs : List Nat) (r : Refusal) : Bool :=
  match step (put s.eip.toNat (bytes bs) s) with
  | .refused q => q == r
  | _ => false

/-- EAX and EFLAGS after `op EAX, ECX` with an opcode of the form r/m, r (V14). -/
def alu (op : Nat) (a b : Word) (cf : Bool) : Option (Word × Word) :=
  (run { withGpr (fun g => { g with eax := a, ecx := b }) bare with eflags := { bare.eflags with cf := cf } }
    [op, 0xC8]).map fun t => (t.gpr.eax, t.eflags.toWord)

/-- The same for a bitwise operation, whose AF is free: shown as 0. -/
def logic (op : Nat) (a b : Word) : Option (Word × Word) :=
  (run (withGpr (fun g => { g with eax := a, ecx := b }) bare) [op, 0xC8]).map fun t =>
    (t.gpr.eax, Eflags.toWord { t.eflags with af := false })

/-- V14.1 -/
theorem test_add : alu 0x01 0x7FFFFFFF#32 1#32 false = some (0x80000000#32, 0x896#32) ∧
    alu 0x01 0x80000000#32 0x80000000#32 false = some (0#32, 0x847#32) := by decide +kernel
theorem test_adc : alu 0x11 0xFFFFFFFF#32 0#32 true = some (0#32, 0x57#32) ∧
    alu 0x11 0x7FFFFFFF#32 0x7FFFFFFF#32 true = some (0xFFFFFFFF#32, 0x896#32) := by decide +kernel
theorem test_sub : alu 0x29 0#32 1#32 false = some (0xFFFFFFFF#32, 0x97#32) ∧
    alu 0x29 0x80000000#32 1#32 false = some (0x7FFFFFFF#32, 0x816#32) := by decide +kernel
theorem test_sbb : alu 0x19 0#32 0#32 true = some (0xFFFFFFFF#32, 0x97#32) ∧
    alu 0x19 0x80000000#32 0x7FFFFFFF#32 true = some (0#32, 0x856#32) := by decide +kernel
theorem test_cmp : alu 0x39 3#32 5#32 false = some (3#32, 0x93#32) ∧
    alu 0x39 0x80000000#32 0x7FFFFFFF#32 false = some (0x80000000#32, 0x812#32) := by decide +kernel
/-- V14.1, narrow operands -/
theorem test_add_byte : ran (withGpr (fun g => { g with eax := 0x1234567F#32 }) bare) [0x04, 1] (fun t =>
    t.gpr.eax == 0x12345680#32 && t.eflags.toWord == 0x892#32) = true := by decide +kernel
theorem test_add_half : ran (withGpr (fun g => { g with eax := 0x1234FFFF#32 }) bare) [0x66, 0x83, 0xC0, 1] (fun t =>
    t.gpr.eax == 0x12340000#32 && t.eflags.toWord == 0x57#32) = true := by decide +kernel
/-- V14.2 -/
theorem test_and : logic 0x21 0xFF00FF00#32 0x0FF00FF0#32 = some (0x0F000F00#32, 6#32) := by decide +kernel
theorem test_or : logic 0x09 0x11#32 0x80000000#32 = some (0x80000011#32, 0x86#32) := by decide +kernel
theorem test_xor : logic 0x31 0x80000000#32 1#32 = some (0x80000001#32, 0x82#32) := by decide +kernel
theorem test_test : logic 0x85 0xF0#32 0xF#32 = some (0xF0#32, 0x46#32) := by decide +kernel
/-- V14.3 -/
theorem test_inc : ran { withGpr (fun g => { g with eax := 0xFFFFFFFF#32 }) bare with
    eflags := { bare.eflags with cf := true } } [0x40] (fun t =>
    t.gpr.eax == 0#32 && t.eflags.toWord == 0x57#32) = true := by decide +kernel
theorem test_dec : ran (withGpr (fun g => { g with ecx := 0x80000000#32 }) bare) [0xFF, 0xC9] (fun t =>
    t.gpr.ecx == 0x7FFFFFFF#32 && t.eflags.toWord == 0x816#32) = true := by decide +kernel
theorem test_neg : ran (withGpr (fun g => { g with eax := 0x80000000#32 }) bare) [0xF7, 0xD8] (fun t =>
    t.gpr.eax == 0x80000000#32 && t.eflags.toWord == 0x887#32) = true := by decide +kernel
theorem test_not : ran (withGpr (fun g => { g with eax := 0x0F0F0F0F#32 }) bare) [0xF7, 0xD0] (fun t =>
    t.gpr.eax == 0xF0F0F0F0#32 && t.eflags.toWord == 2#32) = true := by decide +kernel
/-- V14.4 -/
theorem test_xadd : ran (put 0x3000 (words [0xFFFFFFFF])
    (withGpr (fun g => { g with ecx := 2#32, esi := 0x3000#32 }) bare)) [0x0F, 0xC1, 0x0E] (fun t =>
    t.physRead 0x3000 4 == 1 && t.gpr.ecx == 0xFFFFFFFF#32 && t.eflags.toWord == 0x13#32) = true := by decide +kernel
theorem test_cmpxchg_equal : ran (put 0x3000 (words [5])
    (withGpr (fun g => { g with eax := 5#32, ecx := 9#32, esi := 0x3000#32 }) bare)) [0x0F, 0xB1, 0x0E] (fun t =>
    t.physRead 0x3000 4 == 9 && t.gpr.eax == 5#32 && t.eflags.toWord == 0x46#32) = true := by decide +kernel
theorem test_cmpxchg_other : ran (put 0x3000 (words [7])
    (withGpr (fun g => { g with eax := 5#32, ecx := 9#32, esi := 0x3000#32 }) bare)) [0x0F, 0xB1, 0x0E] (fun t =>
    t.physRead 0x3000 4 == 7 && t.gpr.eax == 7#32 && t.eflags.toWord == 0x93#32) = true := by decide +kernel
theorem test_cmpxchg8b : ran (put 0x3000 (words [2, 1]) (withGpr (fun g => { g with
      eax := 2#32, edx := 1#32, ecx := 0xAAAAAAAA#32, ebx := 0xBBBBBBBB#32, esi := 0x3000#32 }) bare))
    [0x0F, 0xC7, 0x0E] (fun t =>
    t.physRead 0x3000 8 == 0xAAAAAAAABBBBBBBB && t.eflags.toWord == 0x42#32) = true := by decide +kernel
theorem test_bt_negative_offset : ran (put 0x2FFC (words [0x80000000]) (withGpr (fun g => { g with
    eax := 0xFFFFFFFF#32 }) bare)) [0x0F, 0xA3, 0x05, 0, 0x30, 0, 0] (fun t => t.eflags.cf) = true := by decide +kernel
theorem test_bts : ran bare [0x0F, 0xBA, 0xE8, 33] (fun t => t.gpr.eax == 2#32 && !t.eflags.cf) = true := by
  decide +kernel
theorem test_btr : ran (withGpr (fun g => { g with eax := 1#32 }) bare) [0x0F, 0xBA, 0xF0, 0] (fun t =>
    t.gpr.eax == 0#32 && t.eflags.cf) = true := by decide +kernel
theorem test_btc : ran bare [0x0F, 0xBA, 0xF8, 31] (fun t => t.gpr.eax == 0x80000000#32 && !t.eflags.cf) = true := by
  decide +kernel
/-- V1, V2, V14.5 -/
theorem test_mov_high_byte : ran (withGpr (fun g => { g with eax := 0x12345678#32 }) bare) [0xB4, 0] (fun t =>
    t.gpr.eax == 0x12340078#32) = true := by decide +kernel
theorem test_mov_unaligned : ran (put 0x20000 (bytes [0, 0x11, 0x22, 0x33, 0x44, 0x55]) bare)
    [0xA1, 1, 0, 2, 0] (fun t => t.gpr.eax == 0x44332211#32) = true := by decide +kernel
theorem test_mov_store_order : ran bare [0xC7, 0x05, 0, 0, 2, 0, 0x78, 0x56, 0x34, 0x12] (fun t =>
    t.physByte 0x20000 == 0x78#8 && t.physByte 0x20003 == 0x12#8) = true := by decide +kernel
theorem test_push_esp : ran bare [0x54] (fun t => t.physRead 0x7FFC 4 == 0x8000 && t.gpr.esp == 0x7FFC#32) = true := by
  decide +kernel
theorem test_push_wraps : traps (withGpr (fun g => { g with esp := 0x8000#32 }) flat0)
    [0x36, 0xA1, 0xFE, 0xFF, 0xFF, 0xFF] 12 [0] = true := by decide +kernel
theorem test_pop_esp : ran (put 0x8000 (words [0x9000]) bare) [0x5C] (fun t => t.gpr.esp == 0x9000#32) = true := by
  decide +kernel
theorem test_push_imm8 : ran bare [0x6A, 0xFF] (fun t => t.physRead 0x7FFC 4 == 0xFFFFFFFF) = true := by decide +kernel
theorem test_lea : ran (withGpr (fun g => { g with ebx := 0x1000#32, ecx := 3#32 }) bare) [0x8D, 0x44, 0x8B, 0x10]
    (fun t => t.gpr.eax == 0x101C#32) = true := by decide +kernel
theorem test_lea_register_traps : traps flat0 [0x8D, 0xC0] 6 [] = true := by decide +kernel
theorem test_xchg_eax_ecx : ran (withGpr (fun g => { g with eax := 1#32, ecx := 2#32 }) bare) [0x91] (fun t =>
    t.gpr.eax == 2#32 && t.gpr.ecx == 1#32) = true := by decide +kernel
theorem test_popf : ran (put 0x8000 (words [0xFFFFFEFF]) bare) [0x9D] (fun t => t.eflags.toWord == 0x247ED7#32) = true := by
  decide +kernel
theorem test_popf_user : ran { put 0x400FF4 (words [0xFFFFFEFF]) flat3 with eflags := bare.eflags } [0x9D] (fun t =>
    t.eflags.toWord == 0x244CD7#32) = true := by decide +kernel
theorem test_pushf_hides_rf : ran { bare with eflags := Eflags.ofWord 0x10202#32 } [0x9C] (fun t =>
    t.physRead 0x7FFC 4 == 0x202) = true := by decide +kernel
theorem test_out : ran (withGpr (fun g => { g with eax := 0x1234#32 }) bare) [0xE6, 0x80] (fun t =>
    t.bus == [.ioWrite 0x80 1 0x34#32]) = true := by decide +kernel
theorem test_in_needs_permission : traps flat3 [0xE4, 0x80] 13 [0] = true := by decide +kernel
/-- V14.6 -/
theorem test_jcc_unsigned_above : ran { bare with eflags := Eflags.ofWord 0x812#32 } [0x77, 0x10] (fun t =>
    t.eip == 0x10012#32) = true := by decide +kernel
theorem test_jcc_signed_less : ran { bare with eflags := Eflags.ofWord 0x812#32 } [0x7F, 0x10] (fun t =>
    t.eip == 0x10002#32) = true := by decide +kernel
theorem test_jmp_back : ran bare [0xEB, 0xFE] (fun t => t.eip == 0x10000#32) = true := by decide +kernel
theorem test_jecxz : ran bare [0xE3, 0x10] (fun t => t.eip == 0x10012#32) = true := by decide +kernel
theorem test_call : ran bare [0xE8, 0x0B, 0, 0, 0] (fun t =>
    t.eip == 0x10010#32 && t.gpr.esp == 0x7FFC#32 && t.physRead 0x7FFC 4 == 0x10005) = true := by decide +kernel
theorem test_ret : ran (put 0x8000 (words [0x10005]) bare) [0xC2, 8, 0] (fun t =>
    t.eip == 0x10005#32 && t.gpr.esp == 0x800C#32) = true := by decide +kernel
/-- V3 -/
theorem test_mov_ds : ran (withGpr (fun g => { g with eax := 0x23#32 }) flat3) [0x8E, 0xD8] (fun t =>
    t.segs.ds == seg 0x23#16 3#4 3#2) = true := by decide +kernel
theorem test_mov_ds_privilege : traps (withGpr (fun g => { g with eax := 0x10#32 }) flat3) [0x8E, 0xD8] 13 [0x10] = true := by
  decide +kernel
theorem test_mov_ss_null : traps flat0 [0x8E, 0xD0] 13 [0] = true := by decide +kernel
theorem test_mov_ss_not_present : traps (withGpr (fun g => { g with eax := 0x60#32 }) flat0) [0x8E, 0xD0] 12 [0x60] = true := by
  decide +kernel
theorem test_mov_ds_accessed : ran (withGpr (fun g => { g with eax := 0x50#32 }) flat0) [0x8E, 0xD8] (fun t =>
    t.physByte 0x1055 == 0x93#8) = true := by decide +kernel
theorem test_null_segment_access : traps flat0 [0x64, 0xA1, 0, 0, 0, 0] 13 [0] = true := by decide +kernel
/-- V6 -/
theorem test_sgdt : ran flat0 [0x0F, 0x01, 0x05, 0, 0, 2, 0] (fun t => t.physRead 0x20000 6 == 0x1000006F) = true := by
  decide +kernel
theorem test_lgdt : ran (put 0x3000 (bytes [0x2F, 0, 0, 0x10]) bare) [0x0F, 0x01, 0x15, 0, 0x30, 0, 0] (fun t =>
    t.sys.gdtr == ⟨0x1000#32, 0x2F#16⟩ && t.segs == bare.segs) = true := by decide +kernel
theorem test_lldt : ran (withGpr (fun g => { g with eax := 0x48#32 }) flat0) [0x0F, 0x00, 0xD0] (fun t =>
    t.sys.ldtr.sel == 0x48#16 && t.sys.ldtr.base == 0x7000#32 && t.sys.ldtr.limit == 0xF#32) = true := by decide +kernel
theorem test_lldt_code : traps (withGpr (fun g => { g with eax := 8#32 }) flat0) [0x0F, 0x00, 0xD0] 13 [8] = true := by
  decide +kernel
theorem test_ltr : ran (withGpr (fun g => { g with eax := 0x28#32 }) flat0) [0x0F, 0x00, 0xD8] (fun t =>
    t.sys.tr == tss && t.physByte 0x102D == 0x8B#8) = true := by decide +kernel
theorem test_mov_cr0 : ran flat0 [0x0F, 0x20, 0xC0] (fun t => t.gpr.eax == 0x11#32) = true := by decide +kernel
theorem test_mov_cr0_pg_without_pe : traps (withGpr (fun g => { g with eax := 0x80000000#32 }) flat0)
    [0x0F, 0x22, 0xC0] 13 [0] = true := by decide +kernel
theorem test_mov_cr4_reserved : traps (withGpr (fun g => { g with eax := 0x80000000#32 }) flat0)
    [0x0F, 0x22, 0xE0] 13 [0] = true := by decide +kernel
theorem test_lmsw_keeps_pe : ran bare [0x0F, 0x01, 0xF0] (fun t => t.sys.cr0 == 0x11#32) = true := by decide +kernel
theorem test_lmsw_sets : ran (withGpr (fun g => { g with eax := 0xF#32 }) bare) [0x0F, 0x01, 0xF0] (fun t =>
    t.sys.cr0 == 0x1F#32) = true := by decide +kernel
theorem test_clts : ran { bare with sys := { bare.sys with cr0 := 0x19#32 } } [0x0F, 0x06] (fun t =>
    t.sys.cr0 == 0x11#32) = true := by decide +kernel
theorem test_rdmsr : ran (withGpr (fun g => { g with ecx := 0x1B#32 }) bare) [0x0F, 0x32] (fun t =>
    t.gpr.eax == 0xFEE00900#32 && t.gpr.edx == 0#32) = true := by decide +kernel
theorem test_rdmsr_unknown : traps (withGpr (fun g => { g with ecx := 0x179#32 }) flat0) [0x0F, 0x32] 13 [0] = true := by
  decide +kernel
theorem test_wrmsr : ran (withGpr (fun g => { g with eax := 0x9000#32, ecx := 0x175#32 }) bare) [0x0F, 0x30] (fun t =>
    t.msr.sysenterEsp == 0x9000#64) = true := by decide +kernel
theorem test_cpuid : ran bare [0x0F, 0xA2] (fun t =>
    t.gpr.eax == 5#32 && t.gpr.ebx == 0x756E6547#32 && t.gpr.edx == 0x49656E69#32 && t.gpr.ecx == 0x6C65746E#32) = true := by
  decide +kernel
/-- D13, V13.4: bit 28 is HAS_HTT, whatever the number of logical processors; bit 9 is 0 with the APIC off (R483, R488). -/
theorem test_cpuid_features (s : State) :
    bit (featuresEdx s) 28 = s.cfg.hasHtt ∧ bit (featuresEdx s) 9 = s.apicOn := by
  have one (b : Bool) (w : Word) (i : Nat) : (if b = true then w else 0#32).getLsbD i = (b && w.getLsbD i) := by
    cases b <;> simp
  simp only [featuresEdx, bit, BitVec.getLsbD_or, BitVec.getLsbD_and, one]
  simp
theorem test_mov_dr7 : ran bare [0x0F, 0x21, 0xF8] (fun t => t.gpr.eax == 0x400#32) = true := by decide +kernel
/-- V7 -/
theorem test_lar : ran (withGpr (fun g => { g with ecx := 0x33#32 }) flat3) [0x66, 0x0F, 0x02, 0xC1] (fun t =>
    t.gpr.eax == 0xEC00#32 && t.eflags.zf) = true := by decide +kernel
theorem test_lar_interrupt_gate : ran (withGpr (fun g => { g with eax := 7#32, ecx := 0x40#32 }) flat0) [0x0F, 0x02, 0xC1]
    (fun t => t.gpr.eax == 7#32 && !t.eflags.zf) = true := by decide +kernel
theorem test_lsl : ran (withGpr (fun g => { g with ecx := 8#32 }) flat0) [0x0F, 0x03, 0xC1] (fun t =>
    t.gpr.eax == 0xFFFFFFFF#32 && t.eflags.zf) = true := by decide +kernel
theorem test_verr : ran (withGpr (fun g => { g with ecx := 0x3B#32 }) flat3) [0x0F, 0x00, 0xE1] (fun t => t.eflags.zf) = true := by
  decide +kernel
theorem test_verw_code : ran (withGpr (fun g => { g with ecx := 8#32 }) { flat0 with eflags := Eflags.ofWord 0x42#32 })
    [0x0F, 0x00, 0xE9] (fun t => !t.eflags.zf) = true := by decide +kernel
theorem test_arpl : ran (withGpr (fun g => { g with ecx := 8#32, edx := 0x1B#32 }) bare) [0x63, 0xD1] (fun t =>
    t.gpr.ecx == 0xB#32 && t.eflags.zf) = true := by decide +kernel
/-- V8 -/
theorem test_far_jmp : ran flat0 [0xEA, 0, 0x20, 1, 0, 8, 0] (fun t =>
    t.eip == 0x12000#32 && t.segs.cs == seg 8#16 11#4 0#2 && t.gpr.esp == 0x8000#32) = true := by decide +kernel
theorem test_far_jmp_conforming : ran flat3 [0xEA, 0, 0, 0, 0, 0x3B, 0] (fun t =>
    t.segs.cs.sel == 0x3B#16 && t.cpl == 3) = true := by decide +kernel
theorem test_far_call : ran flat0 [0x9A, 0, 0x20, 1, 0, 8, 0] (fun t =>
    t.eip == 0x12000#32 && t.gpr.esp == 0x7FF8#32 && t.physRead 0x7FF8 4 == 0x10007 && t.physRead 0x7FFC 4 == 8) = true := by
  decide +kernel
theorem test_call_gate : ran (put 0x400FF4 (words [0xCCCCCCCC, 0xBBBBBBBB, 0xAAAAAAAA]) flat3)
    [0x9A, 0, 0, 0, 0, 0x33, 0] (fun t =>
    t.eip == 0x12000#32 && t.segs.cs.sel == 8#16 && t.segs.ss.sel == 0x10#16 && t.gpr.esp == 0x8FE4#32 &&
    (List.range 7).map (fun k => t.physRead (0x8FE4 + 4 * k) 4) ==
      [0x401007, 0x1B, 0xCCCCCCCC, 0xBBBBBBBB, 0xAAAAAAAA, 0x400FF4, 0x23]) = true := by decide +kernel
theorem test_far_ret_outer : ran (put 0x8000 (words [0x401007, 0x1B, 1, 2, 3, 0x400FF4, 0x23]) flat0)
    [0xCA, 12, 0] (fun t =>
    t.eip == 0x401007#32 && t.segs.cs.sel == 0x1B#16 && t.segs.ss.sel == 0x23#16 && t.gpr.esp == 0x401000#32 &&
    t.cpl == 3 && t.segs.ds.sel == 0#16 && t.segs.es.sel == 0#16) = true := by decide +kernel
theorem test_far_ret_inward : traps (put 0x400FF4 (words [0x12000, 8]) flat3) [0xCB] 13 [8] = true := by decide +kernel
theorem test_sysenter : ran { flat3 with msr := { flat3.msr with
      sysenterCs := 8#64, sysenterEsp := 0x9000#64, sysenterEip := 0x12000#64 } } [0x0F, 0x34] (fun t =>
    t.eip == 0x12000#32 && t.gpr.esp == 0x9000#32 && t.segs.cs.sel == 8#16 && t.segs.ss.sel == 0x10#16 && t.cpl == 0 &&
    t.eflags.toWord == 2#32) = true := by decide +kernel
theorem test_sysexit : ran (withGpr (fun g => { g with edx := 0x401000#32, ecx := 0x400FF0#32 })
      { bare with msr := { bare.msr with sysenterCs := 8#64 } }) [0x0F, 0x35] (fun t =>
    t.eip == 0x401000#32 && t.gpr.esp == 0x400FF0#32 && t.segs.cs.sel == 0x1B#16 && t.segs.ss.sel == 0x23#16 &&
    t.cpl == 3) = true := by decide +kernel
theorem test_cli_user : traps flat3 [0xFA] 13 [0] = true := by decide +kernel
theorem test_sti : ran bare [0xFB] (fun t => t.eflags.intf && t.act.shadow == .sti) = true := by decide +kernel
theorem test_bound_in : ran (put 0x20004 (words [4]) (withGpr (fun g => { g with eax := 4#32 }) bare))
    [0x62, 0x05, 0, 0, 2, 0] (fun t => t.eip == 0x10006#32) = true := by decide +kernel
theorem test_bound_out : traps (put 0x20004 (words [4]) (withGpr (fun g => { g with eax := 0xFFFFFFFF#32 }) flat0))
    [0x62, 0x05, 0, 0, 2, 0] 5 [] = true := by decide +kernel
theorem test_into : ran { flat0 with eflags := { flat0.eflags with ovf := true } } [0xCE] (fun t =>
    t.eip == 0x80040#32 && t.physRead t.gpr.esp.toNat 4 == 0x10001) = true := by decide +kernel
theorem test_iret : ran (put 0x7FF4 (words [0x10008, 8, 0x202]) (withGpr (fun g => { g with esp := 0x7FF4#32 }) flat0))
    [0xCF] (fun t => t.eip == 0x10008#32 && t.eflags.toWord == 0x202#32 && t.gpr.esp == 0x8000#32) = true := by
  decide +kernel
/-- V9.1, a task switch by JMP -/
def taskState : State :=
  put 0x1028 (words [0x60000067, 0x8B00, 0x61000067, 0x8900])
    (put 0x6100 (words [0, 0, 0, 0, 0, 0, 0, 0, 0x13000, 2, 0x11111111, 0, 0, 0, 0xA000, 0, 0, 0, 0x10, 8, 0x10, 0x10])
      (withGpr (fun g => { g with eax := 0xDDDDDDDD#32 }) flat0))
theorem test_task_jmp : ran taskState [0xEA, 0, 0, 0, 0, 0x30, 0] (fun t =>
    t.eip == 0x13000#32 && t.gpr.eax == 0x11111111#32 && t.gpr.esp == 0xA000#32 && t.sys.tr.sel == 0x30#16 &&
    t.sys.cr0 == 0x19#32 && t.physRead 0x6020 4 == 0x10007 && t.physRead 0x6028 4 == 0xDDDDDDDD &&
    t.physByte 0x102D == 0x89#8 && t.physByte 0x1035 == 0x8B#8) = true := by decide +kernel
theorem test_task_call : ran taskState [0x9A, 0, 0, 0, 0, 0x30, 0] (fun t =>
    t.physRead 0x6100 2 == 0x28 && t.eflags.toWord == 0x4002#32 && t.physByte 0x102D == 0x8B#8) = true := by decide +kernel
/-- V10.4, V10.5, V10.1 -/
theorem test_int_inner : ran (withGpr (fun g => { g with esp := 0x400FF0#32 }) flat3) [0xCD, 3] (fun t =>
    t.gpr.esp == 0x8FEC#32 && t.segs.ss.sel == 0x10#16 && t.cpl == 0 && t.eflags.toWord == 2#32 &&
    (List.range 5).map (fun k => t.physRead (0x8FEC + 4 * k) 4) == [0x401002, 0x1B, 0x202, 0x400FF0, 0x23]) = true := by
  decide +kernel
theorem test_int3 : ran flat0 [0xCC] (fun t => t.eip == 0x80030#32 && t.physRead t.gpr.esp.toNat 4 == 0x10001) = true := by
  decide +kernel
theorem test_int_gate_privilege : traps flat3 [0xCD, 5] 13 [0x2A] = true := by decide +kernel
theorem test_shutdown : ran { bare with sys := { bare.sys with idtr := ⟨0#32, 0#16⟩ } } [0x0F, 0x0B] (fun t =>
    t.act.shutdown) = true := by decide +kernel
/-- V4 -/
def paged : State :=
  put 0x400C (words [0x5007]) (put 0x500C (words [0x9A005, 0x9B005])
    (put 0x4000 (words [0x7003]) (put 0x7040 (words [0x10003]) (put 0x9AABC (words [0x1234567])
      { flat0 with sys := { flat0.sys with cr0 := 0x80000011#32, cr3 := 0x4000#32 } }))))
/-- The physical address or page-fault code of an access under V4's tables, with an entry replaced, and the bits set. -/
def walked (a : Nat) (e : Nat) (lin : Word) (k : Access) (user : Bool) : List Nat :=
  match translate lin k user (put a (words [e]) paged) with
  | .ok p t => [p, t.physRead 0x400C 4, t.physRead 0x500C 4]
  | .error (.raise (.pf c)) t => [c.toNat, t.sys.cr2.toNat]
  | .error _ _ => []
theorem test_page_read : walked 0x400C 0x5007 0xC03ABC#32 .read true = [0x9AABC, 0x5027, 0x9A025] := by decide +kernel
theorem test_page_write : walked 0x400C 0x5007 0xC03ABC#32 .write false = [0x9AABC, 0x5027, 0x9A065] := by decide +kernel
theorem test_page_user_write : walked 0x400C 0x5007 0xC03ABC#32 .write true = [7, 0xC03ABC] := by decide +kernel
theorem test_page_absent : walked 0x400C 0x5000 0xC03ABC#32 .read true = [4, 0xC03ABC] := by decide +kernel
/-- V4, PAE -/
theorem test_page_pae :
    (match translate 0xC0203ABC#32 .read false (put 0x6008 (words [0x7007, 0]) (put 0x7018 (words [0x23456007, 1])
        { bare with sys := { bare.sys with
            cr0 := 0x80000011#32, cr4 := 0x20#32, cr3 := 0x4000#32, pdpte3 := 0x6001#64 } })) with
      | .ok p _ => p
      | .error _ _ => 0) = 0x123456ABC := by decide +kernel
/-- V11 -/
theorem test_lock_add : ran (put 0x3000 (words [5]) (withGpr (fun g => { g with esi := 0x3000#32, ecx := 2#32 }) bare))
    [0xF0, 0x01, 0x0E] (fun t => t.physRead 0x3000 4 == 7) = true := by decide +kernel
/-- R351: LOCK before an x87 opcode. -/
theorem test_lock_x87 : traps flat0 [0xF0, 0xD9, 0xE8] 6 [] = true := by decide +kernel
theorem test_lock_mov : traps flat0 [0xF0, 0x89, 0x06] 6 [] = true := by decide +kernel
theorem test_monitor_user : traps flat3 [0x0F, 0x01, 0xC8] 6 [] = true := by decide +kernel
theorem test_monitor : ran (withGpr (fun g => { g with eax := 0x20007#32 }) bare) [0x0F, 0x01, 0xC8] (fun t =>
    t.act.monitor == some ⟨0x20000, 64⟩) = true := by decide +kernel
theorem test_mwait_unarmed : ran bare [0x0F, 0x01, 0xC9] (fun t => !t.act.mwaiting && t.eip == 0x10003#32) = true := by
  decide +kernel
theorem test_hlt : ran bare [0xF4] (fun t => t.act.halted && t.eip == 0x10001#32) = true := by decide +kernel
theorem test_rsm_outside_smm : traps flat0 [0x0F, 0xAA] 6 [] = true := by decide +kernel
theorem test_hlt_user : traps flat3 [0xF4] 13 [0] = true := by decide +kernel
/-- V12 -/
theorem test_ppr : Apic.ppr { State.reset.apic with tpr := 0x4A#8, isr := 1#256 <<< 0x45 } = 0x4A ∧
    Apic.ppr { State.reset.apic with tpr := 0x30#8, isr := 1#256 <<< 0x45 } = 0x40 := by decide +kernel
theorem test_apr : Apic.apr { State.reset.apic with tpr := 0x35#8, irr := 1#256 <<< 0x31, isr := 1#256 <<< 0x22 } = 0x35 ∧
    Apic.apr { State.reset.apic with tpr := 0x30#8, irr := 1#256 <<< 0x20, isr := 1#256 <<< 0x45 } = 0x20 := by decide +kernel
/-- The local APIC enabled, TPR 40H, IF = 1, two fixed interrupts on their way (V12.3). -/
def apicState : State :=
  put 0x2290 (words [0x80520, 0x88E00])
    { flat0 with
      apic := { flat0.apic with svr := 0x1FF#32, tpr := 0x40#8 }
      eflags := { flat0.eflags with intf := true }
      sys := { flat0.sys with idtr := ⟨0x2000#32, 0x7FF#16⟩ }
      inputs := [[.message ⟨.fixed, 0x31#8, false, 0#8, false, false⟩, .message ⟨.fixed, 0x52#8, false, 0#8, false, false⟩]] }
theorem test_apic_dispense : ran apicState [0x90] (fun t =>
    t.eip == 0x80520#32 && t.physRead t.gpr.esp.toNat 4 == 0x10000 && t.apic.isr == 1#256 <<< 0x52 &&
    t.apic.irr == 1#256 <<< 0x31 && t.apic.ppr == 0x50) = true := by decide +kernel
theorem test_apic_eoi : ran { apicState with
      inputs := [], eflags := bare.eflags
      apic := { apicState.apic with isr := 1#256 <<< 0x52, irr := 1#256 <<< 0x31 } }
    [0xC7, 0x05, 0xB0, 0, 0xE0, 0xFE, 0, 0, 0, 0] (fun t => t.apic.isr == 0#256 && t.apic.ppr == 0x40) = true := by
  decide +kernel
theorem test_apic_ipi : ran { apicState with inputs := [], apic := { apicState.apic with icrHi := 0x1000000#32 } }
    [0xC7, 0x05, 0, 3, 0xE0, 0xFE, 0x30, 0x40, 0, 0] (fun t => t.bus == [.ipi 0x1000000#32 0x4030#32] && bit t.icrRead 12) = true := by
  decide +kernel
/-- A self IPI with an illegal vector is sent and received (R513). -/
theorem test_apic_self_ipi_illegal : ran { apicState with inputs := [], eflags := bare.eflags }
    [0xC7, 0x05, 0, 3, 0xE0, 0xFE, 5, 0, 4, 0] (fun t => t.apic.errs == 0x60#8 && t.apic.irr == 0#256) = true := by decide +kernel
theorem test_apic_byte_read : refuses flat0 [0xA0, 0x30, 0, 0xE0, 0xFE] .apicAccess = true := by decide +kernel
/-- V12.5: the third tick of a periodic timer raises its vector and reloads the count. -/
theorem test_apic_timer : ran { apicState with
      eflags := bare.eflags, inputs := [[.timerTick]]
      apic := { apicState.apic with lvtTimer := 0x20040#32, initCount := 3#32, curCount := 1#32 } } [0x90] (fun t =>
    t.apic.curCount == 3#32 && t.apic.irr == 1#256 <<< 0x40) = true := by decide +kernel
/-- V12.8 -/
theorem test_msi : ran { apicState with eflags := bare.eflags, inputs := [[.msi 0xFEE00000#32 0x30#32 false]] } [0x90] (fun t =>
    t.apic.irr == 1#256 <<< 0x30) = true := by decide +kernel
/-- V13.2: INIT, and the SIPI that follows, on an application processor. -/
theorem test_sipi : ran { State.resetWith { Config.default with isBsp := false } with
      inputs := [[.message ⟨.startUp, 0xBD#8, false, 0#8, false, false⟩]] } [0] (fun t =>
    !t.act.waitSipi && t.segs.cs.sel == 0xBD00#16 && t.segs.cs.base == 0xBD000#32) = true := by decide +kernel
/-- A next state with a property. -/
def isNextTo (r : Host.Outcome State Fault Refusal) (ok : State → Bool) : Bool :=
  match r with
  | .next t => ok t
  | _ => false
/-- The local APIC changed. -/
def withApic (f : Apic → Apic) (s : State) : State := { s with apic := f s.apic }
/-- R465: a processor that waits for a SIPI ignores NMI, SMI and INIT; of two SIPIs the second, which finds it started. -/
theorem test_waiting_ignores :
    let s := State.resetWith { Config.default with isBsp := false }
    let sipi (v : Byte) : Input := .message ⟨.startUp, v, false, 0xFF#8, false, false⟩
    isNextTo (step { s with inputs := [[.nmi, .smi, .initPin]] }) (fun t => t.pend == s.pend && t.act == s.act) &&
      isNextTo (step { s with inputs := [[.nmi, sipi 8#8, sipi 9#8, .initPin]] })
        (fun t => !t.act.waitSipi && t.segs.cs.base == 0x8000#32 && !t.pend.nmi && t.pend.init) = true := by decide +kernel
/-- R93, D5: a far pointer is one access of 6 bytes, which must not wrap. -/
theorem test_far_pointer_wraps : traps flat0 [0xFF, 0x2D, 0xFC, 0xFF, 0xFF, 0xFF] 13 [0] = true := by decide +kernel
/-- R409: at CPL 3 the frame of #AC is itself misaligned where its handler runs at CPL 3. The chain goes on in the next step,
and ends there when the gate has changed. -/
theorem test_endless_ac :
    let gate (w : Nat) : State → State := put 0x2088 (words [0x1B0000, w])
    let s := { flat3 with
      sys := { flat3.sys with cr0 := 0x40011#32, idtr := ⟨0x2000#32, 0x8F#16⟩ }
      gpr := { flat3.gpr with esp := 0x400FF2#32 }, eflags := { flat3.eflags with ac := true } }
    ran (gate 0xEE00 s) [0x50] (fun t =>
      t.pend.delivering.isSome && t.gpr.esp == s.gpr.esp && t.eip == s.eip && t.ctx.delivered &&
        isNextTo (step (gate 0 t)) fun u => u.pend.delivering.isNone && u.eip == 0x800D0#32 && u.cpl == 0) = true := by
  decide +kernel
/-- R409: #NP of a new task, raised after the commit point, whose frame is misaligned at CPL 3: #AC is delivered and #NP held;
once the handler of #AC returns the next boundary attempts it again. -/
theorem test_reattempt :
    let gate (v w0 w1 : Nat) : State → State := put (0x2000 + 8 * v) (words [w0, w1])
    let s := { flat3 with
      sys := { flat3.sys with cr0 := 0x40011#32, idtr := ⟨0x2000#32, 0x8F#16⟩ }
      gpr := { flat3.gpr with esp := 0x400FF2#32 }, eflags := { flat3.eflags with ac := true } }
    isNextTo (takeTaskException (.np 0x50#16) (gate 11 0x1B0000 0xEE00 (gate 17 0x80110 0x88E00 s))) (fun t =>
      t.eip == 0x80110#32 && t.pend.held == [(.exception 11#8 (some 0x50#32), 1)] &&
        isNextTo (step { gate 11 0x800B0 0x88E00 s with pend := t.pend.released }) fun u =>
          u.eip == 0x800B0#32 && u.physRead u.gpr.esp.toNat 4 == 0x50 && u.pend == s.pend) = true := by decide +kernel
/-- R88: at CPL 3 the place of STR's operand must be divisible by 4, that of a selector by 2. -/
theorem test_selector_alignment :
    let s := { flat3 with sys := { flat3.sys with cr0 := 0x40011#32 }, eflags := { flat3.eflags with ac := true } }
    traps s [0x0F, 0x00, 0x0D, 2, 0, 2, 0] 13 [0x8B] && ran s [0x8C, 0x1D, 2, 0, 2, 0] (fun t => t.physRead 0x20002 2 == 0x23) =
      true := by decide +kernel
/-- R409: a far CALL to a task counts its task among the handlers that are to return, a far JMP does not. -/
theorem test_held_task :
    let s := { taskState with pend := { taskState.pend with held := [(.stepTrap, 1)] } }
    ran s [0x9A, 0, 0, 0, 0, 0x30, 0] (fun t => t.pend.held == [(.stepTrap, 2)]) &&
      ran s [0xEA, 0, 0, 0, 0, 0x30, 0] (fun t => t.pend.held == [(.stepTrap, 1)]) = true := by decide +kernel
/-- R131: a far JMP to a task is #TS with TR's selector where that lies beyond the GDT's limit, or is null. -/
theorem test_old_busy_named :
    let s := put 0x2050 (words [0x800A0, 0x88E00]) taskState
    let tr (sel : Half) : State := { s with sys := { s.sys with tr := { s.sys.tr with sel := sel } } }
    traps (tr 0x1F28#16) [0xEA, 0, 0, 0, 0, 0x30, 0] 10 [0x1F28] && traps (tr 3#16) [0xEA, 0, 0, 0, 0, 0x30, 0] 10 [0] =
      true := by decide +kernel
/-- R409: a maskable request whose gate is beyond the IDT is held back until the IRET of that exception's handler, beyond that
of a nested handler; then it is open again. -/
theorem test_held_request :
    isNextTo (takeInterrupt (.apic 0x50#8) { flat0 with
        apic := { flat0.apic with svr := 0x1FF#32, irr := 1#256 <<< 0x50 }, eflags := { flat0.eflags with intf := true } })
      (fun t =>
        let u := { t with eflags := { t.eflags with intf := true } }
        u.apic.irr.getLsbD 0x50 && !u.apic.isr.getLsbD 0x50 && u.request.isNone &&
          ({ u with pend := u.pend.entered.released } : State).request.isNone &&
          ({ u with pend := u.pend.entered.released.released } : State).request == some (.apic 0x50#8)) = true := by decide +kernel
/-- R519: a rejected fixed entry that is rewritten to an illegal vector no longer waits. -/
theorem test_illegal_retry :
    (match pollLocal (withApic (fun a => { a with svr := 0x1FF#32, lvtTimer := 0x1005#32 }) bare) with
      | .ok _ t => !bit t.apic.lvtTimer 12 && t.apic.errs == 0x40#8 && t.apic.irr == 0#256
      | _ => false) = true := by decide +kernel
/-- R286: where the inner stack overlaps the parameters, the push of SS and ESP comes before the copies. -/
theorem test_call_gate_overlap : ran (put 0x6004 (words [0x401000, 0x10]) flat3) [0x9A, 0, 0, 0, 0, 0x33, 0] (fun t =>
    t.gpr.esp == 0x400FE4#32 && t.physRead 0x400FF4 4 == 0x23 && t.physRead 0x400FF0 4 == 0x400FF4 &&
      t.physRead 0x400FEC 4 == 0x23) = true := by decide +kernel
/-- R508: the EOI of LINT0's level-triggered interrupt clears its remote IRR flag, also where an edge-triggered one of the
same vector came meanwhile. -/
theorem test_remote_irr :
    let s := withApic (fun a => { a with svr := 0x1FF#32, lvtLint0 := 0x8050#32 }) { bare with pend := { bare.pend with lint0 := true } }
    (match pollLocal s with
      | .ok _ t =>
        let a := (t.apic.dispense 0x50).log 0x50 false
        bit t.apic.lvtLint0 14 && bit a.lvtLint0 14 && !bit (writeEoi { t with apic := a }).apic.lvtLint0 14
      | _ => false) = true := by decide +kernel
/-- V13.1: the first fetch after reset is from FFFFFFF0H. -/
theorem test_reset_fetch :
    (match step (State.reset.withFetchWord 8 0x40) with
      | .next t => t.gpr.eax == 1#32 && t.eip == 0xFFF1#32
      | _ => false) = true := by decide +kernel
/-- The floating-point instructions past #NM are refused (R212). -/
theorem test_fxsave_refused : refuses flat0 [0x0F, 0xAE, 0] .fpuState = true := by decide +kernel
/-! ## The hypotheses of the statements can be met

For each statement with hypotheses, states and operands that meet all of them, clause by clause. -/

/-- A computation ends normally with a value in a state. -/
def okIs {α : Type} [DecidableEq α] (r : EStateM.Result Stop State α) (a : α) (t : State) : Bool :=
  match r with
  | .ok b u => decide (b = a) && decide (u = t)
  | .error _ _ => false
theorem ok_of {α : Type} [DecidableEq α] {r : EStateM.Result Stop State α} {a : α} {t : State} (h : okIs r a t = true) :
    r = .ok a t := by
  unfold okIs at h
  split at h
  · simp only [Bool.and_eq_true, decide_eq_true_eq] at h
    rw [h.1, h.2]
  · cases h

/-- A computation ends normally. -/
def isOk {α : Type} (r : EStateM.Result Stop State α) : Bool :=
  match r with
  | .ok _ _ => true
  | .error _ _ => false
theorem ok_exists {α : Type} {r : EStateM.Result Stop State α} (h : isOk r = true) : ∃ a t, r = .ok a t := by
  cases r with
  | ok a t => exact ⟨a, t, rfl⟩
  | error e t => cases h

theorem fails_exists {α : Type} {r : EStateM.Result Stop State α} (h : isOk r = false) : ∃ e t, r = .error e t := by
  cases r with
  | ok a t => cases h
  | error e t => exact ⟨e, t, rfl⟩

/-- A computation raises an exception in a state. -/
def raisesIn {α : Type} (r : EStateM.Result Stop State α) (e : Exc) (t : State) : Bool :=
  match r with
  | .ok _ _ => false
  | .error x u => decide (x = .raise e) && decide (u = t)
theorem raise_in {α : Type} {r : EStateM.Result Stop State α} {e : Exc} {t : State} (h : raisesIn r e t = true) :
    r = .error (.raise e) t := by
  cases r with
  | ok a u => cases h
  | error x u =>
    simp only [raisesIn, Bool.and_eq_true, decide_eq_true_eq] at h
    rw [h.1, h.2]

/-- A step answers a next state. -/
def steps (s : State) : Bool :=
  match step s with
  | .next _ => true
  | _ => false
theorem next_exists {s : State} (h : steps s = true) : ∃ t, step s = .next t := by
  unfold steps at h
  split at h
  · exact ⟨_, ‹_›⟩
  · cases h

theorem lok {s : State} {b : Bool} (h : (!s.locked || b) = true := by decide) : s.lockOk b := h
theorem plain_mem {s : State} {pas : List Nat} (h : pas.any s.inApic = false) : (Place.mem pas).plain s := h
theorem plain_reg {s : State} {z : Sz} {r : Reg} : (Place.reg z r).plain s := True.intro
theorem plain_reg8 {s : State} {r : Reg8} : (Place.reg8 r).plain s := True.intro
theorem plains_of {s : State} {ps : List (List Nat)} (h : (ps.all fun p => !p.any s.inApic) = true) : s.plains ps := by
  intro p hp
  have := List.all_eq_true.mp h p hp
  exact (Bool.not_eq_true' _).mp this

/-- Bytes on one page, with paging off. -/
def onPage (s : State) (lin : Word) (n : Nat) : Bool := !s.pg && !s.pend.a20m && decide (n ≤ 4096 - lin.toNat % 4096)
theorem linAddrs_of {s : State} {lin : Word} {n : Nat} (h : onPage s lin n = true) (k : Access) (user : Bool) :
    linAddrs lin n k user s = .ok (addrsFrom lin.toNat n) s := by
  simp only [onPage, Bool.and_eq_true, Bool.not_eq_true', decide_eq_true_eq] at h
  obtain ⟨⟨h1, h2⟩, h3⟩ := h
  have ht : translate lin k user s = .ok (s.a20 lin.toNat) s := by
    show (if !s.pg then _ else _ : M Nat) s = _
    rw [h1]; rfl
  have ha : s.a20 lin.toNat = lin.toNat := by simp [State.a20, h2]
  show (EStateM.bind (translate lin k user) fun p => _) s = _
  unfold EStateM.bind
  rw [ht, ha]
  show (if n ≤ 4096 - lin.toNat % 4096 then (pure (addrsFrom lin.toNat n) : M (List Nat)) else _) s = _
  rw [if_pos h3]; rfl

/-- The descriptor of a selector, with paging off. -/
def descIs (s : State) (sel : Half) (d : Desc) : Bool :=
  match s.descAddr sel with
  | none => false
  | some lin =>
    let pas := addrsFrom lin.toNat 8
    onPage s lin 8 && !pas.any s.inApic &&
      decide (d = ⟨BitVec.ofNat 32 (s.valueAt pas), BitVec.ofNat 32 (s.valueAt pas / 2 ^ 32)⟩)
theorem descAt_of {s : State} {sel : Half} {d : Desc} (h : descIs s sel d = true) : DescAt s sel d s := by
  unfold descIs at h
  split at h
  · cases h
  · rename_i lin h1
    simp only [Bool.and_eq_true, decide_eq_true_eq, Bool.not_eq_true'] at h
    obtain ⟨⟨h2, h3⟩, h4⟩ := h
    exact ⟨lin, _, h1, linAddrs_of h2 _ _, h3, h4⟩

/-- A system item, with paging off. -/
def sysIs (s : State) (lin : Word) (n v : Nat) : Bool :=
  let pas := addrsFrom lin.toNat n
  onPage s lin n && !pas.any s.inApic && decide (v = s.valueAt pas)
theorem sysItem_of {s : State} {lin : Word} {n v : Nat} (h : sysIs s lin n v = true) : SysItem s lin n v s := by
  simp only [sysIs, Bool.and_eq_true, decide_eq_true_eq, Bool.not_eq_true'] at h
  exact ⟨_, linAddrs_of h.1.1 _ _, h.1.2, h.2⟩

/-- An item of the stack, with paging off. -/
def itemIs (s : State) (z : Sz) (k : Nat) (v : Word) : Bool :=
  match dataAddrs .ss (s.segs.ss.stackOff (s.segs.ss.stackMove s.gpr.esp k)) z.bytes z.bytes .read s with
  | .ok pas t => decide (t = s) && !pas.any s.inApic && decide (v = BitVec.ofNat 32 (s.valueAt pas))
  | .error _ _ => false
theorem stackItem_of {s : State} {z : Sz} {k : Nat} {v : Word} (h : itemIs s z k v = true) : StackItem s z k v s := by
  unfold itemIs at h
  split at h
  · rename_i pas t h2
    simp only [Bool.and_eq_true, decide_eq_true_eq, Bool.not_eq_true'] at h
    obtain ⟨⟨rfl, h3⟩, h4⟩ := h
    exact ⟨pas, h2, h3, h4⟩
  · cases h

/-- A descriptor whose accessed flag is set already. -/
theorem accessed_of {s : State} {sel : Half} {d : Desc} (h : d.typ.testBit 0 = true) : Accessed s sel d d [] s :=
  .inl ⟨h, rfl, rfl, rfl⟩

/-- The flat code and data descriptors of V3. -/
def code0 : Desc := ⟨0xFFFF#32, 0x00CF9B00#32⟩
def data0 : Desc := ⟨0xFFFF#32, 0x00CF9300#32⟩
def code3 : Desc := ⟨0xFFFF#32, 0x00CFFB00#32⟩
def data3 : Desc := ⟨0xFFFF#32, 0x00CFF300#32⟩
/-- The call gate of V7. -/
def gate3 : Desc := ⟨0x00082000#32, 0x0001EC03#32⟩
/-- A memory operand at 3000H, and its four bytes. -/
def m3 : Mem := .abs32 0x3000#32
def a4 : List Nat := [0x3000, 0x3001, 0x3002, 0x3003]

/-- EAX set. -/
def withEax (v : Word) (s : State) : State := withGpr (fun g => { g with eax := v }) s
/-- EDX set. -/
def withEcx (v : Word) (s : State) : State := withGpr (fun g => { g with ecx := v }) s
/-- A LOCK prefix read. -/
def locked (s : State) : State := { s with ctx := { s.ctx with pfx := { s.ctx.pfx with lock := true } } }
/-- CR0 and CR4 set. -/
def withCr (cr0 cr4 : Word) (s : State) : State := { s with sys := { s.sys with cr0 := cr0, cr4 := cr4 } }
/-- The registers after reset, in real-address mode, with a stack and code in low memory. -/
def real0 : State :=
  { withGpr (fun g => { g with esp := 0x8000#32 }) State.reset with
    eip := 0x100#32
    segs := { State.reset.segs with cs := { State.reset.segs.cs with sel := 0#16, base := 0#32 } } }

theorem place_write (s : State) (h : okIs (place .d .write (.mem m3) s) (.mem a4) s = true) :
    place .d .write (.mem m3) s = .ok (.mem a4) s := ok_of h

theorem witness_AluToRmCompletes : ∃ (o : AluOp) (f : AluForm) (s s1 : State) (p : Place),
    f.dst s o.access s = .ok p s1 ∧ p.plain s1 ∧ s.lockOk (f.isMem && o != .cmp) :=
  ⟨.add, .rmR (.mem m3) .ecx, locked flat0, locked flat0, .mem a4, ok_of (by decide +kernel),
    plain_mem (by decide +kernel), lok⟩

theorem witness_AluToRegCompletes :
    (∃ (src : RM Reg8) (s s1 : State) (p : Place),
      place8 .read src s = .ok p s1 ∧ p.plain s1 ∧ s.lockOk false) ∧
    (∃ (src : RM Reg) (s s1 : State) (p : Place),
      place s.osz .read src s = .ok p s1 ∧ p.plain s1 ∧ s.lockOk false) :=
  ⟨⟨.mem m3, flat3, flat3, .mem [0x3000], ok_of (by decide +kernel), plain_mem (by decide +kernel), lok⟩,
    ⟨.mem m3, flat3, flat3, .mem a4, ok_of (by decide +kernel), plain_mem (by decide +kernel), lok⟩⟩

theorem witness_TestCompletes : ∃ (f : AluForm) (i : Instr) (s s1 : State) (p : Place),
    f.test = some i ∧ f.dst s .read s = .ok p s1 ∧ p.plain s1 ∧ s.lockOk false :=
  ⟨.rmR (.mem m3) .ecx, _, flat0, flat0, .mem a4, rfl, ok_of (by decide +kernel), plain_mem (by decide +kernel), lok⟩

theorem witness_UnaryCompletes : ∃ (o : UnOp) (f : UnForm) (i : Instr) (s s1 : State) (p : Place),
    o.instr f = some i ∧ f.dst s s = .ok p s1 ∧ p.plain s1 ∧ s.lockOk f.isMem :=
  ⟨.inc, .rm (.mem m3), _, locked flat0, locked flat0, .mem a4, rfl, ok_of (by decide +kernel),
    plain_mem (by decide +kernel), lok⟩

theorem witness_ArithmeticFlags : ∃ (z : Sz) (a b : Word), a.toNat < 2 ^ z.bits ∧ b.toNat < 2 ^ z.bits :=
  ⟨.b, 0xFF#32, 0x80#32, by decide, by decide⟩

theorem witness_MovToRmCompletes :
    (∃ (f : MovForm) (s s1 : State) (p : Place),
      f.present s ∧ f.dst s s = .ok p s1 ∧ p.plain s1 ∧ s.lockOk false) ∧
    (∃ (m : Mem) (r : Reg) (s s1 : State) (p : Place), (MovForm.nti m r).present s ∧
      (MovForm.nti m r).dst s s = .ok p s1 ∧ p.plain s1 ∧ s.lockOk false) :=
  ⟨⟨.rmImm (.mem m3) 5#32, flat0, flat0, .mem a4, True.intro, ok_of (by decide +kernel), plain_mem (by decide +kernel),
      lok⟩,
    ⟨m3, .eax, flat0, flat0, .mem a4, rfl, ok_of (by decide +kernel), plain_mem (by decide +kernel), lok⟩⟩

theorem witness_MovToRegCompletes :
    (∃ (s s1 : State) (p : Place), place8 .read (.mem m3) s = .ok p s1 ∧ p.plain s1 ∧ s.lockOk false) ∧
    (∃ (s s1 : State) (p : Place), place s.osz .read (.mem m3) s = .ok p s1 ∧ p.plain s1 ∧ s.lockOk false) :=
  ⟨⟨flat0, flat0, .mem [0x3000], ok_of (by decide +kernel), plain_mem (by decide +kernel), lok⟩,
    ⟨flat0, flat0, .mem a4, ok_of (by decide +kernel), plain_mem (by decide +kernel), lok⟩⟩

/-- A computation is refused. -/
def isRefused {α : Type} (r : EStateM.Result Stop State α) : Bool :=
  match r with
  | .error (.refuse _) _ => true
  | _ => false
theorem refused_exists {α : Type} {r : EStateM.Result Stop State α} (h : isRefused r = true) :
    ∃ e t, r = .error (.refuse e) t := by
  unfold isRefused at h
  split at h
  · exact ⟨_, _, rfl⟩
  · cases h
/-- The slots of the task-priority, EOI and command registers, and four bytes beside one. -/
def tprSlot : List Nat := [0xFEE00080, 0xFEE00081, 0xFEE00082, 0xFEE00083]
def eoiSlot : List Nat := [0xFEE000B0, 0xFEE000B1, 0xFEE000B2, 0xFEE000B3]
def icrSlot : List Nat := [0xFEE00300, 0xFEE00301, 0xFEE00302, 0xFEE00303]
def tprOff : List Nat := [0xFEE00081, 0xFEE00082, 0xFEE00083, 0xFEE00084]
theorem witness_MovApicPage : ∃ (s : State), s.lockOk false ∧
    (∃ m, place s.osz .write (.mem m) s = .ok (.mem tprSlot) s ∧ ¬ s.plain tprSlot ∧ isApicSlot tprSlot = true ∧
      ∃ u t, apicWrite (tprSlot.headD 0 % 4096) (s.gpr.read s.osz .eax) s = .ok u t) ∧
    (∃ m, place s.osz .write (.mem m) s = .ok (.mem icrSlot) s ∧ ¬ s.plain icrSlot ∧ isApicSlot icrSlot = true ∧
      ∃ e t, apicWrite (icrSlot.headD 0 % 4096) (s.gpr.read s.osz .eax) s = .error (.refuse e) t) ∧
    (∃ m, place s.osz .write (.mem m) s = .ok (.mem tprOff) s ∧ ¬ s.plain tprOff ∧ isApicSlot tprOff = false) ∧
    (∃ m, place s.osz .read (.mem m) s = .ok (.mem tprSlot) s ∧ ∃ v t, apicRead (tprSlot.headD 0 % 4096) s = .ok v t) ∧
    (∃ m, place s.osz .read (.mem m) s = .ok (.mem eoiSlot) s ∧ ¬ s.plain eoiSlot ∧ isApicSlot eoiSlot = true ∧
      ∃ e t, apicRead (eoiSlot.headD 0 % 4096) s = .error (.refuse e) t) ∧
    (∃ m, place s.osz .read (.mem m) s = .ok (.mem tprOff) s) ∧
    (∃ m, place8 .read (.mem m) s = .ok (.mem [0xFEE00080]) s ∧ ¬ s.plain [0xFEE00080]) :=
  ⟨withEax 0x300#32 bare, lok,
    ⟨.abs32 0xFEE00080#32, ok_of (by decide +kernel), by unfold State.plain; decide +kernel, by decide,
      ok_exists (by decide +kernel)⟩,
    ⟨.abs32 0xFEE00300#32, ok_of (by decide +kernel), by unfold State.plain; decide +kernel, by decide,
      refused_exists (by decide +kernel)⟩,
    ⟨.abs32 0xFEE00081#32, ok_of (by decide +kernel), by unfold State.plain; decide +kernel, by decide⟩,
    ⟨.abs32 0xFEE00080#32, ok_of (by decide +kernel), ok_exists (by decide +kernel)⟩,
    ⟨.abs32 0xFEE000B0#32, ok_of (by decide +kernel), by unfold State.plain; decide +kernel, by decide,
      refused_exists (by decide +kernel)⟩,
    ⟨.abs32 0xFEE00081#32, ok_of (by decide +kernel)⟩,
    ⟨.abs32 0xFEE00080#32, ok_of (by decide +kernel), by unfold State.plain; decide +kernel⟩⟩

/-- The hypotheses of the register clauses of MovApicPage. -/
theorem witness_MovApicPage_registers :
    (∃ v : Word, bit v 8 = true) ∧ (∃ v : Word, bit v 8 = false) ∧
    (∃ (s : State) (v : Word), bit s.apic.svr 8 = true ∧ v.toNat % 256 = 16 ∧ s.cfg.family = .p4Xeon) ∧
    (∃ (s : State) (v : Word), s.isXapic = true ∧ v.toNat % 256 = 16 ∧ field v 8 3 = 0 ∧ field v 18 2 = 1 ∧
      s.apicSoft = true) ∧
    (∃ (s : State) (v : Word), s.isXapic = true ∧ v.toNat % 256 = 255 ∧ field v 8 3 = 0 ∧ field v 18 2 = 0 ∧
      bit v 11 = false ∧ field s.apic.icrHi 24 8 ≠ s.apicId ∧ field s.apic.icrHi 24 8 ≠ 255) ∧
    (∃ s : State, s.apicOn = true ∧ s.apic.curCount = 0#32) ∧
    (∃ s : State, s.apicOn = true ∧ 1 < s.apic.curCount.toNat) ∧
    (∃ s : State, s.apicOn = true ∧ s.apic.curCount = 1#32 ∧ bit s.apic.lvtTimer 16 = true) ∧
    (∃ s : State, s.apicOn = true ∧ s.apic.curCount = 1#32 ∧ bit s.apic.lvtTimer 16 = false ∧ s.isXapic = true ∧
      16 ≤ s.apic.lvtTimer.toNat % 256) :=
  ⟨⟨0x100#32, by decide⟩, ⟨0#32, by decide⟩,
    ⟨withApic (fun a => { a with svr := 0x1FF#32 }) bare, 0x10#32, by decide, by decide, by decide⟩,
    ⟨withApic (fun a => { a with svr := 0x1FF#32 }) bare, 0x40010#32, by decide, by decide, by decide, by decide, by decide⟩,
    ⟨withApic (fun a => { a with icrHi := 0x5000000#32 }) bare, 0xFF#32, by decide, by decide, by decide, by decide,
      by decide, by decide, by decide⟩,
    ⟨bare, by decide, by decide⟩,
    ⟨withApic (fun a => { a with curCount := 2#32 }) bare, by decide, by decide⟩,
    ⟨withApic (fun a => { a with curCount := 1#32 }) bare, by decide, by decide, by decide⟩,
    ⟨withApic (fun a => { a with curCount := 1#32, lvtTimer := 0x20#32 }) bare, by decide, by decide, by decide, by decide,
      by decide⟩⟩

theorem witness_LeaCompletes :
    (∃ s : State, s.locked = false) ∧ (∃ s : State, s.locked = true) ∧ (∃ b : Byte, 192 ≤ b.toNat) :=
  ⟨⟨flat0, rfl⟩, ⟨locked flat0, rfl⟩, ⟨192#8, by decide⟩⟩

theorem witness_XchgCompletes :
    (∃ (r : Reg8) (s s1 : State) (p : Place),
      place8 .write (.reg r) s = .ok p s1 ∧ p.plain s1 ∧ s.lockOk (RM.isMem (.reg r))) ∧
    (∃ (s s1 : State) (p : Place), place s.osz .write (.mem m3) s = .ok p s1 ∧ p.plain s1 ∧ s.lockOk (RM.isMem (ρ := Reg) (.mem m3))) :=
  ⟨⟨.ah, flat0, flat0, .reg8 .ah, rfl, plain_reg8, lok⟩,
    ⟨locked flat0, locked flat0, .mem a4, ok_of (by decide +kernel), plain_mem (by decide +kernel), lok⟩⟩

theorem witness_XaddCompletes :
    (∃ (s s1 : State) (p : Place), s.cfg.family ≠ .i386 ∧ place8 .write (.mem m3) s = .ok p s1 ∧ p.plain s1 ∧
      s.lockOk true) ∧
    (∃ (s s1 : State) (p : Place), s.cfg.family ≠ .i386 ∧ place s.osz .write (.mem m3) s = .ok p s1 ∧ p.plain s1 ∧
      s.lockOk true) :=
  ⟨⟨flat0, flat0, .mem [0x3000], by decide, ok_of (by decide +kernel), plain_mem (by decide +kernel), lok⟩,
    ⟨locked flat0, locked flat0, .mem a4, by decide, ok_of (by decide +kernel), plain_mem (by decide +kernel), lok⟩⟩

theorem witness_CmpxchgCompletes :
    (∃ (s s1 : State) (p : Place), s.cfg.family ≠ .i386 ∧ place8 .write (.mem m3) s = .ok p s1 ∧ p.plain s1 ∧
      s.lockOk true) ∧
    (∃ (s s1 : State) (p : Place), s.cfg.family ≠ .i386 ∧ place s.osz .write (.mem m3) s = .ok p s1 ∧ p.plain s1 ∧
      s.lockOk true) ∧
    (∃ (s s1 : State) (pas : List Nat), s.cfg.family ≠ .i386 ∧ s.cfg.family ≠ .i486 ∧
      memAddrs m3 8 8 .write s = .ok pas s1 ∧ s1.plain pas) :=
  ⟨⟨flat0, flat0, .mem [0x3000], by decide, ok_of (by decide +kernel), plain_mem (by decide +kernel), lok⟩,
    ⟨locked flat0, locked flat0, .mem a4, by decide, ok_of (by decide +kernel), plain_mem (by decide +kernel), lok⟩,
    ⟨flat0, flat0, addrsFrom 0x3000 8, by decide, by decide, ok_of (by decide +kernel), plain_mem (by decide +kernel)⟩⟩

theorem witness_StoreSelectorCompletes :
    ∃ (k : SelSource) (s s1 : State) (pas : List Nat), k.present s ∧ s.lockOk false ∧
      memAddrs m3 2 k.align .write s = .ok pas s1 ∧ s1.plain pas :=
  ⟨.ldtr, flat3, flat3, [0x3000, 0x3001], rfl, lok, ok_of (by decide +kernel),
    plain_mem (by decide +kernel)⟩

/-- Data whose accessed flag is clear: the load sets it in memory. -/
theorem segLoads_data : ∃ r bytes s2, SegLoads flat0 .ds 0x50#16 r bytes s2 ∧ bytes = [0x1055] :=
  ⟨_, _, _, .data ⟨0xFFFF#32, 0x00CF9200#32⟩ _ [0x1055] flat0 _ (by decide +kernel) (by decide) (by decide)
    (descAt_of (by decide +kernel)) (by decide) (.inr (by decide +kernel)) (by decide)
    (.inr ⟨by decide, rfl, 0x1050#32, flat0, by decide +kernel, ok_of (by decide +kernel),
      plain_mem (by decide +kernel), rfl⟩), rfl⟩

theorem witness_LoadSegmentCompletes :
    (∃ (x : Seg) (r : Reg) (s : State) (sr : SegReg) (bytes : List Nat) (s2 : State), x ≠ .cs ∧ s.lockOk false ∧
      place .w .read (.reg r) s = .ok (.reg .w r) s ∧ SegLoads s x ((s.gpr.read .w r).setWidth 16) sr bytes s2 ∧ s.prot = false) ∧
    (∃ (r : Reg) (s : State) (sr : SegReg) (bytes : List Nat) (s2 : State), s.lockOk false ∧
      place .w .read (.reg r) s = .ok (.reg .w r) s ∧ SegLoads s .ds ((s.gpr.read .w r).setWidth 16) sr bytes s2 ∧
      isNull ((s.gpr.read .w r).setWidth 16) = true) ∧
    (∃ (r : Reg) (s : State) (sr : SegReg) (bytes : List Nat) (s2 : State), s.lockOk false ∧
      place .w .read (.reg r) s = .ok (.reg .w r) s ∧ SegLoads s .ss ((s.gpr.read .w r).setWidth 16) sr bytes s2) ∧
    (∃ (i : Instr) (s : State) (v : Word) (sr : SegReg) (bytes : List Nat) (s2 : State), popSegInstr .ds = some i ∧
      s.lockOk false ∧ StackItem s s.osz 0 v s ∧ SegLoads s .ds (v.setWidth 16) sr bytes s2) :=
  ⟨⟨.ds, .eax, real0, _, _, _, by decide, lok, rfl, .real (by decide), by decide⟩,
    ⟨.eax, flat0, _, _, _, lok, rfl, .null (by decide) (by decide) (by decide), by decide⟩,
    ⟨.eax, withEax 0x10#32 flat0, _, _, _, lok, rfl,
      .stack data0 data0 [] _ _ (by decide) rfl (by decide) (descAt_of (by decide +kernel)) (by decide) (by decide)
        (by decide) (by decide) (accessed_of (by decide))⟩,
    ⟨.popDs, flat0, 0#32, _, _, _, rfl, lok, stackItem_of (by decide +kernel),
      .null (by decide) (by decide) (by decide)⟩⟩

theorem witness_LoadSegmentFaults :
    (∃ (s : State), s.prot = true ∧ s.lockOk false ∧ place .w .read (.reg .eax) s = .ok (.reg .w .eax) s ∧
      isNull ((s.gpr.read .w .eax).setWidth 16) = true) ∧
    (∃ (s : State) (sel : Half), s.prot = true ∧ s.lockOk false ∧ place .w .read (.reg .eax) s = .ok (.reg .w .eax) s ∧
      (s.gpr.read .w .eax).setWidth 16 = sel ∧ isNull sel = false ∧ sel.getLsbD 2 = false ∧
      s.sys.gdtr.limit.toNat < sel.toNat / 8 * 8 + 7) ∧
    (∃ (s : State) (sel : Half), s.prot = true ∧ s.lockOk false ∧ place .w .read (.reg .eax) s = .ok (.reg .w .eax) s ∧
      (s.gpr.read .w .eax).setWidth 16 = sel ∧ isNull sel = false ∧ sel.getLsbD 2 = true ∧ isNull s.sys.ldtr.sel = true) ∧
    (∃ (s : State) (d : Desc) (sel : Half) (p : Place), s.prot = true ∧ s.lockOk false ∧
      place .w .read (.mem m3) s = .ok p s ∧ p.plain s ∧ (p.value s).setWidth 16 = sel ∧
      isNull sel = false ∧ DescAt s sel d s ∧ ¬ (rpl sel = s.cpl ∧ d.isWritable = true ∧ d.dpl = s.cpl)) ∧
    (∃ (s : State) (d : Desc) (sel : Half), s.prot = true ∧ s.lockOk false ∧
      place .w .read (.reg .eax) s = .ok (.reg .w .eax) s ∧ (s.gpr.read .w .eax).setWidth 16 = sel ∧
      isNull sel = false ∧ DescAt s sel d s ∧ rpl sel = s.cpl ∧ d.isWritable = true ∧ d.dpl = s.cpl ∧ d.p = false ∧
      d.isReadable = true ∧ s.cpl ≤ d.dpl ∧ rpl sel ≤ d.dpl) ∧
    (∃ (s : State) (d : Desc) (sel : Half), s.prot = true ∧ s.lockOk false ∧
      place .w .read (.reg .eax) s = .ok (.reg .w .eax) s ∧ (s.gpr.read .w .eax).setWidth 16 = sel ∧
      isNull sel = false ∧ DescAt s sel d s ∧ d.isReadable = false) :=
  ⟨⟨flat0, by decide, lok, ok_of (by decide +kernel), by decide⟩,
    ⟨withEax 0x70#32 flat0, _, by decide, lok, ok_of (by decide +kernel), rfl, by decide, by decide, by decide⟩,
    ⟨withEax 0x0C#32 flat0, _, by decide, lok, ok_of (by decide +kernel), rfl, by decide, by decide, by decide⟩,
    ⟨put 0x3000 (words [0x23]) flat0, data3, 0x23#16, .mem [0x3000, 0x3001], by decide, lok (by decide +kernel),
      ok_of (by decide +kernel), plain_mem (by decide +kernel), by decide +kernel, by decide, descAt_of (by decide +kernel),
      by decide +kernel⟩,
    ⟨withEax 0x60#32 flat0, ⟨0x5678BCDE#32, 0x121A1234#32⟩, 0x60#16, by decide, lok, ok_of (by decide +kernel), by decide,
      by decide, descAt_of (by decide +kernel), by decide, by decide, by decide, by decide, by decide, by decide, by decide⟩,
    ⟨withEax 0x28#32 flat0, ⟨0x60000067#32, 0x8900#32⟩, 0x28#16, by decide, lok, ok_of (by decide +kernel), by decide,
      by decide, descAt_of (by decide +kernel), by decide⟩⟩

/-- The four bytes below the stack pointer of S0. -/
def top4 : List Nat := [0x7FFC, 0x7FFD, 0x7FFE, 0x7FFF]
theorem witness_PushCompletes :
    (∃ (s s1 : State) (pas : List Nat) (esp : Word), s.lockOk false ∧
      pushPrep s.osz 1 s = .ok ([pas], esp) s1 ∧ s1.plain pas) ∧
    (∃ (s s1 s2 : State) (p : Place) (pas : List Nat) (esp : Word), s.lockOk false ∧
      place s.osz .read (.mem m3) s = .ok p s1 ∧ p.plain s1 ∧ pushPrep s.osz 1 s1 = .ok ([pas], esp) s2 ∧ s2.plain pas) :=
  ⟨⟨flat0, flat0, top4, 0x7FFC#32, lok, ok_of (by decide +kernel), plain_mem (by decide +kernel)⟩,
    ⟨flat0, flat0, flat0, .mem a4, top4, 0x7FFC#32, lok, ok_of (by decide +kernel), plain_mem (by decide +kernel),
      ok_of (by decide +kernel), plain_mem (by decide +kernel)⟩⟩

theorem witness_PushOnFlatStack : ∃ s : State, s.lockOk false ∧ s.osz = .d ∧ s.pe = true ∧ s.pg = false ∧
    s.segs.ss.attr.db = true ∧ s.segs.ss.canWrite = true ∧ s.segs.ss.expandDown = false ∧
    (s.gpr.esp - 4#32).toNat + 3 ≤ s.segs.ss.limit.toNat ∧ (s.segs.ss.base + (s.gpr.esp - 4#32)).toNat + 4 ≤ 2 ^ 32 ∧
    (bit s.sys.cr0 18 = true → s.eflags.ac = true → s.cpl = 3 → (s.segs.ss.base + (s.gpr.esp - 4#32)).toNat % 4 = 0) ∧
    s.plain (addrsFrom (s.segs.ss.base + (s.gpr.esp - 4#32)).toNat 4) ∧
    ∀ k, k < 4 → inRam s ((s.segs.ss.base + (s.gpr.esp - 4#32)).toNat + k) = true :=
  ⟨flat0, lok, by decide, by decide, by decide, by decide, by decide, by decide, by decide, by decide, by decide,
    plain_mem (by decide +kernel), by decide⟩

theorem witness_PopCompletes :
    (∃ (s s1 s2 : State) (v : Word) (p : Place), s.lockOk false ∧ StackItem s s.osz 0 v s1 ∧
      place s.osz .write (.mem m3) (s1.withEsp (s.popped s.osz.bytes)) = .ok p s2 ∧ p.plain s2) ∧
    (∃ (s s1 : State) (v : Word), s.lockOk false ∧ StackItem s s.osz 0 v s1) :=
  ⟨⟨flat0, flat0, flat0.withEsp 0x8004#32, 0#32, .mem a4, lok, stackItem_of (by decide +kernel),
      ok_of (by decide +kernel), plain_mem (by decide +kernel)⟩,
    ⟨flat0, flat0, 0#32, lok, stackItem_of (by decide +kernel)⟩⟩

/-- A bit offset of -1 into memory: the doubleword below. -/
theorem witness_BitInstructionsComplete :
    (∃ (f : BitForm) (s s1 : State) (p : Place), s.lockOk (f.isMem && BitOp.bts != .bt) ∧ f.dst s .write s = .ok p s1 ∧
      p.plain s1) ∧
    (∃ (f : BitForm) (s s1 : State) (p : Place), s.lockOk (f.isMem && BitOp.bt != .bt) ∧ f.dst s .read s = .ok p s1 ∧
      p.plain s1) :=
  ⟨⟨.byReg (.mem m3) .eax, locked (withEax 0xFFFFFFFF#32 flat0), _, .mem [0x2FFC, 0x2FFD, 0x2FFE, 0x2FFF], lok,
      ok_of (t := locked (withEax 0xFFFFFFFF#32 flat0)) (by decide +kernel), plain_mem (by decide +kernel)⟩,
    ⟨.imm (.mem m3) 0xFF#8, flat0, flat0, .mem a4, lok, ok_of (by decide +kernel), plain_mem (by decide +kernel)⟩⟩

/-- A code segment of one page. -/
def shortCode : State :=
  { bare with segs := { bare.segs with cs := { bare.segs.cs with limit := 0x10FFF#32 } }, ctx := { bare.ctx with nextEip := 0x10005#32 } }
theorem witness_NearJumpsComplete :
    (∃ s : State, s.lockOk false ∧ s.inCode (s.target (s.ctx.nextEip + 0xFFA#32)) ∧
      ¬ s.inCode (s.target (s.ctx.nextEip + 0xFFB#32)) ∧ Cc.when s.eflags .ne ∧ ¬ Cc.when s.eflags .e) ∧
    (∃ (s s1 : State) (p : Place), s.lockOk false ∧ place s.osz .read (.reg .eax) s = .ok p s1 ∧ p.plain s1 ∧
      s.inCode (s.target (p.value s1))) ∧
    (∃ (s s1 : State) (p : Place), s.lockOk false ∧ place s.osz .read (.reg .eax) s = .ok p s1 ∧ p.plain s1 ∧
      ¬ s.inCode (s.target (p.value s1))) :=
  ⟨⟨shortCode, lok, by unfold State.inCode; decide +kernel, by unfold State.inCode; decide +kernel,
      by unfold Cc.when; decide, by unfold Cc.when; decide⟩,
    ⟨withEax 0x10FFF#32 shortCode, _, .reg .d .eax, lok, rfl, plain_reg, by unfold State.inCode; decide +kernel⟩,
    ⟨withEax 0x11000#32 shortCode, _, .reg .d .eax, lok, rfl, plain_reg, by unfold State.inCode; decide +kernel⟩⟩

theorem witness_NearCallsAndReturnsComplete :
    (∃ (w : Word) (s s1 : State) (pas : List Nat) (esp : Word), s.lockOk false ∧
      s.inCode (s.target (s.ctx.nextEip + s.rel w)) ∧ pushPrep s.osz 1 s = .ok ([pas], esp) s1 ∧ s1.plain pas) ∧
    (∃ (src : RM Reg) (s s1 s2 : State) (p : Place) (pas : List Nat) (esp : Word), s.lockOk false ∧
      place s.osz .read src s = .ok p s1 ∧ p.plain s1 ∧ s.inCode (s.target (p.value s1)) ∧
      pushPrep s.osz 1 s1 = .ok ([pas], esp) s2 ∧ s2.plain pas) ∧
    (∃ (s s1 : State) (v : Word), s.lockOk false ∧ StackItem s s.osz 0 v s1 ∧ s.inCode (s.target v)) :=
  ⟨⟨0xFFA#32, shortCode, _, top4, 0x7FFC#32, lok, by unfold State.inCode; decide +kernel,
      ok_of (t := shortCode) (by decide +kernel), plain_mem (by decide +kernel)⟩,
    ⟨.mem m3, flat0, flat0, flat0, .mem a4, top4, 0x7FFC#32, lok, ok_of (by decide +kernel), plain_mem (by decide +kernel),
      by unfold State.inCode; decide +kernel, ok_of (by decide +kernel), plain_mem (by decide +kernel)⟩,
    ⟨flat0, flat0, 0#32, lok, stackItem_of (by decide +kernel), by unfold State.inCode; decide +kernel⟩⟩

/-- CLFLUSH in a page that is mapped, and in one that is not. -/
theorem witness_NoEffectCompletes :
    (∃ (s : State) (m : Mem) (p : Nat) (t : State), s.lockOk false ∧ (s.cfg.family = .p4Xeon ∧ s.cfg.hasSse = true) ∧
      translate ((s.segs.get (s.memSeg m)).base + effAddr s.gpr m) .read false s = .ok p t) ∧
    (∃ (s : State) (m : Mem) (e : Stop) (t : State), s.lockOk false ∧ s.cfg.family = .p4Xeon ∧
      translate ((s.segs.get (s.memSeg m)).base + effAddr s.gpr m) .read false s = .error e t) := by
  obtain ⟨e, t, h⟩ := fails_exists (r := translate ((paged.segs.get (paged.memSeg m3)).base + effAddr paged.gpr m3) .read
    false paged) (by decide +kernel)
  exact ⟨⟨flat3, m3, 0x3000, flat3, lok, ⟨rfl, rfl⟩, ok_of (by decide +kernel)⟩,
    ⟨paged, m3, e, t, lok (by decide +kernel), rfl, h⟩⟩

theorem witness_PrefixesComplete : (Instr.lock, fun p : Pfx => { p with lock := true }) ∈ prefixEffects := .head _

/-! Far transfers. -/

theorem farJumps_direct : ∃ t bytes, FarJumps flat0 8#16 0x12000#32 t bytes :=
  ⟨_, _, .prot 8#16 code0 code0 0x12000#32 .d [] flat0 flat0 (by decide)
    (.direct code0 flat0 (by decide) (descAt_of (by decide +kernel)) (by decide) (by decide) (by decide) (by decide))
    (accessed_of (by decide))⟩
/-- The highest offset within a limit, to conforming code from level 3, with its accessed flag clear. -/
theorem farJumps_conforming : ∃ t bytes, FarJumps flat3 0x3B#16 0xFFFFFFFF#32 t bytes :=
  ⟨_, _, .prot 0x3B#16 ⟨0xFFFF#32, 0x00CF9E00#32⟩ _ 0xFFFFFFFF#32 .d [0x103D] flat3 _ (by decide)
    (.direct _ flat3 (by decide) (descAt_of (by decide +kernel)) (by decide) (by decide) (by decide) (by decide))
    (.inr ⟨by decide, rfl, 0x1038#32, flat3, by decide +kernel, ok_of (by decide +kernel),
      plain_mem (by decide +kernel), rfl⟩)⟩
/-- A call gate of level 0 in the place of the last descriptor. -/
theorem farJumps_gate : ∃ t bytes, FarJumps flat0 0x68#16 0#32 t bytes :=
  ⟨_, _, .prot 8#16 code0 code0 _ .d [] flat0 flat0 (by decide)
    (.gate ⟨0x00082000#32, 0x0001EC00#32⟩ code0 flat0 flat0 (by decide) (descAt_of (by decide +kernel)) (.inr (by decide))
      (by decide) (by decide) (by decide) (by decide) (descAt_of (by decide +kernel)) (by decide) (by decide) (by decide))
    (accessed_of (by decide))⟩
theorem farJumps_real : ∃ t bytes, FarJumps real0 0x1000#16 0xFFFF#32 t bytes :=
  ⟨_, _, .real (by decide) (by decide)⟩
theorem farPtr_mem : ∃ sel off, FarPtr flat0 m3 sel off flat0 :=
  ⟨_, _, a4 ++ [0x3004, 0x3005], ok_of (by decide +kernel), plain_mem (by decide +kernel), rfl, rfl⟩
theorem farCalls_real : ∃ t bytes, FarCalls real0 0x1000#16 0xFFFF#32 t bytes :=
  ⟨_, _, .real (s1 := real0) [0x7FFE, 0x7FFF] [0x7FFC, 0x7FFD] 0x7FFC#32 (by decide) (by decide) (ok_of (by decide +kernel))
    (plains_of (by decide +kernel))⟩
theorem farCalls_same : ∃ t bytes, FarCalls flat0 8#16 0x12000#32 t bytes :=
  ⟨_, _, .same 8#16 code0 code0 0x12000#32 .d top4 [0x7FF8, 0x7FF9, 0x7FFA, 0x7FFB] [] 0x7FF8#32 flat0 flat0 flat0 (by decide)
    (.direct code0 flat0 (by decide) (descAt_of (by decide +kernel)) (by decide) (by decide) (by decide) (by decide))
    (ok_of (by decide +kernel)) (accessed_of (by decide)) (plains_of (by decide +kernel))⟩
/-- The pointer to the stack of level 0 in the TSS. -/
theorem tssPointer_flat3 : TssPointer flat3 0 0x10#16 0x9000#32 flat3 := by
  refine ⟨0x9000, 0x10, flat3, rfl, rfl, ?_⟩
  rw [if_pos (by decide)]
  exact ⟨by decide, sysItem_of (by decide +kernel), sysItem_of (by decide +kernel)⟩
theorem stackSegment_flat3 : StackSegment flat3 0x10#16 0 (data0.toSegReg 0x10#16) [] flat3 :=
  ⟨data0, data0, flat3, by decide, descAt_of (by decide +kernel), by decide, by decide, by decide, by decide,
    accessed_of (by decide), rfl⟩
/-- Places for pushes downward from an address. -/
def below (a n : Nat) : List (List Nat) := (List.range n).map fun k => addrsFrom (a - 4 * (k + 1)) 4
/-- A parameter of V8.4 and the place of its copy. -/
theorem copies_flat3 {lin : Word} {lins : List Word} {p q : List Nat} {ps qs : List (List Nat)}
    (h : (okIs (peekPlace .d (4 * lins.length) flat3) p flat3 && okIs (linAddrs lin 4 .write false flat3) q flat3) = true)
    (r : Copies .d lins flat3 ps qs flat3) : Copies .d (lin :: lins) flat3 (p :: ps) (q :: qs) flat3 :=
  have h := Bool.and_eq_true_iff.mp h
  .more lin lins p q ps qs flat3 flat3 flat3 flat3 (ok_of h.1) (ok_of h.2) r
/-- The linear addresses of V8.4's seven pushes, the first the highest. -/
def lins7 : List Word := [0x8FFC#32, 0x8FF8#32, 0x8FF4#32, 0x8FF0#32, 0x8FEC#32, 0x8FE8#32, 0x8FE4#32]
/-- V8.4, through a call gate to level 0. -/
theorem farCalls_inner : ∃ t bytes, FarCalls flat3 0x33#16 0#32 t bytes :=
  ⟨_, _, .inner gate3 code0 code0 0x10#16 0x9000#32 0x8FE4#32 _ lins7 (below 0x9000 2) (below 0x401000 3)
    (below 0x8FF8 3) (below 0x8FEC 2) .d 3 [] [] flat3 flat3 flat3 flat3 flat3 flat3 flat3 flat3 rfl (by decide)
    (descAt_of (by decide +kernel)) (.inr (by decide)) (by decide) (by decide) rfl (by decide) (descAt_of (by decide +kernel))
    (by decide) (by decide) (by decide) rfl rfl rfl tssPointer_flat3 stackSegment_flat3 (ok_of (by decide +kernel))
    (ok_of (by decide +kernel))
    (copies_flat3 (by decide +kernel) (copies_flat3 (by decide +kernel) (copies_flat3 (by decide +kernel) (.none flat3))))
    (ok_of (by decide +kernel)) (accessed_of (by decide)) (plains_of (by decide +kernel))⟩
/-- RET pops nothing after CS; IRET pops EFLAGS. -/
def retMore (a b : State) : Prop := b = a
def iretMore (image : Word) (a b : State) : Prop := StackItem a .d 8 image b
theorem farReturns_real : ∃ t bytes, FarReturns real0 retMore .w 2 4 t bytes :=
  ⟨_, _, .real 0#32 0#32 real0 real0 real0 (by decide) (stackItem_of (by decide +kernel)) (stackItem_of (by decide +kernel))
    rfl (by decide)⟩
/-- S0 with a frame on its stack: EIP, CS, EFLAGS, and for level 3 ESP and SS. -/
def framed : State := put 0x8000 (words [0x10008, 8, 0x202]) flat0
def framed3 : State := put 0x8000 (words [0x401007, 0x1B, 0x202, 0x400FF4, 0x23]) flat0
theorem farReturns_same : ∃ t bytes, FarReturns framed retMore .d 2 0 t bytes :=
  ⟨_, _, .same 0x10008#32 8#32 code0 code0 [] framed framed framed framed framed (by decide +kernel)
    (stackItem_of (by decide +kernel)) (stackItem_of (by decide +kernel)) rfl (by decide) (descAt_of (by decide +kernel))
    (by decide) (by decide +kernel) (by decide +kernel) (by decide) (by decide) (accessed_of (by decide))⟩
/-- As far RET with one more doubleword on both stacks, and as IRET. -/
theorem farReturns_outer {more : State → State → Prop} (hm : more framed3 framed3) (k n : Nat) (h : k * 4 + n = 12) :
    ∃ t bytes, FarReturns framed3 more .d k n t bytes := by
  refine ⟨_, _, .outer 0x401007#32 0x1B#32 0x400FF4#32 0x23#32 code3 code3 (data3.toSegReg 0x23#16) 3 [] [] framed3 framed3
    framed3 framed3 framed3 framed3 framed3 framed3 (by decide +kernel) (stackItem_of (by decide +kernel))
    (stackItem_of (by decide +kernel)) hm (by decide) (descAt_of (by decide +kernel)) (by decide) (by decide)
    (by decide +kernel) (by decide) (by decide) (by decide) ?_ ?_
    ⟨data3, data3, framed3, by decide, descAt_of (by decide +kernel), by decide, by decide, by decide, by decide,
      accessed_of (by decide), rfl⟩ (accessed_of (by decide))⟩
  · show StackItem framed3 .d (k * 4 + n) _ _
    rw [h]; exact stackItem_of (by decide +kernel)
  · show StackItem framed3 .d (k * 4 + n + 4) _ _
    rw [h]; exact stackItem_of (by decide +kernel)
theorem witness_FarReturnCompletes :
    (∃ (s t : State) (bytes : List Nat), s.lockOk false ∧ FarReturns s (fun a b => b = a) s.osz 2 0 t bytes) ∧
    (∃ (n : Half) (s t : State) (bytes : List Nat), s.lockOk false ∧
      FarReturns s (fun a b => b = a) s.osz 2 n.toNat t bytes) := by
  obtain ⟨t, b, h⟩ := farReturns_same
  obtain ⟨t', b', h'⟩ := farReturns_outer (more := retMore) rfl 2 4 rfl
  exact ⟨⟨framed, t, b, lok (by decide +kernel), h⟩, ⟨4#16, framed3, t', b', lok (by decide +kernel), h'⟩⟩

/-! Task switches. -/

/-- One push ends normally, outside the local APIC's page. -/
def pushIs (r : EStateM.Result Stop State (List (List Nat) × Word)) (s : State) : Bool :=
  match r with
  | .ok ([pas], _) _ => !pas.any s.inApic
  | _ => false
theorem pushes_of {ss : SegReg} {e : Exc} {user : Bool} {z : Sz} {esp : Word} {s : State}
    (h : pushIs (pushPlaces ss e user z 1 esp s) s = true) :
    ∃ pas esp' u, pushPlaces ss e user z 1 esp s = .ok ([pas], esp') u ∧ u.plain pas := by
  unfold pushIs at h
  split at h
  · rename_i pas esp' u hr
    refine ⟨pas, esp', u, hr, ?_⟩
    rw [(walks_of_pushPlaces hr).plain]
    exact (Bool.not_eq_true' _).mp h
  · cases h

/-- The places of a switch from one 32-bit TSS to another, with paging off. -/
def placesOf (kind : SwitchKind) (sel : Half) (d : Desc) (s : State) : TaskPlaces :=
  let busy (x : Half) : List Nat := addrsFrom (s.sys.gdtr.base + BitVec.ofNat 32 (x.toNat / 8 * 8 + 5)).toNat 1
  { old := addrsFrom (s.sys.tr.base + 32#32).toNat 64
    new := addrsFrom d.base.toNat 104
    link := if kind.nests then addrsFrom d.base.toNat 2 else []
    oldBusy := if kind.leaves then busy s.sys.tr.sel else []
    newBusy := if kind = .iret then [] else busy sel }

/-- The state that has left the old task, and the one that has the new task's registers. -/
def left (kind : SwitchKind) (sel : Half) (d : Desc) (eip : Word) (s : State) : State :=
  let p := placesOf kind sel d s
  s.taskLeft kind sel d ⟨s.segs.cs.sel, eip, s.eflags.rf⟩ p.old p.link p.oldBusy p.newBusy
def arrived (kind : SwitchKind) (sel : Half) (d : Desc) (eip : Word) (s : State) : State :=
  let u := left kind sel d eip s
  u.taskLoaded (decide (kind = .call ∨ kind = .int)) (taskImage true u (placesOf kind sel d s).new) none
/-- That state with the flat code and stack segments of level 0. -/
def withCode (c : Half) (s : State) : State :=
  { s.setSeg .cs (code0.toSegReg c) with eip := code0.entry s.eip }
def withStack (c d : Half) (s : State) : State := (withCode c s).setSeg .ss (data0.toSegReg d)

def withData (s : State) : State := (s.setSeg .ds (data0.toSegReg 16#16)).setSeg .es (data0.toSegReg 16#16)

/-- A task whose selectors name the flat segments of level 0, but for null FS, GS and LDT. -/
def flatTask (im : TssImage) : Bool :=
  isNull im.ldt && decide (im.cs = 8#16) && decide (im.ss = 16#16) && decide (im.ds = 16#16) && decide (im.es = 16#16) &&
    isNull im.fs && isNull im.gs && !bit im.flags 17

/-- The checks of steps 1 to 5 pass, with paging off, and the new task is flat. -/
def switchIs (kind : SwitchKind) (sel : Half) (d : Desc) (eip : Word) (s : State) : Bool :=
  let p := placesOf kind sel d s
  let v := arrived kind sel d eip s
  descIs s sel d && !sel.getLsbD 2 && !isNull sel && d.isTss && d.p && d.tss32 && (d.tssAvail == decide (kind ≠ .iret)) &&
    decide (103 ≤ d.limit) && s.sys.tr.attr.typ.getLsbD 3 && decide (103 ≤ s.sys.tr.limit.toNat) &&
    onPage s s.sys.tr.base 104 && onPage s (s.sys.tr.base + 32#32) 64 && onPage s d.base 104 && onPage s d.base 2 &&
    onPage s (s.sys.gdtr.base + BitVec.ofNat 32 (s.sys.tr.sel.toNat / 8 * 8 + 5)) 1 &&
    onPage s (s.sys.gdtr.base + BitVec.ofNat 32 (sel.toNat / 8 * 8 + 5)) 1 &&
    ([p.old, p.new, p.link, p.oldBusy, p.newBusy].all fun q => !q.any s.inApic) &&
    flatTask (taskImage true s p.new) && flatTask (taskImage true (left kind sel d eip s) p.new) &&
    okIs (underCr3 (taskImage true s p.new).cr3 none (taskDescsPaged (taskImage true s p.new)) s) () s && s.namesGdt s.sys.tr.sel &&
    descIs v 8#16 code0 && descIs v 16#16 data0 && descIs (withStack 8#16 16#16 v) 16#16 data0

theorem qualifies_flat {im : TssImage} {s : State} (h : flatTask im = true) (h1 : descIs s 8#16 code0 = true)
    (h2 : descIs s 16#16 data0 = true) (h3 : descIs (withStack 8#16 16#16 s) 16#16 data0 = true) :
    ∃ bytes, Qualifies im s bytes (withData (withStack 8#16 16#16 s)) := by
  obtain ⟨cr3, eip, flags, gpr, es, cs, ss, ds, fs, gs, ldt, trap⟩ := im
  simp only [flatTask, Bool.and_eq_true, decide_eq_true_eq] at h
  obtain ⟨⟨⟨⟨⟨⟨⟨hl, rfl⟩, rfl⟩, rfl⟩, rfl⟩, hf⟩, hg⟩, -⟩ := h
  have hn : isNull (16#16 : Half) = false := by decide
  have hc : isNull (8#16 : Half) = false := by decide
  have hr : data0.dpl = rpl (8#16 : Half) := by decide
  have hr2 : data0.dpl = rpl (16#16 : Half) := by decide
  have hp : data0.conforming = true ∨ rpl (8#16 : Half) ≤ data0.dpl ∧ rpl (16#16 : Half) ≤ data0.dpl := by decide
  have ha {u : State} {d : Desc} (hd : d.typ.testBit 0 = true) : Accessed u 16#16 d d [] u := accessed_of hd
  exact ⟨_, .mk code0 code0 data0 data0 [⟨.ds, 16#16, data0⟩, ⟨.es, 16#16, data0⟩] [] [] _ s s s s (withCode 8#16 s)
    (withStack 8#16 16#16 s) _ (.inl ⟨hl, rfl⟩) hc (descAt_of h1) (by decide) hr (by decide) hn
    (descAt_of h2) (by decide) (by decide) hr hr2 (accessed_of (by decide)) (ha (by decide))
    (.desc _ _ _ _ _ _ _ _ hn (descAt_of h3) (by decide) (by decide) hp
      (.desc _ _ _ _ _ _ _ _ hn (descAt_of h3) (by decide) (by decide) hp (.null _ _ _ _ _ _ hf (.null _ _ _ _ _ _ hg (.nil _)))))
    (.more _ _ _ _ _ _ _ _ _ _ (ha (by decide)) (.more _ _ _ _ _ _ _ _ _ _ (ha (by decide)) (.nil _)))⟩

/-- The state that has switched, with the new task's T flag. -/
def switched (kind : SwitchKind) (sel : Half) (d : Desc) (eip : Word) (s : State) : State :=
  let w := withData (withStack 8#16 16#16 (arrived kind sel d eip s))
  let im := taskImage true (left kind sel d eip s) (placesOf kind sel d s).new
  { w with pend := { w.pend with taskTrap := w.pend.taskTrap || (im.trap && w.cfg.modelTf) } }
theorem switches_of {kind : SwitchKind} {sel : Half} {d : Desc} {eip : Word} {s : State} (ext : Bool)
    (h : switchIs kind sel d eip s = true) :
    ∃ written, Switches kind sel ⟨s.segs.cs.sel, eip, s.eflags.rf⟩ ext s (switched kind sel d eip s) written := by
  simp only [switchIs, Bool.and_eq_true, decide_eq_true_eq, Bool.not_eq_true', beq_iff_eq] at h
  obtain ⟨⟨⟨⟨⟨⟨⟨⟨⟨⟨⟨⟨⟨⟨⟨⟨⟨⟨⟨⟨⟨⟨⟨h1, h2⟩, h3⟩, h4⟩, h5⟩, h6⟩, h7⟩, h8⟩, h9⟩, h10⟩,
    a1⟩, a2⟩, a3⟩, a4⟩, a5⟩, a6⟩, hp⟩, f1⟩,
    f2⟩, hu⟩, hgdt⟩, q1⟩, q2⟩, q3⟩ := h
  obtain ⟨bytes, hq⟩ := qualifies_flat f2 q1 q2 q3
  have hpg : s.pg = false := by
    simp only [onPage, Bool.and_eq_true, Bool.not_eq_true'] at a1
    exact a1.1.1
  let p := placesOf kind sel d s
  have hv : bit (taskImage true s p.new).flags 17 = false := by
    simp only [flatTask, Bool.and_eq_true, Bool.not_eq_true'] at f1
    exact f1.2
  refine ⟨_, ⟨d, addrsFrom s.sys.tr.base.toNat 104, p.old, p.new, p.link, p.oldBusy, p.newBusy, bytes, none,
    taskImage true s p.new, taskImage true (left kind sel d eip s) p.new, s, s, s, s, s, s, s, s, left kind sel d eip s, _,
    h2, h3, descAt_of h1, h4, h5, ?_, ?_, ?_, ?_, ?_, ?_, ?_, ?_, ?_, plains_of hp, ?_, hv, ?_, ok_of hu, rfl, ?_, hq, rfl,
    rfl⟩⟩
  all_goals try rw [h6]
  all_goals try rw [h9]
  · rw [h7, decide_eq_true_eq]
  · exact h8
  · exact h10
  · exact linAddrs_of a1 _ _
  · exact linAddrs_of a2 _ _
  · exact linAddrs_of a3 _ _
  · cases kind <;> first | exact .inl ⟨by decide, linAddrs_of a4 _ _⟩ | exact .inr ⟨by decide, rfl, rfl⟩
  · cases kind <;> first | exact .inl ⟨by decide, hgdt, linAddrs_of a5 _ _⟩ | exact .inr ⟨by decide, rfl, rfl⟩
  · cases kind <;> first | exact .inl ⟨by decide, linAddrs_of a6 _ _⟩ | exact .inr ⟨rfl, rfl, rfl⟩
  · rw [if_neg (by rw [hpg]; simp)]

/-- S0 with two tasks, at level 0: the current one and the other have the same flat segments (V9.1). -/
def twoTasks : State :=
  put 0x1028 (words [0x60000067, 0x8B00, 0x61000067, 0x8900])
    (put 0x6100 (words [0x28, 0, 0, 0, 0, 0, 0, 0, 0x13000, 2, 0, 0, 0, 0, 0xA000, 0, 0, 0, 0x10, 8, 0x10, 0x10]) flat0)
/-- The second task's descriptor, available. -/
def task1 : Desc := ⟨0x61000067#32, 0x8900#32⟩
/-- The second task running, nested in the first. -/
def nested : State :=
  put 0x1028 (words [0x60000067, 0x8B00, 0x61000067, 0x8B00])
    (put 0x6020 (words [0x13000, 2, 0, 0, 0, 0, 0xA000, 0, 0, 0, 0x10, 8, 0x10, 0x10])
      { twoTasks with
        eflags := { flat0.eflags with nt := true }
        sys := { flat0.sys with tr := { tss with sel := 0x30#16, base := 0x6100#32 } } })
/-- A task gate to the second task, as the gate of vector 8. -/
def taskGate8 : State := put 0x2040 (words [0x300000, 0x8500]) twoTasks

theorem taskTarget_tss : TaskTarget twoTasks 0x30#16 0x30#16 twoTasks :=
  .tss task1 twoTasks rfl (descAt_of (by decide +kernel)) rfl (by decide +kernel) (by decide)
/-- A task switch to the second task. -/
theorem switches_task1 (kind : SwitchKind) (s : State) (eip : Word) (ext : Bool)
    (h : switchIs kind 0x30#16 task1 eip s = true) :
    ∃ t w, Switches kind 0x30#16 ⟨s.segs.cs.sel, eip, s.eflags.rf⟩ ext s t w := by
  obtain ⟨w, h⟩ := switches_of ext h
  exact ⟨_, w, h⟩
/-- The second task with an error code to take. -/
def atTask1 : State := switched .int 0x30#16 task1 0x10000#32 taskGate8
theorem switches_int : ∃ w, Switches .int 0x30#16 ⟨8#16, 0x10000#32, taskGate8.eflags.rf⟩ true taskGate8 atTask1 w :=
  switches_of true (by decide +kernel)
theorem pushes_task1 : pushIs (pushPlaces atTask1.segs.ss (.ss (zeroCode true)) (atTask1.cpl == 3)
    (if atTask1.sys.tr.attr.typ.getLsbD 3 then .d else .w) 1 atTask1.gpr.esp atTask1) atTask1 = true := by decide +kernel
/-- IRET out of a nested task. -/
theorem switches_back (sel : Half) (d : Desc) (s : State)
    (h : switchIs .iret sel d s.ctx.nextEip { s with pend := afterHandler s.pend } = true) :
    ∃ t w, Switches .iret sel ⟨s.segs.cs.sel, s.ctx.nextEip, s.eflags.rf⟩ false
      { s with pend := afterHandler s.pend } t w := by
  obtain ⟨w, h⟩ := switches_of false h
  exact ⟨_, w, h⟩
theorem taskGate_8 (ev : Event) (h : ev.vector = 8#8 ∧ ev.kind = .exception) :
    TaskGateFor ev taskGate8 ⟨0x300000#32, 0x8500#32⟩ taskGate8 := by
  obtain ⟨v, k, c, r⟩ := ev
  obtain ⟨rfl, rfl⟩ := h
  have hi : SysItem taskGate8 (taskGate8.sys.idtr.base + BitVec.ofNat 32 (8 * 8)) 8 0x850000300000 taskGate8 :=
    sysItem_of (by decide +kernel)
  have hl : 8 * 8 + 7 ≤ taskGate8.sys.idtr.limit.toNat := by decide +kernel
  exact ⟨_, by decide +kernel, hl, hi, rfl, rfl, by decide, fun h => (nomatch h), rfl⟩

theorem witness_FarJumpCompletes : ∃ (f : FarForm) (m : Mem) (s s1 t u v x : State) (sel : Half) (off : Word)
    (bytes b c : List Nat), s.lockOk false ∧
    (f.pointer s sel off s1 ∧ FarJumps s1 sel (s.osz.trunc off) t bytes) ∧
    ((FarForm.mem m).pointer s sel off s1 ∧ FarJumps s1 sel (s.osz.trunc off) u b) ∧
    (v.prot = true ∧ v.lockOk false ∧ (FarForm.ptr 0x30#16 0#32).pointer v 0x30#16 0#32 v ∧
      ∃ tss s2, TaskTarget v 0x30#16 tss s2 ∧ Switches .jmp tss ⟨v.segs.cs.sel, v.ctx.nextEip, v.eflags.rf⟩ false s2 x c) := by
  obtain ⟨x, c, hx⟩ := switches_task1 .jmp twoTasks twoTasks.ctx.nextEip false (by decide +kernel)
  have h : ∃ t bs, FarJumps (put 0x3004 (bytes [8]) flat0) 8#16 0#32 t bs :=
    ⟨_, _, .prot 8#16 code0 code0 0#32 .d [] _ _ (by decide +kernel)
      (.direct code0 _ (by decide) (descAt_of (by decide +kernel)) (by decide) (by decide +kernel) (by decide) (by decide))
      (accessed_of (by decide))⟩
  obtain ⟨t, bs, h⟩ := h
  let s := put 0x3004 (bytes [8]) flat0
  exact ⟨.ptr 8#16 0#32, m3, s, s, t, t, twoTasks, x, 8#16, 0#32, bs, bs, c, lok (by decide +kernel), ⟨⟨rfl, rfl, rfl⟩, h⟩,
    ⟨⟨a4 ++ [0x3004, 0x3005], ok_of (by decide +kernel), plain_mem (by decide +kernel), by decide +kernel, by decide +kernel⟩,
      h⟩,
    ⟨by decide +kernel, lok (by decide +kernel), ⟨rfl, rfl, rfl⟩, _, _, taskTarget_tss, hx⟩⟩

theorem witness_FarCallCompletes :
    (∃ (f : FarForm) (s s1 t : State) (sel : Half) (off : Word) (bytes : List Nat),
      s.lockOk false ∧ f.pointer s sel off s1 ∧ FarCalls s1 sel (s.osz.trunc off) t bytes) ∧
    (∃ (s t s2 : State) (tss : Half) (bytes : List Nat), s.lockOk false ∧ s.prot = true ∧
      TaskTarget s 0x30#16 tss s2 ∧ Switches .call tss ⟨s.segs.cs.sel, s.ctx.nextEip, s.eflags.rf⟩ false s2 t bytes) := by
  obtain ⟨t, bytes, h⟩ := farCalls_inner
  obtain ⟨u, c, hu⟩ := switches_task1 .call twoTasks twoTasks.ctx.nextEip false (by decide +kernel)
  exact ⟨⟨.ptr 0x33#16 0#32, flat3, flat3, t, 0x33#16, 0#32, bytes, lok, ⟨rfl, rfl, rfl⟩, h⟩,
    ⟨twoTasks, u, _, _, c, lok (by decide +kernel), by decide +kernel, taskTarget_tss, hu⟩⟩

theorem witness_IretCompletes :
    (∃ (s t : State) (image : Word) (bytes : List Nat), s.lockOk false ∧
      (s.pe = true → s.eflags.nt = false ∧ s.eflags.vm = false) ∧
      ¬ (s.pe = true ∧ s.osz = .d ∧ bit image 17 = true ∧ s.cpl = 0) ∧
      FarReturns s (fun a b => StackItem a s.osz (2 * s.osz.bytes) image b) s.osz 3 0 t bytes) ∧
    (∃ (s s1 t : State) (link : Nat) (bytes : List Nat), s.lockOk false ∧ s.prot = true ∧ s.eflags.nt = true ∧
      SysItem s s.sys.tr.base 2 link s1 ∧ Switches .iret (BitVec.ofNat 16 link) ⟨s.segs.cs.sel, s.ctx.nextEip, s.eflags.rf⟩ false
        { s1 with pend := afterHandler s1.pend } t bytes) := by
  obtain ⟨t, b, h⟩ := farReturns_outer (more := iretMore 0x202#32) (stackItem_of (by decide +kernel)) 3 0 rfl
  obtain ⟨u, c, hu⟩ := switches_back (BitVec.ofNat 16 0x28) ⟨0x60000067#32, 0x8B00#32⟩ nested (by decide +kernel)
  exact ⟨⟨framed3, t, 0x202#32, b, lok (by decide +kernel), by decide +kernel, by decide +kernel, h⟩,
    ⟨nested, nested, u, 0x28, c, lok (by decide +kernel), by decide +kernel, rfl, sysItem_of (by decide +kernel), hu⟩⟩

/-! Events. -/

/-- The gate of a vector. -/
def gateAt (v : Nat) : Desc := ⟨BitVec.ofNat 32 (0x80000 + 16 * v), if v = 3 ∨ v = 4 then 0x8EE00#32 else 0x88E00#32⟩
/-- A gate of the IDT leads to the flat code segment, with paging off. -/
def gateIs (ev : Event) (s : State) : Bool :=
  let g := gateAt ev.vector.toNat
  s.prot && decide (8 * ev.vector.toNat + 7 ≤ s.sys.idtr.limit.toNat) &&
    sysIs s (s.sys.idtr.base + BitVec.ofNat 32 (8 * ev.vector.toNat)) 8 (g.lo.toNat + 2 ^ 32 * g.hi.toNat) && !g.s &&
    decide (g.typ ∈ [6, 7, 14, 15]) && decide (ev.kind = .soft → s.cpl ≤ g.dpl) && g.p && !isNull g.gateSel &&
    descIs s g.gateSel code0
theorem gateFor_of {ev : Event} {s : State} (h : gateIs ev s = true) : GateFor ev s (gateAt ev.vector.toNat) code0 s := by
  simp only [gateIs, Bool.and_eq_true, decide_eq_true_eq, Bool.not_eq_true'] at h
  obtain ⟨⟨⟨⟨⟨⟨⟨⟨h1, h2⟩, h3⟩, h4⟩, h5⟩, h6⟩, h7⟩, h8⟩, h9⟩ := h
  have hl := (gateAt ev.vector.toNat).lo.isLt
  have hh := (gateAt ev.vector.toNat).hi.isLt
  refine ⟨_, s, h1, h2, sysItem_of h3, ?_, h4, h5, h6, h7, h8, descAt_of h9, rfl, Nat.zero_le _, rfl⟩
  generalize gateAt ev.vector.toNat = g at *
  obtain ⟨lo, hi⟩ := g
  dsimp only at hl hh ⊢
  congr 1 <;> apply BitVec.eq_of_toNat_eq <;> rw [BitVec.toNat_ofNat] <;> omega
/-- Delivery at level 0 through the gate of a vector. -/
theorem delivers_same {ev : Event} {s : State} (esp : Word) (ps : List (List Nat))
    (h : (gateIs ev s && decide (s.cpl = 0) && okIs (pushPlaces s.segs.ss (.ss (zeroCode ev.ext)) (s.cpl == 3)
        (if (gateAt ev.vector.toNat).typ.testBit 3 then .d else .w) (ev.items s).length s.gpr.esp s) (ps, esp) s &&
      decide ((gateAt ev.vector.toNat).gateOff.toNat ≤ code0.limit) && ps.all fun p => !p.any s.inApic) = true) :
    ∃ t bytes, Delivers ev s t bytes := by
  simp only [Bool.and_eq_true, decide_eq_true_eq] at h
  obtain ⟨⟨⟨⟨h1, h2⟩, h3⟩, h4⟩, h5⟩ := h
  exact ⟨_, _, .same _ code0 code0 ps esp [] s s s (gateFor_of h1) (.inr (by rw [h2]; decide)) (ok_of h3) h4
    (accessed_of (by decide)) (plains_of h5)⟩
/-- V10.4, to level 0 on the stack of the TSS. -/
theorem delivers_inner : ∃ t bytes, Delivers ⟨3#8, .soft, none, ⟨0x1B#16, 0x401002#32, false⟩⟩ flat3 t bytes :=
  ⟨_, _, .inner (gateAt 3) code0 code0 0x10#16 0x9000#32 0x8FEC#32 _ (below 0x9000 5) [] [] flat3 flat3 flat3 flat3 flat3
    (gateFor_of (by decide +kernel)) (by decide) (by decide) tssPointer_flat3 stackSegment_flat3
    (ok_of (by decide +kernel)) (accessed_of (by decide)) (plains_of (by decide +kernel))⟩
theorem delivers_real : ∃ t bytes, Delivers ⟨3#8, .soft, none, ⟨0#16, 0x102#32, false⟩⟩ real0 t bytes :=
  ⟨_, _, .real 0 [[0x7FFE, 0x7FFF], [0x7FFC, 0x7FFD], [0x7FFA, 0x7FFB]] 0x7FFA#32 real0 real0 (by decide) (by decide)
    (sysItem_of (by decide +kernel)) (ok_of (by decide +kernel)) (by decide) (plains_of (by decide +kernel))⟩
theorem witness_EventDelivery :
    (∃ s t bytes, Delivers ⟨13#8, .exception, some 0#32, ⟨8#16, 0x10000#32, true⟩⟩ s t bytes ∧ s.cpl = 0) ∧
    (∃ s t bytes, Delivers ⟨3#8, .soft, none, ⟨0x1B#16, 0x401002#32, false⟩⟩ s t bytes ∧ s.cpl = 3) ∧
    (∃ s t bytes, Delivers ⟨3#8, .soft, none, ⟨0#16, 0x102#32, false⟩⟩ s t bytes ∧ s.pe = false) ∧
    (∀ code ∈ [none, some 0#32], ∃ (ev : Event) (g : Desc) (s s1 t u : State) (bytes pas : List Nat) (esp : Word),
      ev.code = code ∧ TaskGateFor ev s g s1 ∧ Switches .int g.gateSel ev.resume ev.ext s1 t bytes ∧
      pushPlaces t.segs.ss (.ss (zeroCode ev.ext)) (t.cpl == 3) (if t.sys.tr.attr.typ.getLsbD 3 then .d else .w) 1
        t.gpr.esp t = .ok ([pas], esp) u ∧ u.plain pas) := by
  obtain ⟨t, b, h⟩ := delivers_same (ev := ⟨13#8, .exception, some 0#32, ⟨8#16, 0x10000#32, true⟩⟩) (s := flat0) 0x7FF0#32
    (below 0x8000 4) (by decide +kernel)
  obtain ⟨t', b', h'⟩ := delivers_inner
  obtain ⟨t'', b'', h''⟩ := delivers_real
  obtain ⟨c, hu⟩ := switches_int
  obtain ⟨pas, esp, x, hp, ha⟩ := pushes_of pushes_task1
  exact ⟨⟨flat0, t, b, h, by decide⟩, ⟨flat3, t', b', h', by decide⟩, ⟨real0, t'', b'', h'', by decide⟩, fun code _ =>
    ⟨⟨8#8, .exception, code, ⟨8#16, 0x10000#32, taskGate8.eflags.rf⟩⟩, _, _, _, _, x, c, pas, esp, rfl, taskGate_8 _ ⟨rfl, rfl⟩,
      hu, hp, ha⟩⟩
theorem witness_SoftwareInterruptsComplete :
    (∃ (v : Byte) (i : Instr) (s t : State) (bytes : List Nat), s.lockOk false ∧ (i = .int3 ∧ v = 3#8) ∧
      Delivers ⟨v, .soft, none, ⟨s.segs.cs.sel, s.ctx.nextEip, s.eflags.rf⟩⟩ s t bytes) ∧
    (∃ (v : Byte) (i : Instr) (s t : State) (bytes : List Nat), s.lockOk false ∧
      (i = .into ∧ v = 4#8 ∧ s.eflags.ovf = true) ∧ Delivers ⟨v, .soft, none, ⟨s.segs.cs.sel, s.ctx.nextEip, s.eflags.rf⟩⟩ s t bytes) ∧
    (∃ s : State, s.lockOk false ∧ s.eflags.ovf = false) := by
  let s1 : State := { flat0 with eflags := { flat0.eflags with ovf := true } }
  obtain ⟨t, b, h⟩ := delivers_same (ev := ⟨3#8, .soft, none, ⟨flat0.segs.cs.sel, flat0.ctx.nextEip, flat0.eflags.rf⟩⟩) (s := flat0) 0x7FF4#32
    (below 0x8000 3) (by decide +kernel)
  obtain ⟨t', b', h'⟩ := delivers_same (ev := ⟨4#8, .soft, none, ⟨s1.segs.cs.sel, s1.ctx.nextEip, s1.eflags.rf⟩⟩) (s := s1) 0x7FF4#32
    (below 0x8000 3) (by decide +kernel)
  exact ⟨⟨3#8, .int3, flat0, t, b, lok, ⟨rfl, rfl⟩, h⟩, ⟨4#8, .into, s1, t', b', lok, ⟨rfl, rfl, rfl⟩, h'⟩,
    ⟨flat0, lok, rfl⟩⟩
/-- The bounds 0 and 4, tested with 4, 5 and -1. -/
def bounds (x : Word) : State := put 0x3004 (bytes [4]) (withEax x flat0)
theorem witness_BoundChecks : ∀ x ∈ [4#32, 5#32, 0xFFFFFFFF#32], ∃ (s s1 s2 : State) (p q : List Nat), s.lockOk false ∧
    memAddrs m3 s.osz.bytes s.osz.bytes .read s = .ok p s1 ∧
    memAddrsAt m3 (BitVec.ofNat 32 s.osz.bytes) s.osz.bytes s.osz.bytes .read s1 = .ok q s2 ∧ s2.plain p ∧ s2.plain q ∧
    (if x = 4#32 then s.signed (BitVec.ofNat 32 (s2.valueAt p)) ≤ s.signed (s.gpr.read s.osz .eax) ∧
        s.signed (s.gpr.read s.osz .eax) ≤ s.signed (BitVec.ofNat 32 (s2.valueAt q))
      else s.signed (s.gpr.read s.osz .eax) < s.signed (BitVec.ofNat 32 (s2.valueAt p)) ∨
        s.signed (BitVec.ofNat 32 (s2.valueAt q)) < s.signed (s.gpr.read s.osz .eax)) := by
  intro x hx
  simp only [List.mem_cons, List.not_mem_nil, or_false] at hx
  obtain rfl | rfl | rfl := hx
  · exact ⟨bounds 4#32, bounds 4#32, bounds 4#32, a4, addrsFrom 0x3004 4, lok (by decide +kernel), ok_of (by decide +kernel),
      ok_of (by decide +kernel), plain_mem (by decide +kernel), plain_mem (by decide +kernel), by decide +kernel⟩
  · exact ⟨bounds 5#32, bounds 5#32, bounds 5#32, a4, addrsFrom 0x3004 4, lok (by decide +kernel), ok_of (by decide +kernel),
      ok_of (by decide +kernel), plain_mem (by decide +kernel), plain_mem (by decide +kernel), by decide +kernel⟩
  · exact ⟨bounds 0xFFFFFFFF#32, bounds 0xFFFFFFFF#32, bounds 0xFFFFFFFF#32, a4, addrsFrom 0x3004 4, lok (by decide +kernel), ok_of (by decide +kernel),
      ok_of (by decide +kernel), plain_mem (by decide +kernel), plain_mem (by decide +kernel), by decide +kernel⟩
theorem witness_AlwaysRaise :
    (∃ (s t : State) (bytes : List Nat), Delivers ⟨6#8, .exception, none, ⟨s.segs.cs.sel, s.eip, true⟩⟩ s t bytes) ∧
    (∃ (s t : State) (bytes : List Nat), s.lockOk false ∧ Delivers ⟨13#8, .exception, some 0#32, ⟨s.segs.cs.sel, s.eip, true⟩⟩ s t bytes) := by
  obtain ⟨t, b, h⟩ := delivers_same (ev := ⟨13#8, .exception, some 0#32, ⟨flat0.segs.cs.sel, flat0.eip, true⟩⟩) (s := flat0) 0x7FF0#32
    (below 0x8000 4) (by decide +kernel)
  obtain ⟨t', b', h'⟩ := delivers_same (ev := ⟨6#8, .exception, none, ⟨flat0.segs.cs.sel, flat0.eip, true⟩⟩) (s := flat0) 0x7FF4#32
    (below 0x8000 3) (by decide +kernel)
  exact ⟨⟨flat0, t', b', h'⟩, ⟨flat0, t, b, lok, h⟩⟩
/-! System registers. -/

/-- The MSRs of V8.6. -/
def fast (s : State) : State :=
  { s with msr := { s.msr with sysenterCs := 8#64, sysenterEsp := 0x9000#64, sysenterEip := 0x12000#64 } }
/-- A processor without a feature. -/
def without (f : Config.Params → Config.Params) (s : State) : State := { s with cfg := f s.cfg }
theorem witness_SysenterCompletes :
    (∃ s : State, s.lockOk false ∧ s.cfg.hasSep = false) ∧
    (∃ s : State, s.lockOk false ∧ s.cfg.hasSep = true ∧ s.pe = false) ∧
    (∃ s : State, s.lockOk false ∧ s.cfg.hasSep = true ∧ isNull (s.msr.sysenterCs.setWidth 16) = true) ∧
    (∃ s : State, s.lockOk false ∧ s.cfg.hasSep = true ∧ s.pe = true ∧ isNull (s.msr.sysenterCs.setWidth 16) = false) :=
  ⟨⟨without (fun c => { c with hasSep := false }) flat0, lok, rfl⟩, ⟨real0, lok, rfl, by decide⟩,
    ⟨flat0, lok, rfl, by decide⟩, ⟨fast flat3, lok, rfl, by decide, by decide⟩⟩
theorem witness_SysexitCompletes :
    (∃ s : State, s.lockOk false ∧ s.cfg.hasSep = false) ∧
    (∃ s : State, s.lockOk false ∧ s.cfg.hasSep = true ∧ s.pe = false) ∧
    (∃ s : State, s.lockOk false ∧ s.cfg.hasSep = true ∧ s.cpl ≠ 0) ∧
    (∃ s : State, s.lockOk false ∧ s.cfg.hasSep = true ∧ isNull (s.msr.sysenterCs.setWidth 16) = true) ∧
    (∃ s : State, s.lockOk false ∧ s.cfg.hasSep = true ∧ s.pe = true ∧ s.cpl = 0 ∧
      isNull (s.msr.sysenterCs.setWidth 16) = false) :=
  ⟨⟨without (fun c => { c with hasSep := false }) flat0, lok, rfl⟩, ⟨real0, lok, rfl, by decide⟩,
    ⟨fast flat3, lok, rfl, by decide⟩, ⟨flat0, lok, rfl, by decide⟩, ⟨fast flat0, lok, rfl, by decide, by decide, by decide⟩⟩

/-- The prefix 66H read. -/
def short (s : State) : State := { s with ctx := { s.ctx with pfx := { s.ctx.pfx with opsize := true } } }
theorem witness_DescriptorTableRegisters :
    (∃ (m : Mem) (s s1 s2 : State) (p q : List Nat), s.lockOk false ∧ s.cpl = 0 ∧ memAddrs m 2 2 .read s = .ok p s1 ∧
      memAddrsAt m 2#32 4 4 .read s1 = .ok q s2 ∧ s2.plain p ∧ s2.plain q) ∧
    (∃ (m : Mem) (s s1 s2 : State) (p q : List Nat), s.lockOk false ∧ memAddrs m 2 2 .write s = .ok p s1 ∧
      memAddrsAt m 2#32 4 4 .write s1 = .ok q s2 ∧ s2.plain p ∧ s2.plain q ∧ s.osz = .d) ∧
    (∃ (m : Mem) (s s1 s2 : State) (p q : List Nat), s.lockOk false ∧ memAddrs m 2 2 .write s = .ok p s1 ∧
      memAddrsAt m 2#32 4 4 .write s1 = .ok q s2 ∧ s2.plain p ∧ s2.plain q ∧ s.osz = .w) :=
  ⟨⟨m3, flat0, flat0, flat0, [0x3000, 0x3001], addrsFrom 0x3002 4, lok, by decide, ok_of (by decide +kernel),
      ok_of (by decide +kernel), plain_mem (by decide +kernel), plain_mem (by decide +kernel)⟩,
    ⟨m3, flat3, flat3, flat3, [0x3000, 0x3001], addrsFrom 0x3002 4, lok, ok_of (by decide +kernel),
      ok_of (by decide +kernel), plain_mem (by decide +kernel), plain_mem (by decide +kernel), by decide⟩,
    ⟨m3, short flat0, short flat0, short flat0, [0x3000, 0x3001], addrsFrom 0x3002 4, lok, ok_of (by decide +kernel),
      ok_of (by decide +kernel), plain_mem (by decide +kernel), plain_mem (by decide +kernel), by decide⟩⟩

theorem witness_LoadLdtrAndTrComplete :
    (∃ s : State, s.lockOk false ∧ s.prot = true ∧ s.cpl = 0 ∧ place .w .read (.reg .eax) s = .ok (.reg .w .eax) s ∧
      isNull ((s.gpr.read .w .eax).setWidth 16) = true) ∧
    (∃ (s : State) (sel : Half) (d : Desc), s.lockOk false ∧ s.prot = true ∧ s.cpl = 0 ∧
      place .w .read (.reg .eax) s = .ok (.reg .w .eax) s ∧ sel = (s.gpr.read .w .eax).setWidth 16 ∧ isNull sel = false ∧
      sel.getLsbD 2 = false ∧ DescAt s sel d s ∧ d.isSys 2 = true ∧ d.p = true) ∧
    (∃ (s : State) (sel : Half) (d : Desc) (lin : Word) (b : List Nat), s.lockOk false ∧ s.prot = true ∧ s.cpl = 0 ∧
      place .w .read (.reg .eax) s = .ok (.reg .w .eax) s ∧ sel = (s.gpr.read .w .eax).setWidth 16 ∧ isNull sel = false ∧
      sel.getLsbD 2 = false ∧ DescAt s sel d s ∧ d.isSys 9 = true ∧ d.p = true ∧ s.descAddr sel = some lin ∧
      linAddrs (lin + 5#32) 1 .write false s = .ok b s ∧ s.plain b) :=
  ⟨⟨flat0, lok, by decide, by decide, rfl, by decide⟩,
    ⟨withEax 0x48#32 flat0, 0x48#16, ⟨0x7000000F#32, 0x8200#32⟩, lok, by decide, by decide, rfl, by decide, by decide,
      by decide, descAt_of (by decide +kernel), by decide, by decide⟩,
    ⟨withEax 0x28#32 flat0, 0x28#16, ⟨0x60000067#32, 0x8900#32⟩, 0x1028#32, [0x102D], lok, by decide, by decide, rfl,
      by decide, by decide, by decide, descAt_of (by decide +kernel), by decide, by decide, by decide +kernel,
      ok_of (by decide +kernel), plain_mem (by decide +kernel)⟩⟩

theorem witness_ReadControlRegister : ∃ s : State, s.lockOk false ∧ s.cpl = 0 := ⟨flat0, lok, by decide⟩

/-- The terms of WriteControlRegister. -/
abbrev legal0 (v : Word) : Prop := (bit v 31 = true → bit v 0 = true) ∧ (bit v 29 = true → bit v 30 = true)
abbrev legal4 (s : State) : Prop :=
  let v := s.gpr.get .eax
  v.toNat < 2 ^ 11 ∧ (bit v 2 = true → s.cfg.hasTsc = true) ∧ (bit v 4 = true → s.cfg.hasPse = true) ∧
    (bit v 5 = true → s.cfg.hasPae = true) ∧ (bit v 6 = true → s.cfg.hasMce = true) ∧
    (bit v 7 = true → s.cfg.hasPge = true) ∧ (bit v 9 = true ∨ bit v 10 = true → s.cfg.hasSse = true)
def load0 (s : State) : Bool := bit (s.gpr.get .eax) 31 && !s.pg && bit s.sys.cr4 5
def load4 (s : State) : Bool := bit (s.gpr.get .eax) 5 && !bit s.sys.cr4 5 && s.pg
abbrev seen (s : State) (cr3 : Word) : Prop := ∀ k, k < 4 → s.inApic (cr3.toNat / 2 ^ 5 * 2 ^ 5 + 8 * k) = false
abbrev pdpteBad (s : State) (cr3 : Word) (k : Nat) : Prop :=
  let e := s.physRead (cr3.toNat / 2 ^ 5 * 2 ^ 5 + 8 * k) 8
  e.testBit 0 = true ∧ (2 ^ 36 ≤ e ∨ e / 2 ^ 5 % 2 ^ 4 ≠ 0 ∨ e / 2 % 2 ^ 2 ≠ 0)
/-- A present PDPTE at address 8 with a reserved bit set. -/
def badPdptes : State := put 8 (words [3]) flat0
/-- Writes of CR0 with a forbidden combination, without a read of the PDPTEs, with one, with a bad one; of CR3 and CR4
likewise. -/
theorem witness_WriteControlRegister :
    (∃ s : State, s.lockOk false ∧ s.cpl = 0 ∧ ¬ (bit (s.gpr.get .eax) 31 = true → bit (s.gpr.get .eax) 0 = true)) ∧
    (∃ s : State, s.lockOk false ∧ s.cpl = 0 ∧ ¬ (bit (s.gpr.get .eax) 29 = true → bit (s.gpr.get .eax) 30 = true)) ∧
    (∃ s : State, s.lockOk false ∧ s.cpl = 0 ∧ legal0 (s.gpr.get .eax) ∧ load0 s = false) ∧
    (∃ s : State, s.lockOk false ∧ s.cpl = 0 ∧ legal0 (s.gpr.get .eax) ∧ load0 s = true ∧ seen s s.sys.cr3 ∧
      ∀ k, k < 4 → ¬ pdpteBad s s.sys.cr3 k) ∧
    (∃ s : State, s.lockOk false ∧ s.cpl = 0 ∧ legal0 (s.gpr.get .eax) ∧ load0 s = true ∧ seen s s.sys.cr3 ∧
      ∃ k, k < 4 ∧ pdpteBad s s.sys.cr3 k) ∧
    (∃ s : State, s.lockOk false ∧ s.cpl = 0 ∧ (s.pg && bit s.sys.cr4 5) = true ∧ seen s (s.gpr.get .eax) ∧
      ∀ k, k < 4 → ¬ pdpteBad s (s.gpr.get .eax) k) ∧
    (∃ s : State, s.lockOk false ∧ s.cpl = 0 ∧ (s.pg && bit s.sys.cr4 5) = true ∧ seen s (s.gpr.get .eax) ∧
      ∃ k, k < 4 ∧ pdpteBad s (s.gpr.get .eax) k) ∧
    (∃ s : State, s.lockOk false ∧ s.cpl = 0 ∧ (s.pg && bit s.sys.cr4 5) = false) ∧
    (∃ s : State, s.lockOk false ∧ s.cpl = 0 ∧ (s.gpr.get .eax).toNat = 2 ^ 11) ∧
    (∃ s : State, s.lockOk false ∧ s.cpl = 0 ∧ bit (s.gpr.get .eax) 2 = true ∧ s.cfg.hasTsc = false) ∧
    (∃ s : State, s.lockOk false ∧ s.cpl = 0 ∧ legal4 s ∧ load4 s = false) ∧
    (∃ s : State, s.lockOk false ∧ s.cpl = 0 ∧ legal4 s ∧ load4 s = true ∧ seen s s.sys.cr3 ∧
      ∀ k, k < 4 → ¬ pdpteBad s s.sys.cr3 k) ∧
    (∃ s : State, s.lockOk false ∧ s.cpl = 0 ∧ legal4 s ∧ load4 s = true ∧ seen s s.sys.cr3 ∧
      ∃ k, k < 4 ∧ pdpteBad s s.sys.cr3 k) ∧
    (∃ s s1 p, State.lockOk s false ∧ s.cpl = 0 ∧ place .w .read (.mem m3) s = .ok p s1 ∧ p.plain s1) := by
  refine ⟨⟨withEax 0x80000000#32 flat0, ?_⟩, ⟨withEax 0x20000011#32 flat0, ?_⟩, ⟨withEax 0x80000001#32 flat0, ?_⟩,
    ⟨withEax 0xE0000001#32 (withCr 0x11#32 0x20#32 flat0), ?_⟩,
    ⟨withEax 0xE0000001#32 (withCr 0x11#32 0x20#32 badPdptes), ?_⟩,
    ⟨withEax 0x4000#32 (withCr 0x80000011#32 0x20#32 flat0), ?_⟩,
    ⟨withEax 0x1F#32 (withCr 0x80000011#32 0x20#32 badPdptes), ?_⟩,
    ⟨flat0, ?_⟩, ⟨withEax 0x800#32 flat0, ?_⟩, ⟨without (fun c => { c with hasTsc := false }) (withEax 4#32 flat0), ?_⟩,
    ⟨withEax 0x7FF#32 flat0, ?_⟩,
    ⟨withEax 0x20#32 (withCr 0x80000011#32 0#32 flat0), ?_⟩,
    ⟨withEax 0x20#32 (withCr 0x80000011#32 0#32 badPdptes), ?_⟩,
    ⟨flat0, flat0, .mem [0x3000, 0x3001], lok, by decide, ok_of (by decide +kernel), plain_mem (by decide +kernel)⟩⟩
  all_goals unfold State.lockOk
  all_goals decide +kernel

theorem witness_DebugRegisterMoves :
    (∃ s : State, s.lockOk false ∧ s.cpl = 0 ∧ bit s.sys.cr4 3 = true) ∧
    (∃ s : State, s.lockOk false ∧ s.cpl = 0 ∧ ¬ bit s.sys.cr4 3 = true) :=
  ⟨⟨withCr 0x11#32 8#32 flat0, lok, by decide, by decide⟩, ⟨flat0, lok, by decide, by decide⟩⟩

/-- EFLAGS from an image. -/
def withFl (w : Word) (s : State) : State := { s with eflags := Eflags.ofWord w }
theorem witness_InterruptFlagInstructions :
    (∃ s : State, s.lockOk false ∧ s.cpl ≤ s.iopl ∧ s.cpl = 3) ∧
    (∃ s : State, s.lockOk false ∧ s.iopl < s.cpl ∧ s.prot = true ∧ bit s.sys.cr4 1 = true ∧ s.cpl = 3 ∧
      s.eflags.vip = false) ∧
    (∃ s : State, s.lockOk false ∧ s.iopl < s.cpl ∧ s.prot = true ∧ bit s.sys.cr4 1 = true ∧ s.cpl = 3 ∧
      s.eflags.vip = true) ∧
    (∃ s : State, s.lockOk false ∧ s.iopl < s.cpl ∧ ¬ (s.prot = true ∧ bit s.sys.cr4 1 = true ∧ s.cpl = 3)) ∧
    (∃ (s : State) (q : Request), s.lockOk false ∧ s.act.shadow = .sti ∧ s.request = some q) :=
  ⟨⟨withFl 0x3002#32 flat3, lok, by decide, by decide⟩,
    ⟨withCr 0x11#32 2#32 flat3, lok, by decide, by decide, by decide, by decide, by decide⟩,
    ⟨withFl 0x100002#32 (withCr 0x11#32 2#32 flat3), lok, by decide, by decide, by decide, by decide, by decide⟩,
    ⟨flat3, lok, by decide, by decide⟩,
    ⟨{ flat0 with act := { flat0.act with shadow := .sti }, pend := { flat0.pend with nmi := true } }, .nmi, lok, rfl,
      by decide⟩⟩

theorem witness_MsrAccess :
    (∃ s : State, s.lockOk false ∧ s.cfg.hasTsc = true ∧ bit s.sys.cr4 2 = true ∧ s.cpl = 0) ∧
    (∃ s : State, s.lockOk false ∧ s.cfg.hasTsc = true ∧ bit s.sys.cr4 2 = true ∧ s.cpl ≠ 0) ∧
    (∃ s : State, s.lockOk false ∧ s.cfg.hasMsr = true ∧ s.cpl = 0 ∧ s.gpr.ecx = 0x174#32 ∧ s.cfg.hasSep = false) ∧
    (∃ s : State, s.lockOk false ∧ s.cfg.hasMsr = true ∧ s.cpl = 0 ∧ s.gpr.ecx ∉ [0x10#32, 0x1B#32, 0x174#32, 0x175#32, 0x176#32] ∧
      s.msr.extra.lookup s.gpr.ecx = none) ∧
    (∃ s : State, s.lockOk false ∧ s.cfg.hasMsr = true ∧ s.cpl = 0 ∧ s.gpr.ecx = 0x10#32 ∧ s.cfg.hasTsc = true ∧
      s.cfg.family = .p6) ∧
    (∃ s : State, s.lockOk false ∧ s.cfg.hasMsr = true ∧ s.cpl = 0 ∧ s.gpr.ecx = 0x1B#32 ∧ s.cfg.hasApic = true ∧
      (s.cfg.family = .p6 ∨ s.cfg.family = .p4Xeon) ∧
      (s.gpr.edx ++ s.gpr.eax) &&& 0xFFFFFFF0000006FF#64 ≠ 0#64) ∧
    (∃ s : State, s.lockOk false ∧ s.cfg.hasMsr = true ∧ s.cpl = 0 ∧ s.gpr.ecx = 0x1B#32 ∧ s.cfg.hasApic = true ∧
      (s.cfg.family = .p6 ∨ s.cfg.family = .p4Xeon) ∧
      (s.gpr.edx ++ s.gpr.eax) &&& 0xFFFFFFF0000006FF#64 = 0#64 ∧
      ((s.gpr.edx ++ s.gpr.eax).getLsbD 11 = true → s.apic.disabled = false)) ∧
    (∃ s : State, s.lockOk false ∧ s.cfg.hasMsr = true ∧ s.cpl = 0 ∧ s.cfg.hasSep = true ∧ s.gpr.ecx = 0x174#32) ∧
    (∃ (s : State) (q : Quad), s.lockOk false ∧ s.cfg.hasMsr = true ∧ s.cpl = 0 ∧
      s.gpr.ecx ∉ [0x10#32, 0x1B#32, 0x174#32, 0x175#32, 0x176#32] ∧ s.msr.extra.lookup s.gpr.ecx = some q) ∧
    (∃ s : State, s.lockOk false ∧ min s.cfg.maxLeaf s.gpr.eax.toNat = 0) ∧
    (∃ s : State, s.lockOk false ∧ min s.cfg.maxLeaf s.gpr.eax.toNat = 1) ∧
    (∃ s : State, s.lockOk false ∧ 5 < s.gpr.eax.toNat ∧ min s.cfg.maxLeaf s.gpr.eax.toNat = 5) ∧
    (∃ s : State, s.lockOk false ∧ min s.cfg.maxLeaf s.gpr.eax.toNat ∉ [0, 1, 5]) :=
  ⟨⟨withCr 0x11#32 4#32 flat0, lok, by decide, by decide, by decide⟩,
    ⟨withCr 0x11#32 4#32 flat3, lok, by decide, by decide, by decide⟩,
    ⟨without (fun c => { c with hasSep := false }) (withEcx 0x174#32 flat0), lok, by decide, by decide, by decide, by decide⟩,
    ⟨flat0, lok, by decide, by decide, by decide, by decide⟩,
    ⟨without (fun c => { c with family := .p6 }) (withEcx 0x10#32 flat0), lok, by decide, by decide, by decide, by decide,
      by decide⟩,
    ⟨withEax 1#32 (withEcx 0x1B#32 flat0), lok, by decide, by decide, by decide, by decide, by decide, by decide⟩,
    ⟨withEax 0xFEE00900#32 (withEcx 0x1B#32 flat0), lok, by decide, by decide, by decide, by decide, by decide, by decide,
      by decide⟩,
    ⟨withEcx 0x174#32 flat0, lok, by decide, by decide, by decide, by decide⟩,
    ⟨withEcx 0x179#32 { flat0 with msr := { flat0.msr with extra := [(0x179#32, 5#64)] } }, 5#64, lok, by decide, by decide,
      by decide, by decide⟩,
    ⟨flat0, lok, by decide⟩, ⟨withEax 1#32 flat0, lok, by decide⟩, ⟨withEax 6#32 flat0, lok, by decide, by decide⟩,
    ⟨withEax 2#32 flat0, lok, by decide⟩⟩

theorem witness_DescriptorQueriesComplete :
    (∃ s : State, s.lockOk false ∧ s.prot = true ∧ place .w .read (.reg .ecx) s = .ok (.reg .w .ecx) s ∧
      isNull ((s.gpr.read .w .ecx).setWidth 16) = true) ∧
    (∃ s : State, s.lockOk false ∧ s.prot = true ∧ place .w .read (.reg .ecx) s = .ok (.reg .w .ecx) s ∧
      s.descAddr ((s.gpr.read .w .ecx).setWidth 16) = none) ∧
    (∃ (s : State) (d : Desc) (sel : Half), s.lockOk false ∧ s.prot = true ∧
      place .w .read (.reg .ecx) s = .ok (.reg .w .ecx) s ∧ sel = (s.gpr.read .w .ecx).setWidth 16 ∧ isNull sel = false ∧
      DescAt s sel d s ∧ d.s = true ∧ s.cpl ≤ d.dpl ∧ rpl sel ≤ d.dpl ∧ s.osz = .d) ∧
    (∃ (s : State) (d : Desc) (sel : Half), s.lockOk false ∧ s.prot = true ∧
      place .w .read (.reg .ecx) s = .ok (.reg .w .ecx) s ∧ sel = (s.gpr.read .w .ecx).setWidth 16 ∧ isNull sel = false ∧
      DescAt s sel d s ∧ d.s = true ∧ d.conforming = false ∧ ¬ s.cpl ≤ d.dpl) ∧
    (∃ (s : State) (d : Desc) (sel : Half), s.lockOk false ∧ s.prot = true ∧
      place .w .read (.reg .ecx) s = .ok (.reg .w .ecx) s ∧ sel = (s.gpr.read .w .ecx).setWidth 16 ∧ isNull sel = false ∧
      DescAt s sel d s ∧ d.s = false ∧ d.typ = 12 ∧ s.cpl ≤ d.dpl ∧ rpl sel ≤ d.dpl ∧ s.osz = .w) :=
  ⟨⟨flat0, lok, by decide, rfl, by decide⟩, ⟨withEcx 0x70#32 flat0, lok, by decide, rfl, by decide +kernel⟩,
    ⟨withEcx 0x23#32 flat3, data3, 0x23#16, lok, by decide, rfl, by decide, by decide, descAt_of (by decide +kernel),
      by decide, by decide, by decide, by decide⟩,
    ⟨withEcx 0x10#32 flat3, data0, 0x10#16, lok, by decide, rfl, by decide, by decide, descAt_of (by decide +kernel),
      by decide, by decide, by decide⟩,
    ⟨short (withEcx 0x33#32 flat3), gate3, 0x33#16, lok, by decide, rfl, by decide, by decide, descAt_of (by decide +kernel),
      by decide, by decide, by decide, by decide, by decide⟩⟩

theorem witness_ArplCompletes :
    (∃ s : State, s.lockOk false ∧ s.prot = true ∧ place .w .write (.reg .ecx) s = .ok (.reg .w .ecx) s ∧
      (s.gpr.read .w .ecx).toNat % 4 < (s.gpr.read .w .edx).toNat % 4) ∧
    (∃ s : State, s.lockOk false ∧ s.prot = true ∧ place .w .write (.reg .ecx) s = .ok (.reg .w .ecx) s ∧
      (s.gpr.read .w .edx).toNat % 4 ≤ (s.gpr.read .w .ecx).toNat % 4) :=
  ⟨⟨withGpr (fun g => { g with ecx := 2#32, edx := 3#32 }) flat0, lok, by decide, rfl, by decide⟩,
    ⟨withGpr (fun g => { g with ecx := 3#32, edx := 3#32 }) flat0, lok, by decide, rfl, by decide⟩⟩

theorem witness_CacheAndTlbInstructions : ∃ s : State, s.lockOk false ∧ s.cpl = 0 ∧ s.cfg.family ≠ .i386 :=
  ⟨flat0, lok, by decide, by decide⟩

theorem witness_WaitInstructions :
    (∃ s : State, s.lockOk false ∧ s.cfg.hasMonitor = true ∧ s.cpl ≠ 0) ∧
    (∃ s : State, s.lockOk false ∧ s.cfg.hasMonitor = true ∧ s.cpl = 0 ∧ s.gpr.ecx ≠ 0#32) ∧
    (∃ (s s1 : State) (a : Nat), s.lockOk false ∧ s.cfg.hasMonitor = true ∧ s.cpl = 0 ∧ s.gpr.ecx = 0#32 ∧
      dataAddrs (s.ctx.pfx.seg.getD .ds) s.gpr.eax 1 1 .read s = .ok [a] s1) :=
  ⟨⟨flat3, lok, by decide, by decide⟩, ⟨withEcx 1#32 flat0, lok, by decide, by decide, by decide⟩,
    ⟨withEax 0x2003F#32 flat0, withEax 0x2003F#32 flat0, 0x2003F, lok, by decide, by decide, by decide, ok_of (by decide +kernel)⟩⟩

/-- In SMM, with the registers of S0 saved. -/
def inSmm : State := { flat3 with smm := some ⟨flat0.gpr, flat0.eip, flat0.eflags, flat0.segs, flat0.sys⟩ }
theorem witness_RsmRestores :
    (∃ (s : State) (p : Proc), s.lockOk false ∧ s.smm = some p) ∧ (∃ s : State, s.lockOk false ∧ s.smm = none) :=
  ⟨⟨inSmm, _, lok, rfl⟩, ⟨flat0, lok, rfl⟩⟩

theorem witness_FpuStateStops :
    (∀ b, ∃ s : State, s.lockOk false ∧ (bit s.sys.cr0 2 || bit s.sys.cr0 3) = b) ∧
    (∃ s : State, s.lockOk false ∧ bit s.sys.cr0 3 = true) ∧
    (∀ b, ∃ s : State, s.lockOk false ∧ bit s.sys.cr0 3 = false ∧ (s.cfg.hasSse && !bit s.sys.cr0 2 && bit s.sys.cr4 9) = b) :=
  ⟨fun b => match b with | true => ⟨withCr 0x15#32 0#32 flat0, lok, rfl⟩ | false => ⟨flat0, lok, rfl⟩,
    ⟨withCr 0x1F#32 0#32 flat0, lok, rfl⟩,
    fun b => match b with | true => ⟨withCr 0x11#32 0x200#32 flat0, lok, rfl, rfl⟩ | false => ⟨flat0, lok, rfl, rfl⟩⟩

/-- A TSS with a bit map that allows every port up to the limit. -/
def mapped : State := { flat3 with sys := { flat3.sys with tr := { tss with limit := 0x88#32 } } }
theorem ioAllowed_map : IoAllowed mapped 0x107 1 mapped :=
  .map 0x68 0 mapped mapped (by decide) (by decide) (by decide) (by decide) (sysItem_of (by decide +kernel)) (by decide)
    (by decide) (sysItem_of (by decide +kernel)) (by decide)
theorem ioAllowed_map4 : IoAllowed mapped 0x80 4 mapped :=
  .map 0x68 0 mapped mapped (by decide) (by decide) (by decide) (by decide) (sysItem_of (by decide +kernel)) (by decide)
    (by decide) (sysItem_of (by decide +kernel)) (by decide)
theorem witness_PortAccess :
    (∃ (k : Byte) (s s1 : State), s.lockOk false ∧ IoAllowed s k.toNat 1 s1) ∧
    (∃ (k : Byte) (s s1 : State), s.lockOk false ∧ IoAllowed s k.toNat s.osz.bytes s1) ∧
    (∃ (s s1 : State), s.lockOk false ∧ IoAllowed s (s.gpr.edx.toNat % 2 ^ 16) 1 s1) ∧
    (∃ (s s1 : State), s.lockOk false ∧ IoAllowed s (s.gpr.edx.toNat % 2 ^ 16) s.osz.bytes s1) :=
  ⟨⟨0xFF#8, flat0, flat0, lok, .level (by decide)⟩, ⟨0x80#8, mapped, mapped, lok, ioAllowed_map4⟩,
    ⟨withGpr (fun g => { g with edx := 0x107#32 }) mapped, _, lok, .map 0x68 0 _ _ (by decide) (by decide) (by decide)
      (by decide) (sysItem_of (by decide +kernel)) (by decide) (by decide) (sysItem_of (by decide +kernel)) (by decide)⟩,
    ⟨real0, real0, lok, .level (by decide)⟩⟩

theorem witness_PrivilegedTraps : ∃ s : State, s.lockOk false ∧ s.cpl ≠ 0 ∧ s.cfg.family ≠ .i386 ∧
    bit s.sys.cr4 8 = false ∧ (s.cfg.hasTsc = true ∧ bit s.sys.cr4 2 = true) ∧ bit s.sys.cr4 3 = false ∧
    s.cfg.hasMsr = true ∧ s.prot = true :=
  ⟨withCr 0x11#32 4#32 flat3, lok, by decide⟩

theorem witness_LockTraps : ∃ (i : Instr) (s : State), s.locked = true ∧ mayLock i = false ∧ ∀ p ∈ prefixEffects, i ≠ p.1 :=
  ⟨.addRmR (.reg .eax) .ecx, locked flat0, rfl, rfl, by decide⟩

/-- A contributory exception whose gate is absent, and #DF, then #UD whose gate is absent, and #GP. -/
theorem witness_DoubleFaultRule :
    (∃ (ev : Event) (e : Exc) (s s1 : State), deliverOnce ev s = .error (.raise e) s1 ∧ ev.kind = .exception ∧
      ev.vector = 8#8) ∧
    (∃ (ev : Event) (e : Exc) (s s1 t : State) (bytes : List Nat), deliverOnce ev s = .error (.raise e) s1 ∧
      toDoubleFault ev e ∧ Delivers ⟨8#8, .exception, some 0#32, ⟨(Config.freeWord ((rollback s s1).free + 1)).setWidth 16,
        Config.freeWord (rollback s s1).free, (rollback s s1).eflags.rf⟩⟩
        { rollback s s1 with free := (rollback s s1).free + 2 } t bytes) ∧
    (∃ (ev : Event) (e : Exc) (s s1 t : State) (bytes : List Nat), deliverOnce ev s = .error (.raise e) s1 ∧
      ¬ toDoubleFault ev e ∧ ¬ (ev.kind = .exception ∧ ev.vector = 8#8) ∧
      Delivers ⟨e.vector, .exception, e.code, ⟨(rollback s s1).segs.cs.sel, (rollback s s1).eip,
        if e = .db then (rollback s s1).eflags.rf else true⟩⟩ (rollback s s1) t bytes) := by
  refine ⟨?_, ?_, ?_⟩
  · exact ⟨⟨8#8, .exception, some 0#32, ⟨8#16, 0#32, true⟩⟩, .gp 0x43#16,
      { flat0 with sys := { flat0.sys with idtr := ⟨0x2000#32, 0x46#16⟩ } },
      { flat0 with sys := { flat0.sys with idtr := ⟨0x2000#32, 0x46#16⟩ } }, raise_in (by decide +kernel), rfl, rfl⟩
  · obtain ⟨t, b, h⟩ := delivers_same
      (ev := ⟨8#8, .exception, some 0#32,
        ⟨(Config.freeWord (flat0.free + 1)).setWidth 16, Config.freeWord flat0.free, flat0.eflags.rf⟩⟩)
      (s := { flat0 with free := 2 }) 0x7FF0#32 (below 0x8000 4) (by decide +kernel)
    exact ⟨⟨11#8, .exception, some 0x28#32, ⟨8#16, 0x10000#32, true⟩⟩, .gp 0x5B#16, flat0, flat0, t, b, raise_in (by decide +kernel),
      ⟨rfl, .inl ⟨by unfold contributory; decide, by unfold contributory; decide⟩⟩, h⟩
  · obtain ⟨t, b, h⟩ := delivers_same
      (ev := ⟨13#8, .exception, some 0x3B#32, ⟨flat0.segs.cs.sel, flat0.eip, true⟩⟩) (s := flat0) 0x7FF0#32
      (below 0x8000 4) (by decide +kernel)
    refine ⟨⟨7#8, .exception, none, ⟨8#16, 0x10000#32, true⟩⟩, .gp 0x3B#16, flat0, flat0, t, b, raise_in (by decide +kernel),
      ?_, by decide, h⟩
    unfold toDoubleFault contributory
    decide

/-- V4's tables. -/
def walks (s : State) (dir pde tab pte : Nat) : Prop :=
  (s.pe = true ∧ s.pg = true ∧ bit s.sys.cr4 5 = false ∧ s.tlb = []) ∧ dir = s.sys.cr3.toNat / 2 ^ 12 * 2 ^ 12 + 12 ∧
    pde = s.physRead dir 4 ∧ tab = pde / 2 ^ 12 * 2 ^ 12 + 12 ∧ pte = s.physRead tab 4
/-- CR3, CR4 and the two entries of the linear address C03000H. -/
def tables (cr3 cr4 : Word) (pde pte : Nat) : State :=
  put 0x400C (words [pde]) (put 0x500C (words [pte])
    { flat0 with sys := { flat0.sys with cr0 := 0x80000011#32, cr3 := cr3, cr4 := cr4 } })
/-- The entry of a 4-MByte page, present and outside the local APIC's page. -/
abbrev large (s : State) (d e : Nat) : Prop :=
  s.inApic d = false ∧ bit s.sys.cr4 4 = true ∧ e.testBit 0 = true ∧ e.testBit 7 = true
theorem witness_PageWalks_32 :
    (∃ s d e t p, walks s d e t p ∧ s.inApic d = true) ∧
    (∃ s d e t p, walks s d e t p ∧ s.inApic d = false ∧ e.testBit 0 = false) ∧
    (∃ s d e t p, walks s d e t p ∧ s.inApic d = false ∧ e.testBit 0 = true ∧ e.testBit 7 = false ∧ bit s.sys.cr4 4 = true ∧
      e.testBit 6 = true) ∧
    (∃ s d e t p, walks s d e t p ∧ s.inApic d = false ∧ e.testBit 0 = true ∧ bit s.sys.cr4 4 = false ∧ s.inApic t = true) ∧
    (∃ s d e t p, walks s d e t p ∧ s.inApic d = false ∧ e.testBit 0 = true ∧ bit s.sys.cr4 4 = false ∧ s.inApic t = false ∧
      p.testBit 0 = false) ∧
    (∃ s d e t p, walks s d e t p ∧ s.inApic d = false ∧ e.testBit 0 = true ∧ e.testBit 7 = false ∧ e.testBit 6 = false ∧
      s.inApic t = false ∧ p.testBit 0 = true ∧ bit s.sys.cr4 4 = true ∧ s.cfg.hasPat = false ∧ p.testBit 7 = true) ∧
    (∃ s d e t p, walks s d e t p ∧ s.inApic d = false ∧ e.testBit 0 = true ∧ bit s.sys.cr4 4 = false ∧ s.inApic t = false ∧
      p.testBit 0 = true ∧ (e.testBit 1 && p.testBit 1) = false) ∧
    (∃ s d e t p, walks s d e t p ∧ s.inApic d = false ∧ e.testBit 0 = true ∧ bit s.sys.cr4 4 = false ∧ s.inApic t = false ∧
      p.testBit 0 = true ∧ (e.testBit 1 && p.testBit 1) = true ∧ (e.testBit 2 && p.testBit 2) = true) := by
  refine ⟨⟨tables 0xFEE00000#32 0#32 0 0, 0xFEE0000C, _, _, _, ⟨?_, ?_, rfl, rfl, rfl⟩, ?_⟩,
    ⟨tables 0x4000#32 0#32 0 0, 0x400C, 0, _, _, ⟨?_, ?_, ?_, rfl, rfl⟩, ?_⟩,
    ⟨tables 0x4000#32 0x10#32 0x5047 0, 0x400C, 0x5047, _, _, ⟨?_, ?_, ?_, rfl, rfl⟩, ?_⟩,
    ⟨tables 0x4000#32 0#32 0xFEE00007 0, 0x400C, 0xFEE00007, 0xFEE0000C, _, ⟨?_, ?_, ?_, ?_, rfl⟩, ?_⟩,
    ⟨tables 0x4000#32 0#32 0x5007 0, 0x400C, 0x5007, 0x500C, 0, ⟨?_, ?_, ?_, ?_, ?_⟩, ?_⟩,
    ⟨{ tables 0x4000#32 0x10#32 0x5007 0x9A087 with cfg := { Config.default with hasPat := false } }, 0x400C, 0x5007, 0x500C,
      0x9A087, ⟨?_, ?_, ?_, ?_, ?_⟩, ?_⟩,
    ⟨tables 0x4000#32 0#32 0x5007 0x9A005, 0x400C, 0x5007, 0x500C, 0x9A005, ⟨?_, ?_, ?_, ?_, ?_⟩, ?_⟩,
    ⟨tables 0x4000#32 0#32 0x5007 0x9A007, 0x400C, 0x5007, 0x500C, 0x9A007, ⟨?_, ?_, ?_, ?_, ?_⟩, ?_⟩⟩
  all_goals decide +kernel
/-- With CR4.PSE = 1: the entry of a 4-MByte page, with a reserved bit of PSE-36, without it, the PAT bit without PAT; a
read-only page, one that can be written at level 3. -/
theorem witness_PageWalks_large :
    (∃ s d e t p, walks s d e t p ∧ large s d e ∧ s.cfg.hasPse36 = true ∧ e / 2 ^ 17 % 2 ^ 5 ≠ 0) ∧
    (∃ s d e t p, walks s d e t p ∧ large s d e ∧ s.cfg.hasPse36 = false ∧ e / 2 ^ 13 % 2 ^ 9 ≠ 0) ∧
    (∃ s d e t p, walks s d e t p ∧ large s d e ∧ s.cfg.hasPat = false ∧ e.testBit 12 = true) ∧
    (∃ s d e t p, walks s d e t p ∧ large s d e ∧ s.cfg.hasPse36 = true ∧ e / 2 ^ 17 % 2 ^ 5 = 0 ∧ s.cfg.hasPat = true ∧
      e / 2 ^ 13 % 2 ^ 4 = 15 ∧ e.testBit 1 = false) ∧
    (∃ s d e t p, walks s d e t p ∧ large s d e ∧ s.cfg.hasPse36 = true ∧ e / 2 ^ 17 % 2 ^ 5 = 0 ∧ s.cfg.hasPat = true ∧
      e.testBit 1 = true ∧ e.testBit 2 = true) := by
  refine ⟨⟨tables 0x4000#32 0x10#32 0x20087 0, 0x400C, 0x20087, _, _, ⟨?_, ?_, ?_, rfl, rfl⟩, ?_⟩,
    ⟨without (fun c => { c with hasPse36 := false }) (tables 0x4000#32 0x10#32 0x2087 0), 0x400C, 0x2087, _, _,
      ⟨?_, ?_, ?_, rfl, rfl⟩, ?_⟩,
    ⟨without (fun c => { c with hasPat := false }) (tables 0x4000#32 0x10#32 0x1087 0), 0x400C, 0x1087, _, _,
      ⟨?_, ?_, ?_, rfl, rfl⟩, ?_⟩,
    ⟨tables 0x4000#32 0x10#32 0xC1E085 0, 0x400C, 0xC1E085, _, _, ⟨?_, ?_, ?_, rfl, rfl⟩, ?_⟩,
    ⟨tables 0x4000#32 0x10#32 0xC00087 0, 0x400C, 0xC00087, _, _, ⟨?_, ?_, ?_, rfl, rfl⟩, ?_⟩⟩
  all_goals decide +kernel
/-- PAE's tables for C03000H: the PDPTE, the directory entry and the table entry. -/
def walksPae (s : State) (q dir pde tab pte : Nat) : Prop :=
  (s.pe = true ∧ s.pg = true ∧ bit s.sys.cr4 5 = true ∧ s.tlb = []) ∧ q = s.sys.pdpte0.toNat ∧
    dir = q / 2 ^ 12 % 2 ^ 24 * 2 ^ 12 + 48 ∧ pde = s.physRead dir 8 ∧
    tab = pde / 2 ^ 12 % 2 ^ 24 * 2 ^ 12 + 24 ∧ pte = s.physRead tab 8
def tablesPae (q : Quad) (pde pte : Nat) : State :=
  put 0x4030 (words [pde % 2 ^ 32, pde / 2 ^ 32]) (put 0x5018 (words [pte % 2 ^ 32, pte / 2 ^ 32])
    { flat0 with sys := { flat0.sys with cr0 := 0x80000011#32, cr4 := 0x20#32, pdpte0 := q } })
theorem witness_PageWalks_pae :
    (∃ s q d e t p, walksPae s q d e t p ∧ q.testBit 0 = false) ∧
    (∃ s q d e t p, walksPae s q d e t p ∧ q.testBit 0 = true ∧ s.inApic d = true) ∧
    (∃ s q d e t p, walksPae s q d e t p ∧ q.testBit 0 = true ∧ s.inApic d = false ∧ e.testBit 0 = false) ∧
    (∃ s q d e t p, walksPae s q d e t p ∧ q.testBit 0 = true ∧ s.inApic d = false ∧ e.testBit 0 = true ∧ 2 ^ 36 ≤ e) ∧
    (∃ s q d e t p, walksPae s q d e t p ∧ q.testBit 0 = true ∧ s.inApic d = false ∧ e.testBit 0 = true ∧
      e.testBit 7 = true ∧ e / 2 ^ 13 % 2 ^ 8 ≠ 0) ∧
    (∃ s q d e t p, walksPae s q d e t p ∧ q.testBit 0 = true ∧ s.inApic d = false ∧ e.testBit 0 = true ∧ e < 2 ^ 36 ∧
      e.testBit 7 = true ∧ e / 2 ^ 13 % 2 ^ 8 = 0 ∧ s.cfg.hasPat = true ∧ e.testBit 1 = true ∧ e.testBit 2 = true) ∧
    (∃ s q d e t p, walksPae s q d e t p ∧ q.testBit 0 = true ∧ s.inApic d = false ∧ e.testBit 0 = true ∧ e < 2 ^ 36 ∧
      e.testBit 7 = false ∧ s.inApic t = true) ∧
    (∃ s q d e t p, walksPae s q d e t p ∧ q.testBit 0 = true ∧ s.inApic d = false ∧ e.testBit 0 = true ∧ e < 2 ^ 36 ∧
      e.testBit 7 = false ∧ s.inApic t = false ∧ p.testBit 0 = false) ∧
    (∃ s q d e t p, walksPae s q d e t p ∧ q.testBit 0 = true ∧ s.inApic d = false ∧ e.testBit 0 = true ∧ e < 2 ^ 36 ∧
      e.testBit 7 = false ∧ s.inApic t = false ∧ p.testBit 0 = true ∧ 2 ^ 36 ≤ p) ∧
    (∃ s q d e t p, walksPae s q d e t p ∧ q.testBit 0 = true ∧ s.inApic d = false ∧ e.testBit 0 = true ∧ e < 2 ^ 36 ∧
      e.testBit 7 = false ∧ s.inApic t = false ∧ p.testBit 0 = true ∧ p < 2 ^ 36 ∧ s.cfg.hasPat = true ∧
      (e.testBit 2 && p.testBit 2) = false) ∧
    (∃ s q d e t p, walksPae s q d e t p ∧ q.testBit 0 = true ∧ s.inApic d = false ∧ e.testBit 0 = true ∧ e < 2 ^ 36 ∧
      e.testBit 7 = false ∧ s.inApic t = false ∧ p.testBit 0 = true ∧ p < 2 ^ 36 ∧ s.cfg.hasPat = true ∧
      (e.testBit 1 && p.testBit 1) = true ∧ (e.testBit 2 && p.testBit 2) = true) := by
  refine ⟨⟨tablesPae 0#64 0 0, 0, 48, _, _, _, ⟨?_, ?_, ?_, rfl, rfl, rfl⟩, ?_⟩,
    ⟨tablesPae 0xFEE00001#64 0 0, 0xFEE00001, 0xFEE00030, _, _, _, ⟨?_, ?_, ?_, rfl, rfl, rfl⟩, ?_⟩,
    ⟨tablesPae 0x4001#64 0 0, 0x4001, 0x4030, 0, _, _, ⟨?_, ?_, ?_, ?_, rfl, rfl⟩, ?_⟩,
    ⟨tablesPae 0x4001#64 (2 ^ 36 + 0x5007) 0, 0x4001, 0x4030, 2 ^ 36 + 0x5007, _, _, ⟨?_, ?_, ?_, ?_, rfl, rfl⟩, ?_⟩,
    ⟨tablesPae 0x4001#64 0x2087 0, 0x4001, 0x4030, 0x2087, _, _, ⟨?_, ?_, ?_, ?_, rfl, rfl⟩, ?_⟩,
    ⟨tablesPae 0x4001#64 (2 ^ 36 - 2 ^ 21 + 0x87) 0, 0x4001, 0x4030, 2 ^ 36 - 2 ^ 21 + 0x87, _, _,
      ⟨?_, ?_, ?_, ?_, rfl, rfl⟩, ?_⟩,
    ⟨tablesPae 0x4001#64 0xFEE00007 0, 0x4001, 0x4030, 0xFEE00007, 0xFEE00018, _, ⟨?_, ?_, ?_, ?_, ?_, rfl⟩, ?_⟩,
    ⟨tablesPae 0x4001#64 0x5007 0, 0x4001, 0x4030, 0x5007, 0x5018, 0, ⟨?_, ?_, ?_, ?_, ?_, ?_⟩, ?_⟩,
    ⟨tablesPae 0x4001#64 0x5007 (2 ^ 36 + 7), 0x4001, 0x4030, 0x5007, 0x5018, 2 ^ 36 + 7, ⟨?_, ?_, ?_, ?_, ?_, ?_⟩, ?_⟩,
    ⟨tablesPae 0x4001#64 0x5007 0x9A003, 0x4001, 0x4030, 0x5007, 0x5018, 0x9A003, ⟨?_, ?_, ?_, ?_, ?_, ?_⟩, ?_⟩,
    ⟨tablesPae 0x4001#64 0x5007 0x9A007, 0x4001, 0x4030, 0x5007, 0x5018, 0x9A007, ⟨?_, ?_, ?_, ?_, ?_, ?_⟩, ?_⟩⟩
  all_goals decide +kernel

/-! The machine. -/

theorem witness_DecodeEncode : ∃ (c : DecodeCtx) (i : Instr), i.wf c = true :=
  ⟨ctx16, .addRmImm (.mem (.base16 .bp (.d16 0xFFFF#16))) 0xFFFF#32, by decide⟩
theorem witness_MemoryStaysCanonical : ∃ s t : State, s.memoryOk ∧ step s = .next t := by
  obtain ⟨t, h⟩ := next_exists (s := bare) (by decide +kernel)
  exact ⟨bare, t, ⟨by decide, by decide⟩, h⟩
theorem witness_ControlRegistersStayLegal : ∃ s t : State, s.legal ∧ step s = .next t := by
  obtain ⟨t, h⟩ := next_exists (s := bare) (by decide +kernel)
  exact ⟨bare, t, ⟨by unfold SysRegs.legal; decide, fun p hp => by cases hp⟩, h⟩
theorem vectors_clear : bare.vectorsOk := by
  intro k _
  have h1 : bare.apic.irr = 0#256 := rfl
  have h2 : bare.apic.isr = 0#256 := rfl
  have h3 : bare.apic.tmr = 0#256 := rfl
  rw [h1, h2, h3]
  exact ⟨BitVec.getLsbD_zero, BitVec.getLsbD_zero, BitVec.getLsbD_zero⟩
theorem witness_ApicVectorsStayLegal : ∃ s t : State, s.vectorsOk ∧ step s = .next t := by
  obtain ⟨t, h⟩ := next_exists (s := bare) (by decide +kernel)
  exact ⟨bare, t, vectors_clear, h⟩

/-- A NOP at the instruction pointer. -/
def atNop : State := put 0x10000 (bytes [0x90]) bare
/-- No event is pending at a boundary, and the bytes at the instruction pointer decode to some items (by checks that can
be evaluated). -/
def fetches (s : State) (p n len : Nat) (is : List Instr) : Bool :=
  okIs (boundary s) () s &&
    s.pend.delivering.isNone && s.pend.reattempt.isNone && !(s.act.waitSipi || s.pend.taskTrap || s.pend.init || s.pend.smi || s.stopped || s.pend.stepTrap || s.idle || s.v86) &&
    s.request.isNone && n == min s.fetchRoom (4096 - (s.segs.cs.base + s.eipMask s.eip).toNat % 4096) && s.fetchRoom != 0 &&
    okIs (translate (s.segs.cs.base + s.eipMask s.eip) .exec (s.cpl == 3) s.clearShadow) p s.clearShadow &&
    !(addrsFrom p n).any s.clearShadow.inApic &&
    decide (decodeInsn s.segs.cs.attr.db ((addrsFrom p n).map s.clearShadow.physByte) = .items is len)
theorem fetches_nop : fetches atNop 0x10000 15 1 [.nop] = true := by decide +kernel
/-- The same with TF = 1 and the single-step trap modelled. -/
def atNopStepping : State :=
  { atNop with eflags := { atNop.eflags with tf := true }, cfg := { atNop.cfg with modelTf := true } }
theorem fetches_nop_stepping : fetches atNopStepping 0x10000 15 1 [.nop] = true := by decide +kernel
theorem stepping_nop : atNopStepping.stepping = true ∧ isNextTo (runItems [.nop] { atNopStepping.clearShadow with
    eip := atNopStepping.eipMask atNopStepping.eip
    ctx := ⟨atNopStepping.eipMask (atNopStepping.eip + BitVec.ofNat 32 1), ⟨false, none, none, false, false⟩, false⟩ })
    (fun w => !w.ctx.delivered) = true := by decide +kernel
theorem fetches_all {s : State} {p n len : Nat} {is : List Instr} (h : fetches s p n len is = true) :
    boundary s = .ok () s ∧ s.pend.delivering = none ∧ s.act.waitSipi = false ∧ s.pend.reattempt = none ∧ s.pend.taskTrap = false ∧ s.pend.init = false ∧ s.pend.smi = false ∧
    s.stopped = false ∧ s.pend.stepTrap = false ∧ s.request = none ∧ s.idle = false ∧ s.v86 = false ∧
    n = min s.fetchRoom (4096 - (s.segs.cs.base + s.eipMask s.eip).toNat % 4096) ∧ s.fetchRoom ≠ 0 ∧
    translate (s.segs.cs.base + s.eipMask s.eip) .exec (s.cpl == 3) s.clearShadow = .ok p s.clearShadow ∧
    s.clearShadow.plain (addrsFrom p n) ∧
    decodeInsn s.segs.cs.attr.db ((addrsFrom p n).map s.clearShadow.physByte) = .items is len := by
  simp only [fetches, Bool.and_eq_true, Bool.not_eq_true', Bool.or_eq_false_iff, beq_iff_eq, bne_iff_ne,
    decide_eq_true_eq, Option.isNone_iff_eq_none] at h
  obtain ⟨⟨⟨⟨⟨⟨⟨⟨⟨h1, h0⟩, hr⟩, ⟨⟨⟨⟨⟨⟨⟨a1, a2⟩, a3⟩, a4⟩, a5⟩, a6⟩, a7⟩, a8⟩⟩, h2⟩, h3⟩, h4⟩, h5⟩, h6⟩, h7⟩ := h
  exact ⟨ok_of h1, h0, a1, hr, a2, a3, a4, a5, a6, h2, a7, a8, h3, h4, ok_of h5, h6, h7⟩
theorem witness_StepRunsInstruction : ∀ b, ∃ (s t u : State) (p n len : Nat) (is : List Instr),
    (boundary s = .ok () t ∧ t.pend.delivering = none ∧ t.act.waitSipi = false ∧ t.pend.reattempt = none ∧ t.pend.taskTrap = false ∧ t.pend.init = false ∧ t.pend.smi = false ∧
    t.stopped = false ∧ t.pend.stepTrap = false ∧ t.request = none ∧ t.idle = false ∧ t.v86 = false ∧
    n = min t.fetchRoom (4096 - (t.segs.cs.base + t.eipMask t.eip).toNat % 4096) ∧ t.fetchRoom ≠ 0 ∧
    translate (t.segs.cs.base + t.eipMask t.eip) .exec (t.cpl == 3) t.clearShadow = .ok p u ∧ u.plain (addrsFrom p n) ∧
    decodeInsn t.segs.cs.attr.db ((addrsFrom p n).map u.physByte) = .items is len) ∧ t.stepping = b ∧ is = [.nop] := by
  intro b
  cases b with
  | false => exact ⟨atNop, atNop, _, _, _, _, _, fetches_all fetches_nop, by decide +kernel, rfl⟩
  | true => exact ⟨atNopStepping, atNopStepping, _, _, _, _, _, fetches_all fetches_nop_stepping, stepping_nop.1, rfl⟩

/-- Vectors 52H and 31H requested at task priority 40H, 41H in service as a level-triggered interrupt. -/
def busyApic : State :=
  withApic (fun a => { a with svr := 0x1FF#32, tpr := 0x40#8, irr := 1#256 <<< 0x52 ||| 1#256 <<< 0x31, isr := 1#256 <<< 0x41,
                              tmr := 1#256 <<< 0x41 }) bare
theorem getLsbD_single {k w : Nat} (h : (1#256 <<< k).getLsbD w = true) : w = k := by
  rw [BitVec.getLsbD_shiftLeft, Bool.and_eq_true, Bool.and_eq_true] at h
  have h2 := h.2
  rw [BitVec.getLsbD_one] at h2
  simp only [Bool.and_eq_true, Bool.not_eq_true', decide_eq_true_eq, decide_eq_false_iff_not] at h h2
  omega
theorem witness_ApicOffersHighest :
    (∃ (a : Apic) (v : Nat), a.offer = some v) ∧
    (∃ (s : State) (v : Nat), s.apicOn = true ∧ s.apic.offer = some v ∧ s.pend.nmi = false ∧ s.act.shadow = .none ∧
      s.intrLine = false ∧ ∀ n, (Held.request (.apic (BitVec.ofNat 8 v)), n) ∉ s.pend.held) ∧
    (∃ s : State, s.apic.intr = none ∧ ∀ v, s.apic.isr.getLsbD v = false) ∧
    (∃ (s : State) (v : Nat), s.apic.isr.getLsbD v = true ∧ ∀ w, v < w → s.apic.isr.getLsbD w = false) := by
  refine ⟨⟨busyApic.apic, 0x52, by decide +kernel⟩, ⟨busyApic, 0x52, ?_, ?_, ?_, ?_, ?_, ?_⟩,
    ⟨bare, rfl, fun v => BitVec.getLsbD_zero⟩, ⟨busyApic, 0x41, by decide +kernel, fun w hw => ?_⟩⟩
  iterate 5 decide +kernel
  · exact fun n => List.not_mem_nil
  cases h : busyApic.apic.isr.getLsbD w with
  | false => rfl
  | true => have := getLsbD_single (k := 0x41) h; omega

end Sys2Proof.Tests
end

section
/-! PROOFS. The bodies of the instructions keep what the elementary updates of the state keep: one lemma a body, beside those of
the shared computations. -/
namespace Sys2Proof.Machine

variable {β : Type} {P : State → Prop}

/-! ## Checks and reads that leave the state -/

/-- What follows a check may use that it passed. -/
theorem keeps_require_bind {c : Bool} {e : Exc} {f : Unit → M β} (hf : c = true → Keeps P (f ())) :
    Keeps P (require c e >>= f) := by
  cases c with
  | true => exact hf rfl
  | false => exact keeps_raise e

/-- The check of a place under LOCK (R351), followed by the rest. -/
theorem keeps_locked {k : M β} (p : Place) (hk : Keeps P k) :
    Keeps P (do lockCheck (← get).locked p; k) :=
  keeps_get_bind fun _ _ => keeps_bind (Stable.keeps_lockCheck _ p) fun _ => hk

theorem keeps_atOsz {f : Sz → M Unit} (hf : ∀ z, Keeps P (f z)) : Keeps P (atOsz f) :=
  keeps_get_bind fun s _ => hf s.osz

theorem keeps_regVal (z : Sz) (r : Reg) : Keeps P (regVal z r) := keeps_get_bind fun _ _ => keeps_pure _

theorem keeps_regVal8 (r : Reg8) : Keeps P (regVal8 r) := keeps_get_bind fun _ _ => keeps_pure _

theorem keeps_from486 : Keeps P from486 := keeps_get_bind fun _ _ => keeps_require _ _

theorem keeps_checkDirect (sel : Half) (d : Desc) (off : Word) : Keeps P (checkDirect sel d off) :=
  keeps_get_bind fun _ _ => keeps_bind (keeps_require _ _) fun _ => keeps_bind (keeps_require _ _) fun _ =>
    keeps_require _ _

theorem keeps_checkGate (sel : Half) (gate : Desc) : Keeps P (checkGate sel gate) :=
  keeps_get_bind fun _ _ => keeps_bind (keeps_require _ _) fun _ => keeps_require _ _

theorem keeps_requireCpl0 : Keeps P requireCpl0 := keeps_get_bind fun _ _ => keeps_require _ _

theorem keeps_rdpmcBody : Keeps P rdpmcBody :=
  keeps_get_bind fun _ _ => keeps_bind (keeps_require _ _) fun _ => keeps_gp0

theorem keeps_nearTarget (v : Word) : Keeps P (nearTarget v) :=
  keeps_get_bind fun _ _ => keeps_bind (keeps_require _ _) fun _ => keeps_pure _

theorem keeps_requireProt : Keeps P requireProt := keeps_get_bind fun _ _ => keeps_require _ _

theorem keeps_checkDr (d : DrN) : Keeps P (checkDr d) := keeps_get_bind fun _ _ => keeps_require _ _

theorem keeps_fromP4 : Keeps P fromP4 := keeps_get_bind fun _ _ => keeps_require _ _

theorem keeps_requireMonitor : Keeps P requireMonitor :=
  keeps_get_bind fun _ _ => keeps_bind (keeps_require _ _) fun _ => keeps_require _ _

theorem keeps_requireFpu : Keeps P requireFpu := keeps_get_bind fun _ _ => keeps_require _ _

theorem keeps_requireSse : Keeps P requireSse :=
  keeps_get_bind fun _ _ => keeps_bind (keeps_require _ _) fun _ => keeps_require _ _

namespace Stable

variable (hP : Stable P)
include hP

/-! ## Arithmetic and logic -/

theorem keeps_setFlags (f : Eflags → Eflags) : Keeps P (setFlags f) := keeps_modify fun _ hs => hP.soft' hs

theorem keeps_aluOp (o : AluOp) (z : Sz) {dst : Access → M Place} {src : M Word} (hd : ∀ k, Keeps P (dst k))
    (hs : Keeps P src) : Keeps P (aluOp o z dst src) := by
  unfold aluOp
  refine keeps_bind (hd _) fun p => keeps_locked p <| keeps_bind hs fun b => ?_
  refine keeps_bind (hP.keeps_placeGet p) fun a => keeps_either hP.keeps_freshBit (keeps_pure _) fun af => ?_
  exact keeps_get_bind fun _ _ => keeps_when (hP.keeps_placeSet p _) (hP.keeps_setFlags _)

theorem keeps_testOp (z : Sz) {dst : M Place} {src : M Word} (hd : Keeps P dst) (hs : Keeps P src) :
    Keeps P (testOp z dst src) :=
  keeps_bind hd fun p => keeps_bind hs fun _ => keeps_bind (hP.keeps_placeGet p) fun _ =>
    keeps_bind hP.keeps_freshBit fun _ => hP.keeps_setFlags _

theorem keeps_unaryOp {dst : M Place} (res : Word → Word) (fl : Word → Eflags → Eflags) (hd : Keeps P dst) :
    Keeps P (unaryOp dst res fl) :=
  keeps_bind hd fun p => keeps_locked p <| keeps_bind (hP.keeps_placeGet p) fun _ =>
    keeps_bind (hP.keeps_placeSet p _) fun _ => hP.keeps_setFlags _

/-! ## XADD, CMPXCHG, CMPXCHG8B and the bit instructions -/

theorem keeps_xaddOp (z : Sz) {dst : M Place} (r : Place) (hd : Keeps P dst) : Keeps P (xaddOp z dst r) :=
  keeps_bind hd fun p => keeps_locked p <| keeps_bind (hP.keeps_placeGet p) fun _ =>
    keeps_bind (hP.keeps_placeGet r) fun _ => keeps_bind (hP.keeps_placeSet r _) fun _ =>
      keeps_bind (hP.keeps_placeSet p _) fun _ => hP.keeps_setFlags _

theorem keeps_cmpxchgOp (z : Sz) {dst : M Place} (acc src : Place) (hd : Keeps P dst) :
    Keeps P (cmpxchgOp z dst acc src) :=
  keeps_bind hd fun p => keeps_locked p <| keeps_bind (hP.keeps_placeGet p) fun _ =>
    keeps_bind (hP.keeps_placeGet acc) fun _ => keeps_bind (hP.keeps_placeGet src) fun _ =>
      keeps_bind (hP.keeps_setFlags _) fun _ => keeps_ite (hP.keeps_placeSet p _)
        (keeps_bind (hP.keeps_placeSet acc _) fun _ => hP.keeps_placeSet p _)

theorem keeps_cmpxchg8bOp (m : Mem) : Keeps P (cmpxchg8bOp m) :=
  keeps_bind (hP.keeps_memAddrs _ _ _ _) fun pas => keeps_locked (.mem pas) <|
    keeps_bind (hP.keeps_phRead _) fun _ => keeps_get_bind fun _ _ => keeps_bind (hP.keeps_phWrite _ _) fun _ =>
      keeps_modify fun _ hs => hP.soft' hs

theorem keeps_bitOp (o : BitOp) {dst : M Place} (k : Nat) (hd : Keeps P dst) : Keeps P (bitOp o dst k) := by
  unfold bitOp
  refine keeps_bind hd fun p => keeps_locked p <| keeps_bind (hP.keeps_placeGet p) fun v => ?_
  refine keeps_when (hP.keeps_placeSet p _) ?_
  iterate 4 refine keeps_bind hP.keeps_freshBit fun _ => ?_
  exact hP.keeps_setFlags _

theorem keeps_bitImm (o : BitOp) (dst : RM Reg) (imm : Byte) : Keeps P (bitImm o dst imm) :=
  keeps_atOsz fun _ => hP.keeps_bitOp _ _ (hP.keeps_place _ _ _)

theorem keeps_bitReg (o : BitOp) (dst : RM Reg) (r : Reg) : Keeps P (bitReg o dst r) := by
  refine keeps_atOsz fun z => keeps_get_bind fun s hs => ?_
  cases dst with
  | reg q => exact hP.keeps_bitOp _ _ (hP.keeps_place _ _ _)
  | mem m => exact hP.keeps_bitOp _ _ (keeps_bind (hP.keeps_memAddrsAt _ _ _ _ _) fun _ => keeps_pure _)

/-! ## Data movement -/

theorem keeps_movOp {dst : M Place} {src : M Word} (hd : Keeps P dst) (hs : Keeps P src) : Keeps P (movOp dst src) :=
  keeps_bind hd fun p => keeps_bind hs fun _ => hP.keeps_placeSet p _

theorem keeps_xchgOp {dst : M Place} (r : Place) (hd : Keeps P dst) : Keeps P (xchgOp dst r) :=
  keeps_bind hd fun p => keeps_bind (keeps_lockCheck _ p) fun _ => keeps_bind (hP.keeps_placeGet p) fun _ =>
    keeps_bind (hP.keeps_placeGet r) fun _ => keeps_bind (hP.keeps_placeSet p _) fun _ => hP.keeps_placeSet r _

theorem keeps_storeSel (align : Nat) (dst : RM Reg) (v : Word) : Keeps P (storeSel align dst v) := by
  cases dst with
  | reg r => exact keeps_modify fun _ hs => hP.soft' hs
  | mem m => exact keeps_bind (hP.keeps_memAddrs _ _ _ _) fun _ => hP.keeps_phWrite _ _

theorem keeps_commitSeg (x : Seg) (r : SegReg) : Keeps P (commitSeg x r) := by
  refine keeps_modify fun s hs => ?_
  dsimp only
  split <;> exact hP.soft' hs

/-! ## Far transfers -/

theorem keeps_farPointer (m : Mem) (z : Sz) : Keeps P (farPointer m z) :=
  keeps_bind (hP.keeps_memAddrs _ _ _ _) fun _ => keeps_bind (hP.keeps_phRead _) fun _ =>
    keeps_bind (hP.keeps_phRead _) fun _ => keeps_pure _

theorem keeps_gateTarget (gate : Desc) (isCall : Bool) : Keeps P (gateTarget gate isCall) :=
  keeps_get_bind fun _ _ => keeps_bind (keeps_require _ _) fun _ => keeps_bind (hP.keeps_readDesc _ _) fun _ =>
    keeps_bind (keeps_require _ _) fun _ => keeps_bind (keeps_require _ _) fun _ =>
      keeps_bind (keeps_require _ _) fun _ => keeps_pure _

theorem keeps_enterCode (sel : Half) (cpl : Nat) (d : Desc) (off : Word) : Keeps P (enterCode sel cpl d off) :=
  keeps_bind (hP.keeps_setAccessed _ _) fun _ => keeps_modify fun _ hs => hP.soft' hs

theorem keeps_farTask (kind : SwitchKind) (sel : Half) (d : Desc) : Keeps P (farTask kind sel d) := by
  unfold farTask
  refine keeps_get_bind fun s hs => ?_
  have switch (tss : Half) : Keeps P (do let _ ← taskSwitch kind tss s.resumeNext false; pure ()) :=
    keeps_bind (hP.keeps_taskSwitch _ _ _ _) fun _ => keeps_pure _
  exact keeps_ite (keeps_bind (keeps_checkGate _ _) fun _ => switch _)
    (keeps_bind (keeps_require _ _) fun _ => switch _)

theorem keeps_jmpFarProt (sel : Half) (off : Word) : Keeps P (jmpFarProt sel off) := by
  unfold jmpFarProt
  refine keeps_get_bind fun s hs => keeps_when keeps_gp0 <| keeps_bind (hP.keeps_readDesc _ _) fun d => ?_
  refine keeps_ite ?code (keeps_ite ?gate (keeps_ite (hP.keeps_farTask _ _ _) (keeps_raise _)))
  case code => exact keeps_bind (keeps_checkDirect _ _ _) fun _ => hP.keeps_enterCode _ _ _ _
  case gate =>
    exact keeps_bind (keeps_checkGate _ _) fun _ => keeps_bind (hP.keeps_gateTarget _ _) fun _ =>
      hP.keeps_enterCode _ _ _ _

theorem keeps_jmpFar (z : Sz) (sel : Half) (off : Word) : Keeps P (jmpFar z sel off) :=
  keeps_get_bind fun _ hs => keeps_ite (hP.keeps_jmpFarProt _ _)
    (keeps_bind (keeps_require _ _) fun _ => keeps_set (hP.soft' hs))

theorem keeps_copyPlaces (z : Sz) : ∀ lins, Keeps P (copyPlaces z lins)
  | [] => keeps_pure _
  | _ :: lins => keeps_bind (hP.keeps_peekPlace _ _) fun _ => keeps_bind (hP.keeps_linAddrs _ _ _ _) fun _ =>
      keeps_bind (keeps_copyPlaces z lins) fun _ => keeps_pure _

theorem keeps_copyItems : ∀ ps qs, Keeps P (copyItems ps qs)
  | [], _ => by unfold copyItems; exact keeps_pure _
  | _ :: _, [] => by unfold copyItems; exact keeps_pure _
  | _ :: ps, _ :: qs => by
    unfold copyItems
    exact keeps_bind (hP.keeps_phRead _) fun _ => keeps_bind (hP.keeps_phWrite _ _) fun _ => keeps_copyItems ps qs

theorem keeps_callSame (z : Sz) (sel : Half) (d : Desc) (off : Word) : Keeps P (callSame z sel d off) :=
  keeps_get_bind fun _ _ => keeps_bind (hP.keeps_pushPlaces _ _ _ _ _ _) fun _ =>
    keeps_bind (hP.keeps_setAccessed _ _) fun _ => keeps_bind (hP.keeps_pushValues _ _) fun _ =>
      keeps_bind (hP.keeps_setEsp _) fun _ => keeps_modify fun _ hs => hP.soft' hs

theorem keeps_innerPlaces (z : Sz) (lins : List Word) : Keeps P (innerPlaces z lins) :=
  keeps_bind (hP.keeps_pushPas _ _ _) fun _ => keeps_bind (hP.keeps_copyPlaces _ _) fun _ =>
    keeps_bind (hP.keeps_pushPas _ _ _) fun _ => keeps_pure _

theorem keeps_pushInner (p : InnerPlaces) : Keeps P (pushInner p) :=
  keeps_get_bind fun _ _ => keeps_bind (hP.keeps_pushValues _ _) fun _ =>
    keeps_bind (hP.keeps_copyItems _ _) fun _ => hP.keeps_pushValues _ _

theorem keeps_callInner (z : Sz) (gate t : Desc) : Keeps P (callInner z gate t) := by
  unfold callInner
  refine keeps_bind (hP.keeps_tssStack _ _) fun _ => keeps_bind (hP.keeps_innerSs _ _ _) fun _ => ?_
  refine keeps_bind (keeps_pushLins _ _ _ _ _) fun _ => keeps_bind (hP.keeps_innerPlaces _ _) fun _ => ?_
  refine keeps_bind (hP.keeps_setAccessed _ _) fun _ => keeps_bind (hP.keeps_pushInner _) fun _ => ?_
  exact keeps_modify fun _ hs => hP.soft' hs

theorem keeps_callFarProt (z : Sz) (sel : Half) (off : Word) : Keeps P (callFarProt z sel off) := by
  unfold callFarProt
  refine keeps_get_bind fun s hs => keeps_when keeps_gp0 <| keeps_bind (hP.keeps_readDesc _ _) fun d => ?_
  refine keeps_ite ?code (keeps_ite ?gate (keeps_ite (hP.keeps_farTask _ _ _) (keeps_raise _)))
  case code => exact keeps_bind (keeps_checkDirect _ _ _) fun _ => hP.keeps_callSame _ _ _ _
  case gate =>
    exact keeps_bind (keeps_checkGate _ _) fun _ => keeps_bind (hP.keeps_gateTarget _ _) fun _ =>
      keeps_ite (hP.keeps_callInner _ _ _) (hP.keeps_callSame _ _ _ _)

theorem keeps_disarm : Keeps P (modify disarm) := keeps_modify fun _ hs => hP.soft' hs

theorem keeps_callFar (z : Sz) (sel : Half) (off : Word) : Keeps P (callFar z sel off) := by
  unfold callFar
  refine keeps_get_bind fun s hs => keeps_ite (keeps_bind (hP.keeps_callFarProt _ _ _) fun _ => hP.keeps_disarm) ?real
  refine keeps_bind (keeps_require _ _) fun _ => keeps_bind (hP.keeps_pushPlaces _ _ _ _ _ _) fun _ => ?_
  refine keeps_bind (hP.keeps_pushValues _ _) fun _ => keeps_bind (hP.keeps_setEsp _) fun _ => ?_
  exact keeps_bind (keeps_modify fun _ hs => hP.soft' hs) fun _ => hP.keeps_disarm

theorem keeps_retFarBody (n : Nat) : Keeps P (retFarBody n) :=
  keeps_get_bind fun _ _ => keeps_ite (hP.keeps_farReturn _ _ _ (keeps_pure _))
    (hP.keeps_farReturnReal _ _ _ (keeps_pure _))

theorem keeps_boundBody (r : Reg) (m : Mem) : Keeps P (boundBody r m) :=
  keeps_get_bind fun _ _ => keeps_bind (hP.keeps_memAddrs _ _ _ _) fun _ =>
    keeps_bind (hP.keeps_memAddrsAt _ _ _ _ _) fun _ => keeps_bind (hP.keeps_phRead _) fun _ =>
      keeps_bind (hP.keeps_phRead _) fun _ => keeps_require _ _

theorem keeps_sysenterBody : Keeps P sysenterBody :=
  keeps_get_bind fun _ _ => keeps_bind (keeps_require _ _) fun _ => keeps_bind (keeps_require _ _) fun _ =>
    keeps_modify fun _ hs => hP.soft' hs

theorem keeps_sysexitBody : Keeps P sysexitBody :=
  keeps_get_bind fun _ _ => keeps_bind (keeps_require _ _) fun _ => keeps_bind (keeps_require _ _) fun _ =>
    keeps_modify fun _ hs => hP.soft' hs

/-- A software interrupt leads to a state with the property (R292 to R294). -/
theorem softInt (v : Byte) {s : State} (hs : P s) : Res P (softInt v s) := by
  unfold Machine.softInt
  split
  · exact hP.takeException _ hs
  · exact hP.takeEvent _ hs

/-! ## IN and OUT -/

theorem keeps_ioMapAllows (port n : Nat) : Keeps P (ioMapAllows port n) := by
  unfold ioMapAllows
  refine keeps_get_bind fun s hs => keeps_ite (keeps_pure _) <| keeps_bind (hP.keeps_sysRead _ _) fun _ => ?_
  exact keeps_ite (keeps_pure _) <| keeps_bind (hP.keeps_sysRead _ _) fun _ => keeps_pure _

theorem keeps_ioCheck (port n : Nat) : Keeps P (ioCheck port n) :=
  keeps_get_bind fun _ _ => keeps_ite (keeps_bind (hP.keeps_ioMapAllows _ _) fun _ => keeps_require _ _) (keeps_pure _)

theorem keeps_inOp (z : Sz) (dst : Place) (port : Nat) : Keeps P (inOp z dst port) :=
  keeps_bind (hP.keeps_ioCheck _ _) fun _ => keeps_bind hP.keeps_fresh fun _ => hP.keeps_placeSet dst _

theorem keeps_outOp (z : Sz) (src : Place) (port : Nat) : Keeps P (outOp z src port) :=
  keeps_bind (hP.keeps_ioCheck _ _) fun _ => keeps_bind (hP.keeps_placeGet src) fun _ =>
    keeps_modify fun _ hs => hP.soft' hs

/-! ## Model-specific registers -/

theorem keeps_rdmsrBody : Keeps P rdmsrBody := by
  unfold rdmsrBody
  refine keeps_get_bind fun s hs => keeps_bind (keeps_require _ _) fun _ => keeps_bind keeps_requireCpl0 fun _ => ?_
  split
  · exact keeps_set (hP.soft' hs)
  · exact keeps_gp0

theorem keeps_writeApicBase (v : Quad) : Keeps P (writeApicBase v) :=
  keeps_get_bind fun _ hs => keeps_bind (keeps_require _ _) fun _ =>
    keeps_when (keeps_refuse _) (keeps_set (hP.soft' hs))

theorem keeps_wrmsrBody : Keeps P wrmsrBody := by
  unfold wrmsrBody
  refine keeps_get_bind fun s hs => keeps_bind (keeps_require _ _) fun _ => keeps_bind keeps_requireCpl0 fun _ => ?_
  refine keeps_when keeps_gp0 ?_
  split
  · exact keeps_set (hP.soft' hs)
  · exact hP.keeps_writeApicBase _
  all_goals exact keeps_set (hP.soft' hs)

theorem keeps_rdtscBody : Keeps P rdtscBody :=
  keeps_get_bind fun _ hs => keeps_bind (keeps_require _ _) fun _ => keeps_bind (keeps_require _ _) fun _ =>
    keeps_set (hP.soft' hs)

/-! ## Near transfers -/

theorem keeps_jumpTo (v : Word) : Keeps P (jumpTo v) := keeps_modify fun _ hs => hP.soft' hs

theorem keeps_push (z : Sz) (v : Word) : Keeps P (push z v) :=
  keeps_bind (keeps_get_bind fun _ _ => hP.keeps_pushPlaces _ _ _ _ _ _) fun _ =>
    keeps_bind (hP.keeps_pushValues _ _) fun _ => hP.keeps_setEsp _

theorem keeps_jumpRel (d : Word) : Keeps P (jumpRel d) :=
  keeps_get_bind fun _ _ => keeps_bind (keeps_nearTarget _) fun _ => hP.keeps_jumpTo _

theorem keeps_jccRel (c : Cc) (d : Sz → Word) : Keeps P (jccRel c d) :=
  keeps_get_bind fun _ _ => keeps_ite (hP.keeps_jumpRel _) hP.keeps_advance

theorem keeps_callNear (v : Word) : Keeps P (callNear v) :=
  keeps_get_bind fun _ _ => keeps_bind (keeps_nearTarget _) fun _ => keeps_bind (hP.keeps_push _ _) fun _ =>
    hP.keeps_jumpTo _

theorem keeps_retNear (n : Nat) : Keeps P (retNear n) :=
  keeps_get_bind fun _ _ => keeps_bind (hP.keeps_peek _ _) fun _ => keeps_bind (keeps_nearTarget _) fun _ =>
    keeps_bind (hP.keeps_setEsp _) fun _ => hP.keeps_jumpTo _

/-! ## Descriptor-table and debug registers, flags -/

theorem keeps_loadTable (m : Mem) : Keeps P (loadTable m) :=
  keeps_bind (hP.keeps_memAddrs _ _ _ _) fun _ => keeps_bind (hP.keeps_memAddrsAt _ _ _ _ _) fun _ =>
    keeps_bind (hP.keeps_phRead _) fun _ => keeps_bind (hP.keeps_phRead _) fun _ =>
      keeps_get_bind fun _ _ => keeps_pure _

theorem keeps_storeTable (m : Mem) (t : TableReg) : Keeps P (storeTable m t) := by
  unfold storeTable
  refine keeps_bind (hP.keeps_memAddrs _ _ _ _) fun lim => keeps_bind (hP.keeps_memAddrsAt _ _ _ _ _) fun base => ?_
  have store (b : Nat) : Keeps P (do phWrite lim t.limit.toNat; phWrite base b) :=
    keeps_bind (hP.keeps_phWrite _ _) fun _ => hP.keeps_phWrite _ _
  exact keeps_get_bind fun s hs => keeps_ite (keeps_bind hP.keeps_fresh fun _ => store _) (store _)

theorem keeps_lldtBody (sel : Half) : Keeps P (lldtBody sel) := by
  unfold lldtBody
  refine keeps_ite (keeps_modify fun _ hs => hP.soft' hs) (keeps_bind (keeps_require _ _) fun _ => ?_)
  refine keeps_bind (hP.keeps_readDesc _ _) fun _ => keeps_bind (keeps_require _ _) fun _ => ?_
  exact keeps_bind (keeps_require _ _) fun _ => keeps_modify fun _ hs => hP.soft' hs

theorem keeps_ltrBody (sel : Half) : Keeps P (ltrBody sel) := by
  unfold ltrBody
  refine keeps_bind (keeps_require _ _) fun _ => keeps_bind (keeps_require _ _) fun _ => ?_
  refine keeps_bind (hP.keeps_readDesc _ _) fun _ => keeps_bind (keeps_require _ _) fun _ => ?_
  refine keeps_bind (keeps_require _ _) fun _ => keeps_bind (hP.keeps_busyAddr _) fun _ => ?_
  exact keeps_bind (hP.keeps_phWrite _ _) fun _ => keeps_modify fun _ hs => hP.soft' hs

theorem keeps_loadPdptesIf (c : Bool) (cr3 : Word) : Keeps P (loadPdptesIf c cr3) :=
  keeps_ite (keeps_bind (keeps_readPdptes _ _) fun _ => keeps_modify fun _ hs => hP.soft' hs) (keeps_pure _)

theorem keeps_freeStatusFlags : Keeps P freeStatusFlags := by
  unfold freeStatusFlags
  iterate 6 refine keeps_bind hP.keeps_freshBit fun _ => ?_
  exact hP.keeps_setFlags _

theorem keeps_writeDr (d : DrN) (r : Reg) :
    Keeps P (modify fun s => { s with sys := s.sys.writeDr d (s.gpr.get r) }) := by
  refine keeps_modify fun _ hs => ?_
  cases d <;> exact hP.soft' hs

theorem keeps_cliBody : Keeps P cliBody :=
  keeps_get_bind fun _ _ => keeps_ite (hP.keeps_setFlags _) (keeps_ite (hP.keeps_setFlags _) keeps_gp0)

theorem keeps_stiBody : Keeps P stiBody := by
  unfold stiBody
  refine keeps_get_bind fun s hs => keeps_ite (keeps_bind (hP.keeps_setFlags _) fun _ => ?_) (keeps_ite ?_ keeps_gp0)
  · exact keeps_ite (keeps_modify fun _ hs => hP.soft' hs) (keeps_pure _)
  · exact keeps_bind (keeps_require _ _) fun _ => hP.keeps_setFlags _

/-! ## Pointer validation -/

theorem keeps_setZf (b : Bool) : Keeps P (setZf b) := hP.keeps_setFlags _

theorem keeps_larBody (r : Reg) (sel : Half) : Keeps P (larBody r sel) := by
  unfold larBody
  refine keeps_get_bind fun s hs => keeps_bind (hP.keeps_visible _) fun o => ?_
  cases o with
  | none => exact hP.keeps_setZf _
  | some d =>
    have load (f : Word) : Keeps P (do
        modify fun s => s.setReg s.osz r (larResult s.osz d f)
        setZf true) :=
      keeps_bind (keeps_modify fun _ hs => hP.soft' hs) fun _ => hP.keeps_setZf _
    exact keeps_ite (keeps_ite (load _) (keeps_bind hP.keeps_fresh fun _ => load _)) (hP.keeps_setZf _)

theorem keeps_lslBody (r : Reg) (sel : Half) : Keeps P (lslBody r sel) := by
  unfold lslBody
  refine keeps_get_bind fun s hs => keeps_bind (hP.keeps_visible _) fun o => ?_
  cases o with
  | none => exact hP.keeps_setZf _
  | some d =>
    exact keeps_ite (keeps_bind (keeps_modify fun _ hs => hP.soft' hs) fun _ => hP.keeps_setZf _) (hP.keeps_setZf _)

theorem keeps_verifyBody (w : Bool) (sel : Half) : Keeps P (verifyBody w sel) := by
  unfold verifyBody
  refine keeps_get_bind fun s hs => keeps_bind (hP.keeps_visible _) fun o => ?_
  cases o <;> exact hP.keeps_setZf _

theorem keeps_arplBody (dst : RM Reg) (r : Reg) : Keeps P (arplBody dst r) :=
  keeps_bind (hP.keeps_place _ _ _) fun p => keeps_bind (hP.keeps_placeGet p) fun _ => keeps_get_bind fun _ _ =>
    keeps_ite (keeps_bind (hP.keeps_placeSet p _) fun _ => hP.keeps_setZf _) (hP.keeps_setZf _)

/-- The instructions of R260 to R265 that take a selector from an r/m operand: protected mode, the operand, the body. -/
theorem keeps_withSel (src : RM Reg) {f : Word → M Unit} (hf : ∀ v, Keeps P (f v)) :
    Keeps P (do requireProt; f (← readRM .w src)) :=
  keeps_bind keeps_requireProt fun _ => keeps_bind (hP.keeps_readRM _ _) hf

/-! ## The stack -/

theorem keeps_popRmOp (dst : RM Reg) : Keeps P (popRmOp dst) :=
  keeps_get_bind fun _ _ => keeps_bind (hP.keeps_peek _ _) fun _ => keeps_bind (hP.keeps_setEsp _) fun _ =>
    keeps_bind (hP.keeps_place _ _ _) fun p => hP.keeps_placeSet p _

theorem keeps_pushSeg (x : Seg) : Keeps P (pushSeg x) := keeps_get_bind fun _ _ => hP.keeps_push _ _

theorem keeps_popSeg (x : Seg) : Keeps P (popSeg x) :=
  keeps_get_bind fun _ _ => keeps_bind (hP.keeps_peek _ _) fun _ => keeps_bind (hP.keeps_loadSeg _ _) fun _ =>
    keeps_bind (hP.keeps_commitSeg _ _) fun _ => hP.keeps_setEsp _

theorem keeps_popfBody : Keeps P popfBody :=
  keeps_get_bind fun _ _ => keeps_bind (hP.keeps_peek _ _) fun _ => keeps_bind (hP.keeps_setFlags _) fun _ =>
    hP.keeps_setEsp _

/-! ## Waiting, TLB maintenance, floating point -/

theorem keeps_invlpgBody (m : Mem) : Keeps P (invlpgBody m) := keeps_modify fun _ hs => hP.soft' hs

theorem keeps_monitorBody : Keeps P monitorBody :=
  keeps_bind keeps_requireMonitor fun _ => keeps_get_bind fun _ _ => keeps_bind (hP.keeps_dataAddrs _ _ _ _ _) fun _ =>
    keeps_modify fun _ hs => hP.soft' hs

theorem keeps_mwaitBody : Keeps P mwaitBody :=
  keeps_bind keeps_requireMonitor fun _ => keeps_modify fun _ hs => hP.soft' hs

end Stable
end Sys2Proof.Machine
end

section
/-! PROOFS. One step keeps what the elementary updates of the state keep: said once, for any property, so that each invariant is
left with its own updates only. -/
namespace Sys2Proof.Machine

variable {P : State → Prop}

/-- What the updates that only some instructions and events make do to a property that depends on memory, CR0, CR4, the copies
saved in SMM and the vectors in the local APIC alone. -/
structure StepStable (P : State → Prop) : Prop extends Stable P where
  /-- MOV to CR0 may store a value that keeps paging within protected mode and NW with CD, after the PDPTEs are loaded -/
  cr0 : ∀ s t v, P s → P t → (bit v 31 = true → bit v 0 = true) → (bit v 29 = true → bit v 30 = true) →
    P { t with sys := { t.sys with cr0 := cr0Next s.sys.cr0 v } }
  /-- MOV to CR4 may store a value without reserved bits -/
  cr4 : ∀ s v, P s → v.toNat < 2 ^ 11 → P { s with sys := { s.sys with cr4 := v } }
  /-- LMSW may change the low bits of CR0 -/
  lmsw : ∀ s v, P s → P (lmswWrite s v)
  /-- CLTS may clear CR0.TS -/
  clts : ∀ s, P s → P { s with sys := { s.sys with cr0 := setBit s.sys.cr0 3 false } }
  /-- the processor state may be saved on entry to SMM -/
  enterSmm : ∀ s, P s → P s.enterSmm
  /-- the saved processor state may come back -/
  leaveSmm : ∀ s, P s → P s.leaveSmm
  /-- INIT may happen -/
  afterInit : ∀ s, P s → P s.afterInit
  /-- RESET may happen -/
  afterReset : ∀ s, P s → P s.afterReset
  /-- all of memory may be written back -/
  wbinvd : ∀ s, P s → P { s with memWb := s.mem }
  /-- some bytes may be written back -/
  writeBack : ∀ s pas, P s → P (s.writeBack pas)
  /-- the caches may be dropped -/
  invd : ∀ s k w, P s →
    P { s with mem := invdMemory k w s.mem s.memWb, memWb := invdMemory k w s.mem s.memWb }
  /-- another agent may store bytes -/
  agentWrite : ∀ s ws, P s → P (s.agentWrite ws)
  /-- a request that is accepted may be acknowledged -/
  acknowledge : ∀ s r, s.request = some r → P s → P (s.acknowledge r)
  /-- a request whose delivery met an exception may be put back -/
  putBack : ∀ s t r, P s → P t → P (t.putBack s r)

/-- A value that CR4 may take has no reserved bit (R39). -/
theorem lt_of_cr4Allowed {c : Config.Params} {v : Word} (h : cr4Allowed c v = true) : v.toNat < 2 ^ 11 := by
  simp only [cr4Allowed, Bool.and_eq_true, decide_eq_true_eq] at h
  omega

namespace StepStable

variable (hP : StepStable P)
include hP

/-! ## Control registers -/

theorem keeps_writeCr0 (v : Word) : Keeps P (writeCr0 v) := by
  unfold writeCr0
  refine keeps_get_bind fun s hs => keeps_require_bind fun hpg => keeps_require_bind fun hnw => ?_
  refine keeps_bind (hP.keeps_loadPdptesIf _ _) fun _ => keeps_modify fun t ht => ?_
  have h := hP.cr0 s t v hs ht (by simpa [imp_iff_not_or] using hpg)
    (by simpa [imp_iff_not_or] using hnw)
  dsimp only
  split
  · exact hP.soft' h
  · exact h

theorem keeps_writeCr3 (v : Word) : Keeps P (writeCr3 v) :=
  keeps_get_bind fun _ _ => keeps_bind (hP.keeps_loadPdptesIf _ _) fun _ => keeps_modify fun _ ht => hP.soft' ht

theorem keeps_writeCr4 (v : Word) : Keeps P (writeCr4 v) := by
  unfold writeCr4
  refine keeps_get_bind fun s hs => keeps_require_bind fun hv => ?_
  refine keeps_bind (hP.keeps_loadPdptesIf _ _) fun _ => keeps_modify fun t ht => ?_
  have h := hP.cr4 t v ht (lt_of_cr4Allowed hv)
  dsimp only
  split
  · exact hP.soft' h
  · exact h

theorem keeps_writeCr (c : CrN) (v : Word) : Keeps P (writeCr c v) := by
  cases c with
  | cr0 => exact keeps_bind (hP.keeps_writeCr0 v) fun _ => hP.keeps_disarm
  | cr2 => exact keeps_modify fun _ hs => hP.soft' hs
  | cr3 => exact keeps_bind (hP.keeps_writeCr3 v) fun _ => hP.keeps_disarm
  | cr4 => exact keeps_bind (hP.keeps_writeCr4 v) fun _ => hP.keeps_disarm

/-! ## Caches and SMM -/

theorem keeps_invdBody : Keeps P invdBody :=
  keeps_bind hP.keeps_fresh fun _ => keeps_modify fun s hs => hP.invd s _ _ hs

theorem keeps_clflushBody (m : Mem) : Keeps P (clflushBody m) := by
  unfold clflushBody
  refine keeps_get_bind fun s hs => ?_
  split
  · exact keeps_set (hP.writeBack s _ hs)
  · exact keeps_pure _

/-- RSM ends SMM as the host's `smm_leave` does (R390). -/
theorem keeps_rsmBody : Keeps P rsmBody := by
  intro s hs
  unfold rsmBody
  rw [run_get_bind]
  have h := hP.leaveSmm s hs
  unfold State.leaveSmm at h
  cases hm : s.smm with
  | none => exact hs
  | some p =>
    rw [hm] at h
    exact h

/-! ## Instructions -/

/-- An instruction leads to a state with the property. -/
theorem exec (i : Instr) {s : State} (hs : P s) : Res P (exec i s) := by
  cases i with
  -- arithmetic and logic
  | addRm8R8 _ _ | orRm8R8 _ _ | adcRm8R8 _ _ | sbbRm8R8 _ _ | andRm8R8 _ _ | subRm8R8 _ _ | xorRm8R8 _ _
  | cmpRm8R8 _ _ => exact hP.runInsn (hP.keeps_aluOp _ _ (fun _ => hP.keeps_place8 _ _) (keeps_regVal8 _)) hs
  | addRmR _ _ | orRmR _ _ | adcRmR _ _ | sbbRmR _ _ | andRmR _ _ | subRmR _ _ | xorRmR _ _ | cmpRmR _ _ =>
    exact hP.runInsn (keeps_atOsz fun _ => hP.keeps_aluOp _ _ (fun _ => hP.keeps_place _ _ _) (keeps_regVal _ _)) hs
  | addR8Rm8 _ _ | orR8Rm8 _ _ | adcR8Rm8 _ _ | sbbR8Rm8 _ _ | andR8Rm8 _ _ | subR8Rm8 _ _ | xorR8Rm8 _ _
  | cmpR8Rm8 _ _ => exact hP.runInsn (hP.keeps_aluOp _ _ (fun _ => keeps_pure _) (hP.keeps_readRM8 _)) hs
  | addRRm _ _ | orRRm _ _ | adcRRm _ _ | sbbRRm _ _ | andRRm _ _ | subRRm _ _ | xorRRm _ _ | cmpRRm _ _ =>
    exact hP.runInsn (keeps_atOsz fun _ => hP.keeps_aluOp _ _ (fun _ => keeps_pure _) (hP.keeps_readRM _ _)) hs
  | addRm8Imm8 _ _ | orRm8Imm8 _ _ | adcRm8Imm8 _ _ | sbbRm8Imm8 _ _ | andRm8Imm8 _ _ | subRm8Imm8 _ _
  | xorRm8Imm8 _ _ | cmpRm8Imm8 _ _ | addAlImm8 _ | orAlImm8 _ | adcAlImm8 _ | sbbAlImm8 _ | andAlImm8 _
  | subAlImm8 _ | xorAlImm8 _ | cmpAlImm8 _ =>
    exact hP.runInsn (hP.keeps_aluOp _ _ (fun _ => hP.keeps_place8 _ _) (keeps_pure _)) hs
  | addRmImm _ _ | orRmImm _ _ | adcRmImm _ _ | sbbRmImm _ _ | andRmImm _ _ | subRmImm _ _ | xorRmImm _ _
  | cmpRmImm _ _ | addRmImm8 _ _ | orRmImm8 _ _ | adcRmImm8 _ _ | sbbRmImm8 _ _ | andRmImm8 _ _ | subRmImm8 _ _
  | xorRmImm8 _ _ | cmpRmImm8 _ _ | addEaxImm _ | orEaxImm _ | adcEaxImm _ | sbbEaxImm _ | andEaxImm _
  | subEaxImm _ | xorEaxImm _ | cmpEaxImm _ =>
    exact hP.runInsn (keeps_atOsz fun _ => hP.keeps_aluOp _ _ (fun _ => hP.keeps_place _ _ _) (keeps_pure _)) hs
  | testRm8R8 _ _ => exact hP.runInsn (hP.keeps_testOp _ (hP.keeps_place8 _ _) (keeps_regVal8 _)) hs
  | testRmR _ _ =>
    exact hP.runInsn (keeps_atOsz fun _ => hP.keeps_testOp _ (hP.keeps_place _ _ _) (keeps_regVal _ _)) hs
  | testRm8Imm8 _ _ => exact hP.runInsn (hP.keeps_testOp _ (hP.keeps_place8 _ _) (keeps_pure _)) hs
  | testRmImm _ _ =>
    exact hP.runInsn (keeps_atOsz fun _ => hP.keeps_testOp _ (hP.keeps_place _ _ _) (keeps_pure _)) hs
  | testAlImm8 _ => exact hP.runInsn (hP.keeps_testOp _ (keeps_pure _) (keeps_pure _)) hs
  | testEaxImm _ => exact hP.runInsn (keeps_atOsz fun _ => hP.keeps_testOp _ (keeps_pure _) (keeps_pure _)) hs
  | incRm8 _ | decRm8 _ | notRm8 _ | negRm8 _ => exact hP.runInsn (hP.keeps_unaryOp _ _ (hP.keeps_place8 _ _)) hs
  | incRm _ | decRm _ | notRm _ | negRm _ =>
    exact hP.runInsn (keeps_atOsz fun _ => hP.keeps_unaryOp _ _ (hP.keeps_place _ _ _)) hs
  | incR _ | decR _ => exact hP.runInsn (keeps_atOsz fun _ => hP.keeps_unaryOp _ _ (keeps_pure _)) hs
  -- XADD, CMPXCHG, CMPXCHG8B, bit instructions
  | xaddRm8R8 _ _ => exact hP.runInsn (keeps_bind keeps_from486 fun _ => hP.keeps_xaddOp _ _ (hP.keeps_place8 _ _)) hs
  | xaddRmR _ _ =>
    exact hP.runInsn (keeps_bind keeps_from486 fun _ => keeps_atOsz fun _ =>
      hP.keeps_xaddOp _ _ (hP.keeps_place _ _ _)) hs
  | cmpxchgRm8R8 _ _ =>
    exact hP.runInsn (keeps_bind keeps_from486 fun _ => hP.keeps_cmpxchgOp _ _ _ (hP.keeps_place8 _ _)) hs
  | cmpxchgRmR _ _ =>
    exact hP.runInsn (keeps_bind keeps_from486 fun _ => keeps_atOsz fun _ =>
      hP.keeps_cmpxchgOp _ _ _ (hP.keeps_place _ _ _)) hs
  | cmpxchg8b _ =>
    exact hP.runInsn (keeps_get_bind fun _ _ => keeps_bind (keeps_require _ _) fun _ => hP.keeps_cmpxchg8bOp _) hs
  | btRmImm8 _ _ | btsRmImm8 _ _ | btrRmImm8 _ _ | btcRmImm8 _ _ => exact hP.runInsn (hP.keeps_bitImm _ _ _) hs
  | btRmR _ _ | btsRmR _ _ | btrRmR _ _ | btcRmR _ _ => exact hP.runInsn (hP.keeps_bitReg _ _ _) hs
  -- data movement
  | movRm8R8 _ _ | movMoffs8Al _ => exact hP.runInsn (hP.keeps_movOp (hP.keeps_place8 _ _) (keeps_regVal8 _)) hs
  | movRmR _ _ | movMoffsEax _ =>
    exact hP.runInsn (keeps_atOsz fun _ => hP.keeps_movOp (hP.keeps_place _ _ _) (keeps_regVal _ _)) hs
  | movR8Rm8 _ _ | movAlMoffs8 _ => exact hP.runInsn (hP.keeps_movOp (keeps_pure _) (hP.keeps_readRM8 _)) hs
  | movRRm _ _ | movEaxMoffs _ =>
    exact hP.runInsn (keeps_atOsz fun _ => hP.keeps_movOp (keeps_pure _) (hP.keeps_readRM _ _)) hs
  | movR8Imm8 _ _ => exact hP.runInsn (hP.keeps_movOp (keeps_pure _) (keeps_pure _)) hs
  | movRImm _ _ => exact hP.runInsn (keeps_atOsz fun _ => hP.keeps_movOp (keeps_pure _) (keeps_pure _)) hs
  | movRm8Imm8 _ _ => exact hP.runInsn (hP.keeps_movOp (hP.keeps_place8 _ _) (keeps_pure _)) hs
  | movRmImm _ _ => exact hP.runInsn (keeps_atOsz fun _ => hP.keeps_movOp (hP.keeps_place _ _ _) (keeps_pure _)) hs
  | movnti _ _ =>
    exact hP.runInsn (keeps_get_bind fun _ _ => keeps_bind (keeps_require _ _) fun _ =>
      hP.keeps_movOp (hP.keeps_place _ _ _) (keeps_regVal _ _)) hs
  | lea _ _ | cpuid => exact hP.runInsn (keeps_modify fun _ ht => hP.soft' ht) hs
  | hlt => exact hP.runInsn (keeps_bind keeps_requireCpl0 fun _ => keeps_modify fun _ ht => hP.soft' ht) hs
  | xchgRm8R8 _ _ => exact hP.runInsn (hP.keeps_xchgOp _ (hP.keeps_place8 _ _)) hs
  | xchgRmR _ _ => exact hP.runInsn (keeps_atOsz fun _ => hP.keeps_xchgOp _ (hP.keeps_place _ _ _)) hs
  | xchgEaxR _ => exact hP.runInsn (keeps_atOsz fun _ => hP.keeps_xchgOp _ (keeps_pure _)) hs
  -- segment registers and the stack
  | movRmSreg _ _ | smsw _ => exact hP.runInsn (keeps_get_bind fun _ _ => hP.keeps_storeSel _ _ _) hs
  | sldt _ | str _ =>
    exact hP.runInsn (keeps_bind keeps_requireProt fun _ => keeps_get_bind fun _ _ => hP.keeps_storeSel _ _ _) hs
  | movSregRm16 _ _ =>
    exact hP.runInsn (keeps_bind (keeps_require _ _) fun _ => keeps_bind (hP.keeps_readRM _ _) fun _ =>
      keeps_bind (hP.keeps_loadSeg _ _) fun _ => hP.keeps_commitSeg _ _) hs
  | pushEs | pushCs | pushSs | pushDs | pushFs | pushGs => exact hP.runInsn (hP.keeps_pushSeg _) hs
  | popEs | popSs | popDs | popFs | popGs => exact hP.runInsn (hP.keeps_popSeg _) hs
  | pushR _ | pushf => exact hP.runInsn (keeps_get_bind fun _ _ => hP.keeps_push _ _) hs
  | pushImm8 _ | pushImm32 _ => exact hP.runInsn (keeps_atOsz fun _ => hP.keeps_push _ _) hs
  | pushRm _ => exact hP.runInsn (keeps_atOsz fun _ => keeps_bind (hP.keeps_readRM _ _) fun _ => hP.keeps_push _ _) hs
  | popR _ | popRm _ => exact hP.runInsn (hP.keeps_popRmOp _) hs
  | popf => exact hP.runInsn hP.keeps_popfBody hs
  -- near transfers
  | joRel8 _ | jnoRel8 _ | jbRel8 _ | jaeRel8 _ | jeRel8 _ | jneRel8 _ | jbeRel8 _ | jaRel8 _ | jsRel8 _
  | jnsRel8 _ | jpRel8 _ | jnpRel8 _ | jlRel8 _ | jgeRel8 _ | jleRel8 _ | jgRel8 _ | joRel32 _ | jnoRel32 _
  | jbRel32 _ | jaeRel32 _ | jeRel32 _ | jneRel32 _ | jbeRel32 _ | jaRel32 _ | jsRel32 _ | jnsRel32 _
  | jpRel32 _ | jnpRel32 _ | jlRel32 _ | jgeRel32 _ | jleRel32 _ | jgRel32 _ =>
    exact hP.runJump (hP.keeps_jccRel _ _) hs
  | jecxzRel8 _ => exact hP.runJump (keeps_get_bind fun _ _ => keeps_ite (hP.keeps_jumpRel _) hP.keeps_advance) hs
  | jmpRel8 _ => exact hP.runJump (hP.keeps_jumpRel _) hs
  | jmpRel32 _ => exact hP.runJump (keeps_atOsz fun _ => hP.keeps_jumpRel _) hs
  | jmpRm32 _ =>
    exact hP.runJump (keeps_atOsz fun _ => keeps_bind (hP.keeps_readRM _ _) fun _ =>
      keeps_bind (keeps_nearTarget _) fun _ => hP.keeps_jumpTo _) hs
  | callRel32 _ => exact hP.runJump (keeps_get_bind fun _ _ => hP.keeps_callNear _) hs
  | callRm32 _ =>
    exact hP.runJump (keeps_atOsz fun _ => keeps_bind (hP.keeps_readRM _ _) fun _ => hP.keeps_callNear _) hs
  | ret | retImm16 _ => exact hP.runJump (hP.keeps_retNear _) hs
  -- far transfers, interrupts, exceptions
  | jmpPtr1632 _ _ => exact hP.runJump (keeps_atOsz fun _ => hP.keeps_jmpFar _ _ _) hs
  | jmpM1632 _ =>
    exact hP.runJump (keeps_atOsz fun _ => keeps_bind (hP.keeps_farPointer _ _) fun _ => hP.keeps_jmpFar _ _ _) hs
  | callPtr1632 _ _ => exact hP.runJump (keeps_atOsz fun _ => hP.keeps_callFar _ _ _) hs
  | callM1632 _ =>
    exact hP.runJump (keeps_atOsz fun _ => keeps_bind (hP.keeps_farPointer _ _) fun _ => hP.keeps_callFar _ _ _) hs
  | retFar | retFarImm16 _ => exact hP.runJump (hP.keeps_retFarBody _) hs
  | int3 | intImm8 _ => exact hP.softInt _ hs
  | into =>
    show Res P (execInto s)
    unfold execInto
    split
    · exact hP.softInt _ hs
    · exact hP.runInsn (keeps_pure _) hs
  | bound _ _ => exact hP.runInsn (hP.keeps_boundBody _ _) hs
  | iret => exact hP.runJump hP.keeps_iretBody hs
  | sysenter => exact hP.runJump hP.keeps_sysenterBody hs
  | sysexit => exact hP.runJump hP.keeps_sysexitBody hs
  | ud2 => exact hP.runInsn (keeps_raise _) hs
  -- NOP, PAUSE and what may stand before an instruction
  | nop | pause => exact hP.runInsn (keeps_pure _) hs
  | lock | repne | rep | segCs | segSs | segDs | segEs | segFs | segGs | opsize | addrsize => exact hP.soft' hs
  -- I/O and model-specific registers
  | inAlImm8 _ | inAlDx => exact hP.runInsn (hP.keeps_inOp _ _ _) hs
  | inEaxImm8 _ | inEaxDx => exact hP.runInsn (keeps_atOsz fun _ => hP.keeps_inOp _ _ _) hs
  | outImm8Al _ | outDxAl => exact hP.runInsn (hP.keeps_outOp _ _ _) hs
  | outImm8Eax _ | outDxEax => exact hP.runInsn (keeps_atOsz fun _ => hP.keeps_outOp _ _ _) hs
  | rdmsr => exact hP.runInsn hP.keeps_rdmsrBody hs
  | wrmsr => exact hP.runInsn hP.keeps_wrmsrBody hs
  | rdtsc => exact hP.runInsn hP.keeps_rdtscBody hs
  | rdpmc => exact hP.runInsn keeps_rdpmcBody hs
  -- tables, control and debug registers, flags
  | sgdt _ | sidt _ => exact hP.runInsn (keeps_get_bind fun _ _ => hP.keeps_storeTable _ _) hs
  | lgdt _ | lidt _ =>
    exact hP.runInsn (keeps_bind keeps_requireCpl0 fun _ => keeps_bind (hP.keeps_loadTable _) fun _ =>
      keeps_modify fun _ ht => hP.soft' ht) hs
  | lldt _ =>
    exact hP.runInsn (keeps_bind keeps_requireProt fun _ => keeps_bind keeps_requireCpl0 fun _ =>
      keeps_bind (hP.keeps_readRM _ _) fun _ => hP.keeps_lldtBody _) hs
  | ltr _ =>
    exact hP.runInsn (keeps_bind keeps_requireProt fun _ => keeps_bind keeps_requireCpl0 fun _ =>
      keeps_bind (hP.keeps_readRM _ _) fun _ => hP.keeps_ltrBody _) hs
  | movR32Crn _ _ =>
    exact hP.runInsn (keeps_bind keeps_requireCpl0 fun _ =>
      keeps_bind (keeps_modify fun _ ht => hP.soft' ht) fun _ => hP.keeps_freeStatusFlags) hs
  | movR32Drn _ _ =>
    exact hP.runInsn (keeps_bind (keeps_checkDr _) fun _ => keeps_bind keeps_requireCpl0 fun _ =>
      keeps_modify fun _ ht => hP.soft' ht) hs
  | movDrnR32 _ _ =>
    exact hP.runInsn (keeps_bind (keeps_checkDr _) fun _ => keeps_bind keeps_requireCpl0 fun _ =>
      hP.keeps_writeDr _ _) hs
  | cli => exact hP.runInsn hP.keeps_cliBody hs
  | sti => exact hP.runInsn hP.keeps_stiBody hs
  | lmsw _ =>
    exact hP.runInsn (keeps_bind keeps_requireCpl0 fun _ => keeps_bind (hP.keeps_readRM _ _) fun _ =>
      keeps_modify fun s ht => hP.soft' (hP.lmsw s _ ht)) hs
  | clts => exact hP.runInsn (keeps_bind keeps_requireCpl0 fun _ => keeps_modify hP.clts) hs
  | movCrnR32 _ _ =>
    exact hP.runInsn (keeps_bind keeps_requireCpl0 fun _ => keeps_get_bind fun _ _ => hP.keeps_writeCr _ _) hs
  -- pointer validation
  | lar _ _ => exact hP.runInsn (hP.keeps_withSel _ fun _ => hP.keeps_larBody _ _) hs
  | lsl _ _ => exact hP.runInsn (hP.keeps_withSel _ fun _ => hP.keeps_lslBody _ _) hs
  | verr _ | verw _ => exact hP.runInsn (hP.keeps_withSel _ fun _ => hP.keeps_verifyBody _ _) hs
  | arpl _ _ => exact hP.runInsn (keeps_bind keeps_requireProt fun _ => hP.keeps_arplBody _ _) hs
  -- caches, waiting, SMM, floating point
  | invlpg _ =>
    exact hP.runInsn (keeps_bind keeps_from486 fun _ => keeps_bind keeps_requireCpl0 fun _ => hP.keeps_invlpgBody _) hs
  | lfence | mfence => exact hP.runInsn keeps_fromP4 hs
  | sfence => exact hP.runInsn (keeps_get_bind fun _ _ => keeps_require _ _) hs
  | monitor => exact hP.runInsn hP.keeps_monitorBody hs
  | mwait => exact hP.runInsn hP.keeps_mwaitBody hs
  | fxsave _ | fxrstor _ => exact hP.runInsn (keeps_bind keeps_requireFpu fun _ => keeps_refuse _) hs
  | ldmxcsr _ | stmxcsr _ => exact hP.runInsn (keeps_bind keeps_requireSse fun _ => keeps_refuse _) hs
  | invd => exact hP.runInsn (keeps_bind keeps_requireCpl0 fun _ => hP.keeps_invdBody) hs
  | wbinvd => exact hP.runInsn (keeps_bind keeps_requireCpl0 fun _ => keeps_modify hP.wbinvd) hs
  | clflush _ => exact hP.runInsn (keeps_bind keeps_fromP4 fun _ => hP.keeps_clflushBody _) hs
  | rsm => exact hP.runJump hP.keeps_rsmBody hs

/-- Items that lead to a next state lead to one with the property. -/
theorem runItems (is : List Instr) {s : State} (hs : P s) : Res P (runItems is s) := by
  induction is generalizing s with
  | nil => exact hs
  | cons i is ih =>
    have h := hP.exec i hs
    unfold Machine.runItems
    split
    · rename_i hi; rw [hi] at h; exact ih h
    · trivial
    · trivial

theorem singleStep (b : Bool) {r : Result} (hr : Res P r) : Res P (singleStep b r) := by
  cases r with
  | next t =>
    show P _
    split
    · exact hP.soft' hr
    · exact hr
  | fault f => trivial
  | refused r => trivial

/-! ## Fetching -/

omit hP in
theorem keeps_fetchBytes (pas : List Nat) : Keeps P (fetchBytes pas) :=
  keeps_get_bind fun _ _ => keeps_when (keeps_throw _) (keeps_pure _)

omit hP in
theorem keeps_fpuOpcode {α : Type} (k : FpuClass) (l : Bool) : Keeps P (fpuOpcode k l : M α) :=
  keeps_get_bind fun _ _ => keeps_bind (keeps_require _ _) fun _ => keeps_bind (keeps_require _ _) fun _ =>
    keeps_bind (keeps_require _ _) fun _ => keeps_refuse _

theorem keeps_fetchInsn : Keeps P fetchInsn := by
  unfold fetchInsn
  refine keeps_get_bind fun s hs => keeps_bind (keeps_require _ _) fun _ => ?_
  refine keeps_bind (hP.keeps_translate _ _ _) fun p1 => keeps_bind (keeps_fetchBytes _) fun b1 => ?_
  split
  · exact keeps_pure _
  · exact keeps_raise _
  · exact keeps_fpuOpcode _ _
  · refine keeps_bind (keeps_require _ _) fun _ => keeps_bind (hP.keeps_translate _ _ _) fun p2 => ?_
    refine keeps_bind (keeps_fetchBytes _) fun b2 => ?_
    split
    · exact keeps_pure _
    · exact keeps_raise _
    · exact keeps_fpuOpcode _ _
    · exact keeps_gp0

theorem runInstruction {s : State} (hs : P s) : Res P (runInstruction s) := by
  have h := hP.keeps_fetchInsn s hs
  unfold Machine.runInstruction
  split
  · trivial
  · split
    · rename_i hf; rw [hf] at h; exact hP.singleStep _ (hP.runItems _ (hP.soft' h))
    · rename_i hf; rw [hf] at h; exact hP.takeException _ (hP.mix s _ hs h)
    · rename_i hf; rw [hf] at h; exact hP.takeTaskException _ h
    · trivial
    · trivial

/-! ## The platform's inputs -/

theorem keeps_lintInput (e : Lvt) (f : Pending → Pending) : Keeps P (lintInput e f) :=
  keeps_get_bind fun _ _ => keeps_bind (keeps_modify fun _ hs => hP.soft' hs) fun _ => hP.keeps_lintEdge _ _

theorem apicErrors_foldl (bits : BitVec 4) (ks : List Nat) {s : State} (hs : P s) :
    P (ks.foldl (fun t k => if bits.getLsbD k then t.apicError k else t) s) := by
  induction ks generalizing s with
  | nil => exact hs
  | cons k ks ih =>
    rw [List.foldl_cons]
    split
    · exact ih (hP.apicError hs k)
    · exact ih hs

theorem keeps_busErrors (bits : BitVec 4) : Keeps P (busErrors bits) := by
  refine keeps_modify fun s hs => ?_
  split
  · exact hP.apicErrors_foldl bits _ hs
  · exact hs

theorem keeps_applyInput (i : Input) : Keeps P (applyInput i) := by
  refine keeps_get_bind fun s hs => ?_
  cases i with
  | reset => exact keeps_set (hP.afterReset s hs)
  | initPin => exact keeps_set (hP.postInit hs)
  | nmi => exact keeps_set (hP.postNmi hs)
  | smi => exact keeps_set (hP.postSmi hs)
  | smmLeave => exact keeps_set (hP.leaveSmm s hs)
  | lint0 a v => exact hP.keeps_lintInput _ _
  | lint1 a => exact hP.keeps_lintInput _ _
  | message m => exact hP.keeps_acceptMessage m
  | msi a d c => exact hP.keeps_acceptMsi a d c
  | busError bits => exact hP.keeps_busErrors bits
  | thermal => exact keeps_ite (hP.keeps_localDeliver _) (keeps_pure _)
  | perfOverflow => exact keeps_ite hP.keeps_perfDeliver (keeps_pure _)
  | timerTick => exact hP.keeps_timerTick
  | store a bs => exact keeps_set (hP.agentWrite s _ hs)
  | a20m a =>
    refine keeps_set ?_
    split <;> exact hP.soft' hs
  | mwaitWake =>
    refine keeps_set ?_
    split
    · exact hP.soft' hs
    · exact hs
  | stpclk _ | ignne _ | ipiAccepted | tscTicks _ | binit | mcerr => exact keeps_set (hP.soft' hs)

theorem keeps_applyInputs : ∀ is, Keeps P (applyInputs is)
  | [] => keeps_pure _
  | i :: is => keeps_bind (hP.keeps_applyInput i) fun _ => keeps_applyInputs is

theorem updateIntr {s : State} (hs : P s) : P s.updateIntr := by
  unfold State.updateIntr
  split
  · exact hP.soft' hs
  · split
    · exact hP.soft' hs
    · exact hs

theorem keeps_boundary : Keeps P boundary := by
  unfold boundary
  have rest : Keeps P (do pollLocal; modify State.updateIntr) :=
    keeps_bind hP.keeps_pollLocal fun _ => keeps_modify fun _ hs => hP.updateIntr hs
  refine keeps_get_bind fun s hs => ?_
  split
  · exact rest
  · exact keeps_bind (keeps_set (hP.soft' hs)) fun _ => keeps_bind (hP.keeps_applyInputs _) fun _ => rest

/-! ## Events -/

/-- The delivery of an event between instructions, when putting it aside keeps the property too (R409). -/
theorem deliverOr (ev : Event) {held : State → State} (hh : ∀ t, P t → P (held t)) {a : State} (ha : P a) :
    Res P (deliverOr ev held a) := by
  have h := hP.keeps_deliverOnce ev a ha
  unfold Machine.deliverOr
  split
  · rename_i hd; rw [hd] at h; exact hP.soft' h
  · rename_i hd; rw [hd] at h; exact hP.takeException _ (hh _ (hP.mix a _ ha h))
  · rename_i hd; rw [hd] at h; exact hP.takeTaskException _ h
  · trivial
  · trivial

theorem takeInterrupt {r : Request} {s : State} (hr : s.request = some r) (hs : P s) : Res P (takeInterrupt r s) :=
  hP.deliverOr _ (fun t ht => hP.putBack s t r hs ht) (hP.acknowledge s r hr hs)

theorem takeDebugTrap {s : State} (hs : P s) : Res P (takeDebugTrap s) :=
  hP.deliverOr _ (fun _ ht => hP.soft' ht) (hP.soft' hs)

theorem afterBoundary {s : State} (hs : P s) : Res P (afterBoundary s) := by
  unfold Machine.afterBoundary
  split
  · exact hP.deliverLoop _ _ _ _ (hP.soft' hs)
  split
  · split
    · exact hP.soft' hs
    · exact hs
  split
  · exact hP.deliverLoop _ _ _ _ (hP.soft' hs)
  split
  · exact hP.takeDebugTrap hs
  split
  · exact hP.afterInit s hs
  split
  · exact hP.enterSmm s hs
  split
  · exact hs
  split
  · exact hP.takeDebugTrap hs
  split
  · rename_i hr
    exact hP.takeInterrupt hr hs
  split
  · exact hP.soft' hs
  · exact hP.runInstruction (hP.soft' hs)

/-- One step leads to a state with the property (R413). -/
theorem step {s : State} (hs : P s) : Res P (step s) := by
  have h := hP.keeps_boundary s hs
  unfold Machine.step
  split
  · rename_i hb; rw [hb] at h; exact hP.afterBoundary h
  · rename_i hb; rw [hb] at h; exact hP.takeException _ h
  · rename_i hb; rw [hb] at h; exact hP.takeTaskException _ h
  · trivial
  · trivial

/-- The property is an invariant. -/
theorem next {s t : State} (hs : P s) (h : Machine.step s = .next t) : P t := by
  have hr := hP.step hs
  rwa [h] at hr

end StepStable
end Sys2Proof.Machine
end

section
/-! PROOFS. CR0 and CR4 stay legal: each value that CR0 takes is legal, and so the invariant. -/
namespace Sys2Proof.Machine

/-! ## The values of CR0 -/

/-- What the invariant says of CR0 (R35, R232). -/
def Cr0Legal (c : Word) : Prop :=
  bit c 4 = true ∧ c &&& 0x1FFAFFC0#32 = 0#32 ∧ (bit c 31 = true → bit c 0 = true) ∧
    (bit c 29 = true → bit c 30 = true)

theorem legal_iff (r : SysRegs) : r.legal ↔ Cr0Legal r.cr0 ∧ r.cr4.toNat < 2 ^ 11 := by
  unfold SysRegs.legal Cr0Legal
  simp only [and_assoc]

theorem or_clear {a b r : Word} (ha : a &&& r = 0#32) (hb : b &&& r = 0#32) : (a ||| b) &&& r = 0#32 := by
  rw [BitVec.and_or_distrib_right, ha, hb, BitVec.or_zero]

theorem and_clear {a r : Word} (m : Word) (ha : a &&& r = 0#32) : (a &&& m) &&& r = 0#32 := by
  rw [BitVec.and_assoc, BitVec.and_comm m, ← BitVec.and_assoc, ha, BitVec.zero_and]

theorem and_mask_clear {m r : Word} (v : Word) (hm : m &&& r = 0#32) : (v &&& m) &&& r = 0#32 := by
  rw [BitVec.and_assoc, hm, BitVec.and_zero]

/-- CR0 after a MOV: the reserved bits are none of the writable ones, ET is set (R232). -/
theorem Cr0Legal.next {c v : Word} (h : Cr0Legal c) (hpg : bit v 31 = true → bit v 0 = true)
    (hnw : bit v 29 = true → bit v 30 = true) : Cr0Legal (cr0Next c v) := by
  obtain ⟨_, hres, _, _⟩ := h
  refine ⟨?_, or_clear (or_clear (and_clear _ hres) (and_mask_clear v (by decide))) (by decide), ?_, ?_⟩
  · simp [bit, cr0Next]
  · simpa [bit, cr0Next, cr0Mask] using hpg
  · simpa [bit, cr0Next, cr0Mask] using hnw

/-- CR0 after LMSW, which changes bits 3 to 0 and never clears PE (R233). -/
theorem Cr0Legal.lmsw {c : Word} (v : Word) (h : Cr0Legal c) :
    Cr0Legal ((c &&& ~~~0xE#32) ||| (v &&& 0xF#32)) := by
  obtain ⟨het, hres, hpg, hnw⟩ := h
  refine ⟨?_, or_clear (and_clear _ hres) (and_mask_clear v (by decide)), fun h31 => ?_, ?_⟩
  · simpa [bit] using het
  · have hpe := hpg (by simpa [bit] using h31)
    simp_all [bit]
  · simpa [bit] using hnw

/-- CR0 with TS set or cleared (R235, R330). -/
theorem Cr0Legal.ts {c : Word} (b : Bool) (h : Cr0Legal c) : Cr0Legal (setBit c 3 b) := by
  obtain ⟨het, hres, hpg, hnw⟩ := h
  cases b with
  | true =>
    refine ⟨?_, or_clear hres (by decide), ?_, ?_⟩
    · simpa [bit, setBit] using het
    · simpa [bit, setBit] using hpg
    · simpa [bit, setBit] using hnw
  | false =>
    refine ⟨?_, and_clear _ hres, ?_, ?_⟩
    · simpa [bit, setBit] using het
    · simpa [bit, setBit] using hpg
    · simpa [bit, setBit] using hnw

/-- CR0 after INIT (R571). -/
theorem Cr0Legal.init {c : Word} (h : Cr0Legal c) : Cr0Legal (initCr0 c) := by
  obtain ⟨_, hres, _, hnw⟩ := h
  refine ⟨?_, or_clear (and_clear _ hres) (by decide), ?_, ?_⟩
  · simp [bit, initCr0]
  · simp [bit, initCr0]
  · simpa [bit, initCr0] using hnw

/-! ## The invariant -/

/-- A state whose copies in SMM stayed is legal if its registers are. -/
theorem legal_of_sys {s t : State} (h : s.legal) (hsys : s.sys.legal → t.sys.legal) (hsmm : t.smm = s.smm) :
    t.legal := by
  obtain ⟨hs, hsaved⟩ := h
  exact ⟨hsys hs, hsmm ▸ hsaved⟩

/-- A state in which CR0 alone changed is legal if its CR0 is. -/
theorem legal_of_cr0 {s t : State} (h : s.legal) (h0 : Cr0Legal s.sys.cr0 → Cr0Legal t.sys.cr0)
    (h4 : t.sys.cr4 = s.sys.cr4) (hsmm : t.smm = s.smm) : t.legal := by
  refine legal_of_sys h (fun hs => ?_) hsmm
  rw [legal_iff] at hs ⊢
  obtain ⟨hcr0, hcr4⟩ := hs
  exact ⟨h0 hcr0, h4 ▸ hcr4⟩

/-- Legality depends on CR0, CR4 and the copies saved in SMM. -/
theorem legal_congr {s t : State} (h : s.legal) (h0 : t.sys.cr0 = s.sys.cr0) (h4 : t.sys.cr4 = s.sys.cr4)
    (hsmm : t.smm = s.smm) : t.legal := legal_of_cr0 h (fun hcr0 => h0 ▸ hcr0) h4 hsmm

theorem cr0Legal_of_legal {s : State} (h : s.legal) : Cr0Legal s.sys.cr0 := by
  obtain ⟨hsys, _⟩ := h
  obtain ⟨hcr0, _⟩ := (legal_iff _).mp hsys
  exact hcr0

theorem legal_leaveSmm {s : State} (h : s.legal) : s.leaveSmm.legal := by
  obtain ⟨hsys, hsaved⟩ := h
  unfold State.leaveSmm
  split
  · rename_i p hp
    exact ⟨hsaved p hp, fun _ h => by cases h⟩
  · exact ⟨hsys, hsaved⟩

theorem legal_enterSmm {s : State} (h : s.legal) : s.enterSmm.legal := by
  obtain ⟨hsys, _⟩ := h
  refine ⟨hsys, fun p hp => ?_⟩
  cases hp
  exact hsys

/-- INIT leaves CD and NW as they were and clears CR4 (R571). -/
theorem legal_afterInit {s : State} (h : s.legal) : s.afterInit.legal :=
  legal_of_sys h (fun _ => (legal_iff _).mpr ⟨(cr0Legal_of_legal h).init, show (0#32).toNat < 2 ^ 11 by decide⟩) rfl

/-- RESET gives CR0 and CR4 their values of R571 and leaves SMM. -/
theorem legal_afterReset (s : State) : s.afterReset.legal := by
  refine ⟨(legal_iff _).mpr ⟨?_, show (0#32).toNat < 2 ^ 11 by decide⟩, fun _ hp => by cases hp⟩
  show Cr0Legal 0x60000010#32
  unfold Cr0Legal
  decide

/-- MOV to CR4 stores no reserved bit (R232). -/
theorem legal_setCr4 {s : State} {v : Word} (h : s.legal) (hv : v.toNat < 2 ^ 11) :
    State.legal { s with sys := { s.sys with cr4 := v } } := by
  have hcr0 := cr0Legal_of_legal h
  exact legal_of_sys h (fun _ => (legal_iff _).mpr ⟨hcr0, hv⟩) rfl

theorem legal_physWrite {s : State} (ws : List (Nat × Byte)) (h : s.legal) : (s.physWrite ws).legal :=
  legal_congr h (by rw [physWrite_sys]) (by rw [physWrite_sys]) (physWrite_smm s ws)

theorem legal_acknowledge {s : State} (r : Request) (h : s.legal) : (s.acknowledge r).legal := by
  cases r <;> exact legal_congr h rfl rfl rfl

theorem lmswWrite_cr0 (s : State) (v : Word) :
    (lmswWrite s v).sys.cr0 = (s.sys.cr0 &&& ~~~0xE#32) ||| (v &&& 0xF#32) := by
  unfold lmswWrite; dsimp only; split <;> rfl

theorem lmswWrite_cr4 (s : State) (v : Word) : (lmswWrite s v).sys.cr4 = s.sys.cr4 := by
  unfold lmswWrite; dsimp only; split <;> rfl

theorem lmswWrite_smm (s : State) (v : Word) : (lmswWrite s v).smm = s.smm := by
  unfold lmswWrite; dsimp only; split <;> rfl

/-- The updates that every computation is made of keep legality. -/
theorem stable_legal : Stable State.legal where
  soft _ _ h _ _ h0 h4 hsmm _ _ _ := legal_congr h h0 h4 hsmm
  write _ ws h := legal_physWrite ws h
  ts _ h := legal_of_cr0 h (Cr0Legal.ts true) rfl rfl
  log _ _ _ _ h := legal_congr h rfl rfl rfl
  mix _ _ h _ := legal_congr h rfl rfl rfl
  eoi _ _ h := legal_congr h rfl rfl rfl

/-- The updates of single instructions and events keep legality. -/
theorem stepStable_legal : StepStable State.legal where
  toStable := stable_legal
  cr0 _ _ _ hs ht hpg hnw := legal_of_cr0 ht (fun _ => (cr0Legal_of_legal hs).next hpg hnw) rfl rfl
  cr4 _ _ h hv := legal_setCr4 h hv
  lmsw s v h := legal_of_cr0 h (fun h0 => lmswWrite_cr0 s v ▸ h0.lmsw v) (lmswWrite_cr4 s v) (lmswWrite_smm s v)
  clts _ h := legal_of_cr0 h (Cr0Legal.ts false) rfl rfl
  enterSmm _ h := legal_enterSmm h
  leaveSmm _ h := legal_leaveSmm h
  afterInit _ h := legal_afterInit h
  afterReset s _ := legal_afterReset s
  wbinvd _ h := legal_congr h rfl rfl rfl
  writeBack _ _ h := legal_congr h rfl rfl rfl
  invd _ _ _ h := legal_congr h rfl rfl rfl
  agentWrite _ _ h := legal_congr (legal_physWrite _ h) rfl rfl rfl
  acknowledge _ r _ h := legal_acknowledge r h
  putBack _ _ _ _ h := legal_congr h rfl rfl rfl

/-- Settles O55: the elementary updates of the state keep legality, and so does every step. -/
theorem controlRegistersStayLegal : Obligations.ControlRegistersStayLegal :=
  fun _ _ hs h => stepStable_legal.next hs h

end Sys2Proof.Machine
end

section
/-! PROOFS. Memory and its written-back copy stay canonical: stores and write-backs go through `Memory.write`, every other update
takes both tables as they are. -/
namespace Sys2Proof.Machine

/-- The canonical form depends on memory and its written-back copy alone. -/
theorem memoryOk_congr {s t : State} (h : s.memoryOk) (hmem : t.mem = s.mem) (hwb : t.memWb = s.memWb) : t.memoryOk := by
  obtain ⟨hm, hw⟩ := h
  exact ⟨hmem ▸ hm, hwb ▸ hw⟩

/-- A processor store goes to memory, not to the written-back copy (R80). -/
theorem memoryOk_physWrite {s : State} (ws : List (Nat × Byte)) (h : s.memoryOk) : (s.physWrite ws).memoryOk := by
  obtain ⟨hm, hw⟩ := h
  exact ⟨physWrite_wf s ws hm, (physWrite_memWb s ws).symm ▸ hw⟩

theorem memoryOk_agentWrite {s : State} (ws : List (Nat × Byte)) (h : s.memoryOk) : (s.agentWrite ws).memoryOk := by
  obtain ⟨hm, hw⟩ := h
  exact agentWrite_wf s ws hm hw

/-- A fault keeps its updates of memory, such as accessed bits, and takes back the rest (R405). -/
theorem memoryOk_rollback {s t : State} (hs : s.memoryOk) (ht : t.memoryOk) : (rollback s t).memoryOk := by
  obtain ⟨_, hw⟩ := hs
  obtain ⟨hm, _⟩ := ht
  exact ⟨hm, hw⟩

theorem memoryOk_writeBack {s : State} (pas : List Nat) (h : s.memoryOk) : (s.writeBack pas).memoryOk := by
  obtain ⟨hm, hw⟩ := h
  exact ⟨hm, writeBack_wf s pas hw⟩

/-- A state whose two tables are one canonical memory, as after WBINVD, INVD and RESET (R366, R367, R571). -/
theorem memoryOk_of_same {t : State} {m : Memory} (h : m.wf = true) (hmem : t.mem = m) (hwb : t.memWb = m) :
    t.memoryOk := ⟨hmem ▸ h, hwb ▸ h⟩

theorem mem_wf_of_memoryOk {s : State} (h : s.memoryOk) : s.mem.wf = true := by
  obtain ⟨hm, _⟩ := h
  exact hm

/-- Leaving SMM brings back registers, not memory (R390). -/
theorem memoryOk_leaveSmm {s : State} (h : s.memoryOk) : s.leaveSmm.memoryOk := by
  unfold State.leaveSmm
  split
  · exact memoryOk_congr h rfl rfl
  · exact h

theorem memoryOk_lmswWrite {s : State} (v : Word) (h : s.memoryOk) : (lmswWrite s v).memoryOk := by
  unfold lmswWrite
  dsimp only
  split <;> exact memoryOk_congr h rfl rfl

theorem memoryOk_acknowledge {s : State} (r : Request) (h : s.memoryOk) : (s.acknowledge r).memoryOk := by
  cases r <;> exact memoryOk_congr h rfl rfl

/-- The updates that every computation is made of keep the canonical form. -/
theorem stable_memoryOk : Stable State.memoryOk where
  soft _ _ h hmem hwb _ _ _ _ _ _ := memoryOk_congr h hmem hwb
  write _ ws h := memoryOk_physWrite ws h
  ts _ h := memoryOk_congr h rfl rfl
  log _ _ _ _ h := memoryOk_congr h rfl rfl
  mix _ _ hs ht := memoryOk_rollback hs ht
  eoi _ _ h := memoryOk_congr h rfl rfl

/-- The updates of single instructions and events keep the canonical form. -/
theorem stepStable_memoryOk : StepStable State.memoryOk where
  toStable := stable_memoryOk
  cr0 _ _ _ _ ht _ _ := memoryOk_congr ht rfl rfl
  cr4 _ _ h _ := memoryOk_congr h rfl rfl
  lmsw _ v h := memoryOk_lmswWrite v h
  clts _ h := memoryOk_congr h rfl rfl
  enterSmm _ h := memoryOk_congr h rfl rfl
  leaveSmm _ h := memoryOk_leaveSmm h
  afterInit _ h := memoryOk_congr h rfl rfl
  afterReset _ h := memoryOk_of_same (mem_wf_of_memoryOk h) rfl rfl
  wbinvd _ h := memoryOk_of_same (mem_wf_of_memoryOk h) rfl rfl
  writeBack _ pas h := memoryOk_writeBack pas h
  invd s k w h := memoryOk_of_same (invdMemory_wf k w s.mem s.memWb (mem_wf_of_memoryOk h)) rfl rfl
  agentWrite _ ws h := memoryOk_agentWrite ws h
  acknowledge _ r _ h := memoryOk_acknowledge r h
  putBack _ _ _ _ ht := memoryOk_congr ht rfl rfl

/-- Settles O54: the elementary updates of the state keep the canonical form, and so does every step. -/
theorem memoryStaysCanonical : Obligations.MemoryStaysCanonical :=
  fun _ _ hs h => stepStable_memoryOk.next hs h

end Sys2Proof.Machine
end

section
/-! PROOFS. The walks of 32-bit and PAE page tables with an empty TLB: what each check of a walk answers, which bytes the end of
a walk sets, and the clauses of the two formats along their decision trees. -/
namespace Sys2Proof.Machine

variable {α : Type} {s : State} {lin : Word} {k : Access} {user : Bool}

/-! ## Entries in memory -/

/-- Stores whose bytes agree with a function leave memory as the function says, if it says what the bytes not stored and the
holes read as. -/
theorem physByte_physWrite_eq (ws : List (Nat × Byte)) (g : Nat → Byte) (hd : (ws.map Prod.fst).Nodup)
    (hw : ∀ w ∈ ws, w.2 = g w.1) (hkeep : ∀ x, (∀ w ∈ ws, w.1 ≠ x) → s.physByte x = g x)
    (hhole : ∀ x, inRam s x = false → g x = 0xFF#8) (x : Nat) : (s.physWrite ws).physByte x = g x := by
  cases hr : inRam s x with
  | false => rw [physByte_hole _ x (by rw [inRam_physWrite, hr]), hhole x hr]
  | true =>
    by_cases hin : ∃ w ∈ ws, w.1 = x
    · obtain ⟨⟨y, b⟩, hm, rfl⟩ := hin
      exact (physByte_physWrite_mem s ws hd hm hr).trans (hw _ hm)
    · have hout : ∀ w ∈ ws, w.1 ≠ x := fun w hm he => hin ⟨w, hm, he⟩
      rw [physByte_physWrite_other s ws x hout, hkeep x hout]

/-- The bits of a byte that are set at one address. -/
def setAt (a bits x : Nat) : Byte := if x = a then BitVec.ofNat 8 bits else 0#8

/-- The first byte of an entry is the entry's low byte. -/
theorem physByte_eq_physRead (s : State) (a n : Nat) : s.physByte a = BitVec.ofNat 8 (s.physRead a (n + 1)) := by
  have h := leBytes_physRead s a (n + 1)
  rw [leBytes, List.range_succ_eq_map, List.map_cons] at h
  exact (List.cons.inj h).1.symm

/-- The bytes of an entry after low bits of it are set. -/
theorem leBytes_physRead_or (s : State) (a n : Nat) {bits : Nat} (hb : bits < 256) :
    leBytes (n + 1) (s.physRead a (n + 1) ||| bits) =
      (List.range (n + 1)).map fun i => s.physByte (a + i) ||| setAt a bits (a + i) := by
  have h := leBytes_physRead s a (n + 1)
  rw [leBytes, List.range_succ_eq_map, List.map_cons, List.map_map] at h
  obtain ⟨hhead, htail⟩ := List.cons.inj h
  rw [leBytes_or n _ bits hb, hhead, htail, List.range_succ_eq_map, List.map_cons, List.map_map]
  congr 1
  · simp [setAt]
  · exact List.map_congr_left fun i _ => by simp [setAt]

theorem or_eq_self_of_and_eq {v bits : Nat} (h : v &&& bits = bits) : v ||| bits = v := by
  refine Nat.eq_of_testBit_eq fun i => ?_
  rw [← h, Nat.testBit_or, Nat.testBit_and]
  cases v.testBit i <;> simp

/-- Setting flags of an entry sets them in its first byte and changes nothing else, whether or not a store is needed (R172). -/
theorem run_orEntry (s : State) (a n : Nat) {bits : Nat} (hb : bits < 256) :
    ∃ t, orEntry a (n + 1) (s.physRead a (n + 1)) bits s = .ok ⟨⟩ t ∧ t.cfg = s.cfg ∧
      ∀ x, t.physByte x = s.physByte x ||| setAt a bits x := by
  unfold orEntry
  split
  next =>
    refine ⟨_, rfl, physWrite_cfg _ _, physByte_physWrite_eq _ _ ?_ ?_ ?_ ?_⟩
    · rw [pairFrom_map_fst]
      exact addrsFrom_nodup a _
    · rw [leBytes_physRead_or s a n hb]
      exact fun w hw => mem_pairFrom_map (fun x => s.physByte x ||| setAt a bits x) _ _ hw
    · intro x hx
      have hxa : x ≠ a := fun he => hx (a, _) List.mem_cons_self he.symm
      simp [setAt, hxa]
    · intro x hx
      rw [physByte_hole s x hx]
      exact BitVec.allOnes_or
  next hset =>
    refine ⟨s, rfl, rfl, fun x => ?_⟩
    unfold setAt
    split
    next hx =>
      have hbits : s.physRead a (n + 1) &&& bits = bits := by simpa using hset
      rw [hx, physByte_eq_physRead s a n, ← BitVec.ofNat_or, or_eq_self_of_and_eq hbits]
    next => simp

/-! ## Checks of a walk -/

/-- A page fault's error code (R446): the given bits, write and user. -/
def pfCode (bits : Nat) (k : Access) (user : Bool) : Word :=
  BitVec.ofNat 32 (bits + (if k = .write then 2 else 0) + (if user then 4 else 0))

theorem run_pageFault (s : State) (lin : Word) (p r : Bool) (k : Access) (user : Bool) :
    (pageFault lin p k user r : M α) s =
      .error (.raise (.pf (pfCode (b2n p + 8 * b2n r) k user))) { s with sys := { s.sys with cr2 := lin } } := by
  cases p <;> cases r <;> cases k <;> cases user <;> rfl

/-- A check of a walk that fails. -/
theorem pfCheck_fails {c p r : Bool} {f : PUnit → M α} (h : c = true) :
    (if c = true then pageFault lin p k user r >>= f else f ⟨⟩) s =
      .error (.raise (.pf (pfCode (b2n p + 8 * b2n r) k user))) { s with sys := { s.sys with cr2 := lin } } := by
  rw [if_pos h, run_bind_error (run_pageFault s lin p r k user)]

/-- A check of a walk that passes. -/
theorem pfCheck_passes {c p r : Bool} {f : PUnit → M α} (h : ¬ c = true) :
    (if c = true then pageFault lin p k user r >>= f else f ⟨⟩) s = f ⟨⟩ s := by rw [if_neg h]

/-- An entry in the local APIC's page is refused (R484). -/
theorem walkRead_refused {a n : Nat} {f : Nat → M α} (h : s.inApic a = true) :
    (walkRead a n >>= f) s = .error (.refuse .apicAccess) s := by
  refine run_bind_error ?_
  unfold walkRead
  rw [run_get_bind, h]
  rfl

/-- The rights that a page does not give (R168). -/
def Forbidden (s : State) (k : Access) (user us rw : Bool) : Prop :=
  user = true ∧ us = false ∨ k = .write ∧ rw = false ∧ (user = true ∨ bit s.sys.cr0 16 = true)

theorem not_rightsOk_iff {us rw : Bool} : (!rightsOk s us rw k user) = true ↔ Forbidden s k user us rw := by
  unfold rightsOk Forbidden
  cases k <;> simp

/-! ## The end of a walk -/

/-- The flags a walk sets (R172): accessed in the entry `dir`, accessed and on a write dirty in the entry `page`. -/
def walkSets (k : Access) (dir page x : Nat) : Byte :=
  (if x = dir then 0x20#8 else 0#8) ||| (if x = page then (if k = .write then 0x60#8 else 0x20#8) else 0#8)

theorem walkSets_eq (k : Access) (dir page x : Nat) :
    walkSets k dir page x = setAt dir 0x20 x ||| setAt page (adBits k) x := by
  cases k <;> rfl

/-- The entry of a large page is the one entry that takes flags. -/
theorem walkSets_same (k : Access) (a x : Nat) : walkSets k a a x = setAt a (adBits k) x := by
  unfold walkSets setAt
  split
  · cases k <;> rfl
  · rfl

theorem adBits_lt (k : Access) : adBits k < 256 := by
  rcases adBits_cases k with h | h <;> omega

/-- What a walk answers, and the bytes it sets. -/
def WalkEnds (s : State) (e : TlbEntry) (sets : Nat → Byte) (r : EStateM.Result Stop State TlbEntry) : Prop :=
  ∃ t, r = .ok e t ∧ t.cfg = s.cfg ∧ ∀ x, t.physByte x = s.physByte x ||| sets x

/-- The end of a walk to a large page (R165, R172). -/
theorem walkEnds_one (s : State) (k : Access) (a n : Nat) (e : TlbEntry) :
    WalkEnds s e (walkSets k a a) ((do
      orEntry a (n + 1) (s.physRead a (n + 1)) (adBits k)
      return e : M TlbEntry) s) := by
  obtain ⟨t, ht, hc, hb⟩ := run_orEntry s a n (adBits_lt k)
  exact ⟨t, run_bind_ok ht, hc, fun x => by rw [hb, walkSets_same]⟩

/-- The end of a walk through two tables: the second entry is read again, as the update of the first one left it (R172). -/
theorem walkEnds_two (s : State) (k : Access) (a b n : Nat) (e : TlbEntry) :
    WalkEnds s e (walkSets k a b) ((do
      orEntry a (n + 1) (s.physRead a (n + 1)) 0x20
      orEntry b (n + 1) ((← get).physRead b (n + 1)) (adBits k)
      return e : M TlbEntry) s) := by
  obtain ⟨t, ht, htc, htb⟩ := run_orEntry s a n (bits := 0x20) (by omega)
  obtain ⟨u, hu, huc, hub⟩ := run_orEntry t b n (adBits_lt k)
  refine ⟨u, ?_, huc.trans htc, fun x => by rw [hub, htb, walkSets_eq, BitVec.or_assoc]⟩
  rw [run_bind_ok ht, run_get_bind, run_bind_ok hu]
  rfl

/-! ## Translation with an empty TLB -/

/-- The walk of the current format (R150). -/
def walkTables (lin : Word) (k : Access) (user : Bool) (s : State) : EStateM.Result Stop State TlbEntry :=
  if bit s.sys.cr4 5 then walkPae lin k user s else walk32 lin k user s

/-- With an empty TLB no cached translation can serve an access (R185). -/
theorem lookup_emptyTlb (htlb : s.tlb = []) : lookupOrWalk lin k user s = lookupOrWalk.walk lin k user s s := by
  unfold lookupOrWalk
  rw [run_get_bind, htlb]
  rfl

/-- A walk that stops is the outcome of the lookup. -/
theorem walk_error {e : Stop} {t : State} (h : walkTables lin k user s = .error e t) :
    lookupOrWalk.walk lin k user s s = .error e t := by
  unfold walkTables at h
  unfold lookupOrWalk.walk
  split at h
  next h5 => rw [if_pos h5, run_bind_error h]
  next h5 => rw [if_neg h5, run_bind_error h]

/-- The result of a walk may be kept in the TLB (R185). -/
theorem walk_ok {e : TlbEntry} {t : State} (h : walkTables lin k user s = .ok e t) :
    lookupOrWalk.walk lin k user s s =
      .ok e { t with free := t.free + 1, tlb := if Config.tlbKeep t.free then e :: t.tlb else t.tlb } := by
  unfold walkTables at h
  unfold lookupOrWalk.walk
  split at h
  next h5 => rw [if_pos h5, run_bind_ok h]; rfl
  next h5 => rw [if_neg h5, run_bind_ok h]; rfl

/-- Translation while paging is on (R165). -/
theorem translate_paged (hpg : s.pg = true) :
    translate lin k user s = (lookupOrWalk lin k user >>= fun e => pure (s.a20 (e.addr lin))) s := by
  unfold translate
  rw [run_get_bind, hpg]
  rfl

/-- The address of a page with an offset, outside real-address mode (R470). -/
theorem a20_of_pe (hpe : s.pe = true) (a : Nat) : s.a20 a = a := by
  unfold State.a20
  rw [hpe]
  simp

/-- A walk that stops is the outcome of the translation. -/
theorem translate_error {e : Stop} {t : State} (hpg : s.pg = true) (htlb : s.tlb = [])
    (h : walkTables lin k user s = .error e t) : translate lin k user s = .error e t := by
  rw [translate_paged hpg, run_bind_error (by rw [lookup_emptyTlb htlb, walk_error h])]

/-- A walk that ends at a page gives the address, changes what a walk changes, and sets its flags. -/
theorem translate_ok {e : TlbEntry} {sets : Nat → Byte} (hpe : s.pe = true) (hpg : s.pg = true) (htlb : s.tlb = [])
    (h : WalkEnds s e sets (walkTables lin k user s)) :
    ∃ s1, translate lin k user s = .ok (e.addr lin) s1 ∧ SameButWalk s s1 ∧
      ∀ a, s1.physByte a = s.physByte a ||| sets a := by
  obtain ⟨t, ht, -, hb⟩ := h
  have hr : translate lin k user s = .ok (e.addr lin)
      { t with free := t.free + 1, tlb := if Config.tlbKeep t.free then e :: t.tlb else t.tlb } := by
    rw [translate_paged hpg, run_bind_ok (by rw [lookup_emptyTlb htlb, walk_ok ht]), a20_of_pe hpe]
    rfl
  exact ⟨_, hr, (walks_translate s lin k user).of_ok hr, fun a => (physByte_of_mem rfl rfl a).trans (hb a)⟩

/-- Translation raises a page fault, which loads CR2 (R446). -/
def PageFaults (s : State) (lin : Word) (k : Access) (user : Bool) (bits : Nat) : Prop :=
  translate lin k user s = .error (.raise (.pf (pfCode bits k user))) { s with sys := { s.sys with cr2 := lin } }

/-- Translation meets an entry in the local APIC's page. -/
def WalkRefused (s : State) (lin : Word) (k : Access) (user : Bool) : Prop :=
  translate lin k user s = .error (.refuse .apicAccess) s

/-- Translation reaches a page with the given rights, physical address and flags to set. -/
def PageMaps (s : State) (lin : Word) (k : Access) (user us rw : Bool) (phys : Nat) (sets : Nat → Byte) : Prop :=
  (Forbidden s k user us rw → PageFaults s lin k user 1) ∧
  (¬ Forbidden s k user us rw → ∃ s1, translate lin k user s = .ok phys s1 ∧ SameButWalk s s1 ∧
    ∀ a, s1.physByte a = s.physByte a ||| sets a)

section
variable (hpe : s.pe = true) (hpg : s.pg = true) (htlb : s.tlb = [])
include hpe hpg htlb

/-- A walk that comes to the rights check and then to an end maps the page (R168). -/
theorem pageMaps_of_walk {us rw : Bool} {f : PUnit → M TlbEntry} {e : TlbEntry} {phys : Nat} {sets : Nat → Byte}
    (hw : walkTables lin k user s =
      (if (!rightsOk s us rw k user) = true then pageFault lin true k user false >>= f else f ⟨⟩) s)
    (hphys : e.addr lin = phys) (hf : WalkEnds s e sets (f ⟨⟩ s)) : PageMaps s lin k user us rw phys sets := by
  refine ⟨fun hb => translate_error hpg htlb (hw.trans (pfCheck_fails (not_rightsOk_iff.mpr hb))), fun hb => ?_⟩
  rw [← hphys]
  exact translate_ok hpe hpg htlb (by rw [hw, pfCheck_passes (not_rightsOk_iff.not.mpr hb)]; exact hf)

/-- The clauses of a walk that comes to a page table's entry, in either format: the entry is refused, not present, has a
reserved bit set, or maps its page (R151, R160, R168, R172). -/
theorem tableEntry_clauses {dir tab n pde pte phys : Nat} {Reserved : Prop}
    {reserved us rw : Nat → Bool} {entry : Nat → TlbEntry}
    (hpde : pde = s.physRead dir (n + 1)) (hpte : pte = s.physRead tab (n + 1))
    (hw : walkTables lin k user s = (do
      let pte ← walkRead tab (n + 1)
      if !pte.testBit 0 then pageFault lin false k user false
      if reserved pte then pageFault lin true k user true
      if !rightsOk s (us pte) (rw pte) k user then pageFault lin true k user false
      orEntry dir (n + 1) pde 0x20
      orEntry tab (n + 1) ((← get).physRead tab (n + 1)) (adBits k)
      return entry pte : M TlbEntry) s)
    (hres : reserved pte = true ↔ Reserved) (hphys : (entry pte).addr lin = phys) :
    (s.inApic tab = true → WalkRefused s lin k user) ∧
    (s.inApic tab = false →
      (pte.testBit 0 = false → PageFaults s lin k user 0) ∧
      (pte.testBit 0 = true → Reserved → PageFaults s lin k user 9) ∧
      (pte.testBit 0 = true → ¬ Reserved →
        PageMaps s lin k user (us pte) (rw pte) phys (walkSets k dir tab))) := by
  refine ⟨fun ha => translate_error hpg htlb (hw.trans (walkRead_refused ha)), fun ha => ?_⟩
  have hread := hw.trans (run_bind_ok (walkRead_ok ha))
  rw [← hpte] at hread
  refine ⟨fun h0 => translate_error hpg htlb (hread.trans (pfCheck_fails (by rw [h0]; rfl))), fun h0 hr => ?_, fun h0 hr => ?_⟩
  all_goals have hpresent := hread.trans (pfCheck_passes (by rw [h0]; decide))
  · exact translate_error hpg htlb (hpresent.trans (pfCheck_fails (hres.mpr hr)))
  · refine pageMaps_of_walk hpe hpg htlb (hpresent.trans (pfCheck_passes (hres.not.mpr hr))) hphys ?_
    rw [hpde]
    exact walkEnds_two s k dir tab n (entry pte)

end

/-! ## Branches and fields of the two formats -/

theorem run_if_true {c : Bool} {x y : M α} (h : c = true) : (if c = true then x else y) s = x s := by rw [if_pos h]

theorem run_if_false {c : Bool} {x y : M α} (h : ¬ c = true) : (if c = true then x else y) s = y s := by rw [if_neg h]

/-- The highest field of an address is what a division leaves. -/
theorem topField_eq (w : Word) {lo n : Nat} (h : lo + n = 32) : field w lo n = w.toNat / 2 ^ lo := by
  refine Nat.mod_eq_of_lt (Nat.div_lt_of_lt_mul ?_)
  rw [← Nat.pow_add, h]
  exact w.isLt

theorem mul_topField (w : Word) {lo n : Nat} (h : lo + n = 32) (c : Nat) : c * field w lo n = w.toNat / 2 ^ lo * c := by
  rw [topField_eq w h, Nat.mul_comm]

/-- The reserved bits of the 32-bit entry of a 4-MByte page (R155, R157). -/
theorem largeReserved_iff (c : Config.Params) (pde : Nat) : largeReserved c pde = true ↔
    (if c.hasPse36 then pde / 2 ^ 17 % 2 ^ 5 else pde / 2 ^ 13 % 2 ^ 9) ≠ 0 ∨ c.hasPat = false ∧ pde.testBit 12 = true := by
  simp [largeReserved]

/-- The reserved bit of the 32-bit entry of a 4-KByte page (R154, R157). -/
theorem pteReserved_iff (pse pat : Bool) (pte : Nat) :
    (pse && !pat && pte.testBit 7) = true ↔ pse = true ∧ pat = false ∧ pte.testBit 7 = true := by
  simp [and_assoc]

/-- A bit beyond the 36-bit addresses is set (R160). -/
theorem beyond36_iff (v : Nat) : (v / 2 ^ 36 != 0) = true ↔ 2 ^ 36 ≤ v := by
  rw [bne_iff_ne]
  omega

/-- The reserved bits of a PAE directory entry (R160). -/
theorem pdeReservedPae_iff (pat : Bool) (pde : Nat) :
    (pde / 2 ^ 36 != 0 || (pde.testBit 7 && (pde / 2 ^ 13 % 2 ^ 8 != 0 || (!pat && pde.testBit 12)))) = true ↔
      2 ^ 36 ≤ pde ∨ pde.testBit 7 = true ∧ (pde / 2 ^ 13 % 2 ^ 8 ≠ 0 ∨ pat = false ∧ pde.testBit 12 = true) := by
  rw [Bool.or_eq_true, beyond36_iff]
  simp

/-- The reserved bits of the PAE entry of a 4-KByte page (R160). -/
theorem pteReservedPae_iff (pat : Bool) (pte : Nat) :
    (pte / 2 ^ 36 != 0 || (!pat && pte.testBit 7)) = true ↔ 2 ^ 36 ≤ pte ∨ pat = false ∧ pte.testBit 7 = true := by
  rw [Bool.or_eq_true, beyond36_iff]
  simp

/-- Settles O51: in each format the clauses follow the tests of the walk, one after the other, to its ends. -/
theorem pageWalks : Obligations.PageWalks := by
  intro s lin k user hpe hpg htlb fault refused maps sets
  refine ⟨fun h5 => ?_, fun h5 => ?_⟩
  · intro dirAddr pde tabAddr pte pse large reservedLarge high reserved
    have hw : walkTables lin k user s = walk32 lin k user s := if_neg (by rw [h5]; decide)
    have hdir : s.sys.cr3.toNat / 4096 * 4096 + 4 * field lin 22 10 = dirAddr := congrArg (_ + ·) (mul_topField lin rfl 4)
    have htab : pde / 4096 * 4096 + 4 * field lin 12 10 = tabAddr := congrArg (_ + ·) (Nat.mul_comm ..)
    unfold walk32 at hw
    rw [run_get_bind, hdir] at hw
    refine ⟨fun ha => translate_error hpg htlb (hw.trans (walkRead_refused ha)), fun ha => ?_⟩
    have hread := hw.trans (run_bind_ok (walkRead_ok ha))
    have hpresent (h0 : pde.testBit 0 = true) := hread.trans (pfCheck_passes (by rw [h0]; decide))
    have hlarge (h0 : pde.testBit 0 = true) (hl : large) := (hpresent h0).trans (run_if_true (Bool.and_eq_true_iff.mpr hl))
    refine ⟨fun h0 => translate_error hpg htlb (hread.trans (pfCheck_fails (by rw [h0]; rfl))), fun h0 hl hr => ?_,
      fun h0 hl hr => ?_, fun h0 hl => ?_⟩
    · exact translate_error hpg htlb ((hlarge h0 hl).trans (pfCheck_fails ((largeReserved_iff _ _).mpr hr)))
    · have hchecked := (hlarge h0 hl).trans (pfCheck_passes ((largeReserved_iff _ _).not.mpr hr))
      exact pageMaps_of_walk hpe hpg htlb hchecked rfl (walkEnds_one s k dirAddr 3 _)
    · have hsmall := (hpresent h0).trans (run_if_false (Bool.and_eq_true_iff.not.mpr hl))
      refine ⟨fun hp h6 => ?_, fun h6 => ?_⟩
      · exact translate_error hpg htlb (hsmall.trans (pfCheck_fails (Bool.and_eq_true_iff.mpr ⟨hp, h6⟩)))
      · have htable := hsmall.trans (pfCheck_passes (Bool.and_eq_true_iff.not.mpr h6))
        rw [htab] at htable
        have hclauses := tableEntry_clauses hpe hpg htlb (pde := pde) (pte := pte) rfl rfl htable (pteReserved_iff _ _ _) rfl
        exact hclauses
  · intro pdpte dirAddr pde tabAddr pte large reserved pteReserved
    have hw : walkTables lin k user s = walkPae lin k user s := if_pos h5
    have hpdpte : (s.sys.pdpte (field lin 30 2)).toNat = pdpte := by rw [topField_eq lin rfl]; rfl
    have hdir : pdpte / 4096 % 2 ^ 24 * 4096 + 8 * field lin 21 9 = dirAddr := congrArg (_ + ·) (Nat.mul_comm ..)
    have htab : pde / 4096 % 2 ^ 24 * 4096 + 8 * field lin 12 9 = tabAddr := congrArg (_ + ·) (Nat.mul_comm ..)
    unfold walkPae at hw
    rw [run_get_bind, hpdpte, hdir] at hw
    have hdirectory (hq : pdpte.testBit 0 = true) := hw.trans (pfCheck_passes (by rw [hq]; decide))
    refine ⟨fun hq => translate_error hpg htlb (hw.trans (pfCheck_fails (by rw [hq]; rfl))),
      fun hq ha => translate_error hpg htlb ((hdirectory hq).trans (walkRead_refused ha)), fun hq ha => ?_⟩
    have hread := (hdirectory hq).trans (run_bind_ok (walkRead_ok ha))
    have hpresent (h0 : pde.testBit 0 = true) := hread.trans (pfCheck_passes (by rw [h0]; decide))
    have hchecked (h0 : pde.testBit 0 = true) (hr : ¬ reserved) :=
      (hpresent h0).trans (pfCheck_passes ((pdeReservedPae_iff _ _).not.mpr hr))
    refine ⟨fun h0 => translate_error hpg htlb (hread.trans (pfCheck_fails (by rw [h0]; rfl))), fun h0 hr => ?_,
      fun h0 hr hl => ?_, fun h0 hr hl => ?_⟩
    · exact translate_error hpg htlb ((hpresent h0).trans (pfCheck_fails ((pdeReservedPae_iff _ _).mpr hr)))
    · exact pageMaps_of_walk hpe hpg htlb ((hchecked h0 hr).trans (run_if_true hl)) rfl (walkEnds_one s k dirAddr 7 _)
    · have htable := (hchecked h0 hr).trans (run_if_false hl)
      rw [htab] at htable
      have hclauses := tableEntry_clauses hpe hpg htlb (pde := pde) (pte := pte) rfl rfl htable (pteReservedPae_iff _ _) rfl
      exact hclauses

end Sys2Proof.Machine
end

section
/-! PROOFS. Loading a segment register: what the checks of the load rule answer, which memory they leave, and the instructions
made of them. -/
namespace Sys2Proof.Machine

variable {s s0 s1 s2 : State} {x : Seg} {sel : Half} {d : Desc}

/-! ## Selectors -/

/-- The error code of a selector clears its two low bits (R403). -/
theorem selCode_eq (sel : Half) : selCode sel false = sel &&& 0xFFFC#16 := by
  have hmask : ∀ i, i < 16 → (0xFFFC#16).getLsbD i = decide (2 ≤ i) := by decide
  refine BitVec.eq_of_getLsbD_eq fun i hi => ?_
  have hlow : (sel.toNat / 2 ^ 2 * 2 ^ 2).testBit i = (decide (2 ≤ i) && sel.toNat.testBit i) := by
    rw [Nat.testBit_mul_two_pow, Nat.testBit_div_two_pow]
    by_cases h : 2 ≤ i <;> simp [h]
  rw [BitVec.getLsbD_and, hmask i hi, Bool.and_comm, ← BitVec.testBit_toNat sel, ← hlow]
  exact (BitVec.getLsbD_ofNat ..).trans (by simp [hi, b2n])

/-- A selector names no descriptor of its table (R131). -/
theorem descAddr_eq_none_iff (s : State) (sel : Half) : s.descAddr sel = none ↔
    if sel.getLsbD 2 then isNull s.sys.ldtr.sel = true ∨ s.sys.ldtr.limit.toNat < sel.toNat / 8 * 8 + 7
    else s.sys.gdtr.limit.toNat < sel.toNat / 8 * 8 + 7 := by
  unfold State.descAddr descAddrIn
  simp only [Nat.mul_comm 8]
  split
  · cases isNull s.sys.ldtr.sel <;> simp
  · simp

theorem readDesc_beyond {e : Exc} (h : s.descAddr sel = none) : readDesc sel e s = .error (.raise e) s := by
  unfold readDesc
  rw [run_get_bind, h]
  rfl

/-! ## The checks of the load rule -/

/-- The end of a load that passes its checks: the accessed flag is set and the register's contents made (R143, R144). -/
def acceptSeg (sel : Half) (d : Desc) : M SegReg := do return (← setAccessed sel d).toSegReg sel

theorem acceptSeg_ok {d1 : Desc} {bytes : List Nat} (h : Accessed s sel d d1 bytes s1) :
    acceptSeg sel d s = .ok (d1.toSegReg sel) s1 := run_bind_ok (setAccessed_ok h)

/-- SS does not take a null selector (R143). -/
theorem checkSs_null {cpl : Nat} (hn : isNull sel = true) : checkSs sel cpl s = .error (.raise (.gp 0#16)) s := by
  unfold checkSs
  rw [hn]
  rfl

/-- A selector beyond its table is not one for SS (R131, R143). -/
theorem checkSs_beyond {cpl : Nat} (hn : isNull sel = false) (h : s.descAddr sel = none) :
    checkSs sel cpl s = .error (.raise (.gp (selCode sel false))) s := by
  unfold checkSs
  rw [hn]
  exact run_bind_error (readDesc_beyond h)

/-- The checks of SS on the descriptor, in their order (R143). -/
theorem checkSs_desc {cpl : Nat} (hn : isNull sel = false) (hd : DescAt s sel d s1) :
    checkSs sel cpl s =
      if rpl sel = cpl ∧ d.isWritable = true ∧ d.dpl = cpl then
        if d.p then acceptSeg sel d s1 else .error (.raise (.ss (selCode sel false))) s1
      else .error (.raise (.gp (selCode sel false))) s1 := by
  have hread : checkSs sel cpl s = (do
      require (rpl sel == cpl && d.isWritable && d.dpl == cpl) (.gp (selCode sel false))
      require d.p (.ss (selCode sel false))
      acceptSeg sel d) s1 := by
    unfold checkSs
    rw [hn]
    exact run_bind_ok (readDesc_ok hd _)
  rw [hread, run_require_bind, run_require_bind]
  simp only [Bool.and_eq_true, beq_iff_eq, and_assoc]

/-- DS, ES, FS and GS take a null selector, with the rest of the cache as before (R143). -/
theorem checkDataSeg_null {old : SegReg} (hn : isNull sel = true) :
    checkDataSeg old sel s = .ok { old with sel := sel } s := by
  unfold checkDataSeg
  rw [hn]
  rfl

/-- A selector beyond its table is not one for DS, ES, FS or GS (R131, R143). -/
theorem checkDataSeg_beyond {old : SegReg} (hn : isNull sel = false) (h : s.descAddr sel = none) :
    checkDataSeg old sel s = .error (.raise (.gp (selCode sel false))) s := by
  unfold checkDataSeg
  rw [hn]
  exact run_bind_error (readDesc_beyond h)

/-- The checks of DS, ES, FS and GS on the descriptor, in their order (R143, R146). -/
theorem checkDataSeg_desc {old : SegReg} (hn : isNull sel = false) (hd : DescAt s sel d s1) :
    checkDataSeg old sel s =
      if d.isReadable = true ∧ (d.conforming = true ∨ s.cpl ≤ d.dpl ∧ rpl sel ≤ d.dpl) then
        if d.p then acceptSeg sel d s1 else .error (.raise (.np (selCode sel false))) s1
      else .error (.raise (.gp (selCode sel false))) s1 := by
  have hread : checkDataSeg old sel s = (do
      require d.isReadable (.gp (selCode sel false))
      require (d.conforming || (decide (s.cpl ≤ d.dpl) && decide (rpl sel ≤ d.dpl))) (.gp (selCode sel false))
      require d.p (.np (selCode sel false))
      acceptSeg sel d) s1 := by
    unfold checkDataSeg
    rw [hn, ← hd.walks.cpl]
    exact run_bind_ok (readDesc_ok hd _)
  rw [hread, run_require_bind, run_require_bind, run_require_bind]
  simp only [ite_and, Bool.or_eq_true, Bool.and_eq_true, decide_eq_true_eq]

/-! ## Loading a register -/

theorem loadSeg_real (h : s.prot = false) :
    loadSeg x sel s = .ok { s.segs.get x with sel := sel, base := sel.setWidth 32 <<< 4 } s := by
  unfold loadSeg
  rw [run_get_bind, h]
  rfl

theorem loadSeg_ss (h : s.prot = true) : loadSeg .ss sel s = checkSs sel s.cpl s := by
  unfold loadSeg
  rw [run_get_bind, h]
  rfl

theorem loadSeg_data (h : s.prot = true) (hx : x ≠ .ss) : loadSeg x sel s = checkDataSeg (s.segs.get x) sel s := by
  unfold loadSeg
  rw [run_get_bind, h]
  show (if x == .ss then checkSs sel s.cpl else checkDataSeg (s.segs.get x) sel : M SegReg) s = _
  rw [if_neg (by simpa using hx)]

/-- The load rule completes under its conditions (R143). -/
theorem loadSeg_ok {r : SegReg} {bytes : List Nat} (h : SegLoads s x sel r bytes s2) : loadSeg x sel s = .ok r s2 := by
  cases h with
  | real hp => exact loadSeg_real hp
  | null hp hx hn => rw [loadSeg_data hp hx, checkDataSeg_null hn]
  | data d d1 _ s1 _ hp hx hn hd hread hpriv hpres ha =>
    rw [loadSeg_data hp hx, checkDataSeg_desc hn hd, if_pos ⟨hread, hpriv⟩, if_pos hpres, acceptSeg_ok ha]
  | stack d d1 _ s1 _ hp hx hn hd hrpl hw hdpl hpres ha =>
    rw [hx, loadSeg_ss hp, checkSs_desc hn hd, if_pos ⟨hrpl, hw, hdpl⟩, if_pos hpres, acceptSeg_ok ha]

/-- A selector beyond its table raises #GP whatever register it is for (R131, R143). -/
theorem loadSeg_beyond (hp : s.prot = true) (hn : isNull sel = false) (h : s.descAddr sel = none) :
    loadSeg x sel s = .error (.raise (.gp (selCode sel false))) s := by
  by_cases hx : x = .ss
  · rw [hx, loadSeg_ss hp, checkSs_beyond hn h]
  · rw [loadSeg_data hp hx, checkDataSeg_beyond hn h]

/-- Setting an accessed flag leaves memory, but for the byte named (R144). -/
theorem Accessed.frame {d1 : Desc} {bytes : List Nat} (h : Accessed s sel d d1 bytes s1) : MemFrame s s1 bytes := by
  rcases h with ⟨-, -, -, rfl⟩ | ⟨-, -, lin, t, -, hl, -, rfl⟩
  · exact fun a _ => .inl rfl
  · exact .after_walk (walks_of_linAddrs hl) fun a ha => .inl (physByte_storeAt_other t bytes _ a ha)

/-- A load reads a descriptor and may set its accessed flag (R143, R144). -/
theorem SegLoads.frame {r : SegReg} {bytes : List Nat} (h : SegLoads s x sel r bytes s2) : MemFrame s s2 bytes := by
  cases h with
  | real | null => exact fun a _ => .inl rfl
  | data d d1 _ s1 _ _ _ _ hd _ _ _ ha | stack d d1 _ s1 _ _ _ _ hd _ _ _ _ ha => exact ha.frame.after_walk hd.walks

/-! ## The instructions -/

theorem run_commitSeg (x : Seg) (r : SegReg) (s : State) : commitSeg x r s = .ok () (s.segLoaded x r) := by
  cases x <;> rfl

@[simp] theorem segLoaded_mem (s : State) (x : Seg) (r : SegReg) : (s.segLoaded x r).mem = s.mem := by cases x <;> rfl
@[simp] theorem segLoaded_cfg (s : State) (x : Seg) (r : SegReg) : (s.segLoaded x r).cfg = s.cfg := by cases x <;> rfl

/-- The meaning of MOV to a segment register (R229). -/
theorem exec_movSregRm16 (x : Seg) (src : RM Reg) (s : State) : exec (.movSregRm16 x src) s =
    runInsn false (do
      require (x != .cs) .ud
      let sel ← readRM .w src
      commitSeg x (← loadSeg x (sel.setWidth 16))) s := rfl

/-- The meaning of POP to a segment register (R607). -/
theorem exec_popSeg {i : Instr} (h : popSegInstr x = some i) (s : State) : exec i s = runInsn false (popSeg x) s := by
  cases x <;> cases h <;> rfl

/-- Once its operand is checked, MOV to a segment register other than CS loads what the operand holds (R229). -/
theorem run_movSreg {src : RM Reg} {p : Place} (hx : x ≠ .cs) (hp : place .w .read src s = .ok p s0) (hpl : p.plain s0) :
    (do
      require (x != .cs) .ud
      let sel ← readRM .w src
      commitSeg x (← loadSeg x (sel.setWidth 16)) : M Unit) s =
    (loadSeg x ((p.value s0).setWidth 16) >>= commitSeg x) s0 := by
  rw [bne_iff_ne.mpr hx, run_require_true_bind, run_bind_ok (readRM_ok hp hpl)]

/-- Settles O14: the load passes its checks; what follows them changes registers only. -/
theorem loadSegmentCompletes : Obligations.LoadSegmentCompletes := by
  refine ⟨fun x src s s1 s2 p r bytes hx hl hp hpl hload => ⟨?_, ?_⟩, fun x i s s1 s2 v r bytes hi hl hv hload => ⟨?_, ?_⟩⟩
  · rw [exec_movSregRm16]
    exact runInsn_done hl ((run_movSreg hx hp hpl).trans ((run_bind_ok (loadSeg_ok hload)).trans (run_commitSeg x r s2)))
  · exact (hload.frame.after_walk (walks_of_place hp)).congr (segLoaded_mem s2 x r) (segLoaded_cfg s2 x r)
  · rw [exec_popSeg hi]
    refine runInsn_done hl ?_
    unfold popSeg
    rw [run_get_bind, run_bind_ok (peek_ok hv), run_bind_ok (loadSeg_ok hload), run_bind_ok (run_commitSeg x r s2)]
    rfl
  · exact (hload.frame.after_walk hv.walks).congr (segLoaded_mem s2 x r) (segLoaded_cfg s2 x r)

/-- MOV to a segment register whose load raises an exception takes it; the effects of its checks are abandoned (R405). -/
theorem exec_movSreg_raise {src : RM Reg} {p : Place} {e : Exc} (hx : x ≠ .cs) (hl : s.lockOk false)
    (hp : place .w .read src s = .ok p s0) (hpl : p.plain s0)
    (h : loadSeg x ((p.value s0).setWidth 16) s0 = .error (.raise e) s1) :
    exec (.movSregRm16 x src) s = takeException e (rollback s s1) := by
  rw [exec_movSregRm16]
  exact runInsn_raise hl ((run_movSreg hx hp hpl).trans (run_bind_error h))

/-- Settles O15: the first check of the load rule that fails raises its exception. -/
theorem loadSegmentFaults : Obligations.LoadSegmentFaults := by
  intro src s s0 s1 p d hprot hl
  refine ⟨?_, fun hp hpl => ?_⟩
  · rw [exec_movSregRm16]
    exact runInsn_raise hl (t := s) rfl
  intro sel code beyond
  have hw := walks_of_place hp
  have hcpl : s0.cpl = s.cpl := hw.cpl
  have hcode : selCode sel false = code := selCode_eq sel
  have hprot0 : s0.prot = true := by
    unfold State.prot at hprot ⊢
    rwa [hw.pe, hw.eflags]
  have hraise {x : Seg} (hx : x ≠ .cs) {e : Exc} {t : State} (h : loadSeg x sel s0 = .error (.raise e) t) :
      exec (.movSregRm16 x src) s = takeException e (rollback s t) := exec_movSreg_raise hx hl hp hpl h
  refine ⟨fun hn => ?_, fun hn hb x hx => ?_, fun hn hd => ⟨fun hbad => ?_, fun hrpl hwr hdpl habs => ?_,
    fun x hss hx => ⟨fun hbad => ?_, fun hread hpriv habs => ?_⟩⟩⟩
  · exact hraise (by decide) (by rw [loadSeg_ss hprot0, checkSs_null hn])
  · have hnone : s0.descAddr sel = none := (descAddr_eq_none_iff s0 sel).mpr (by rw [hw.sys]; exact hb)
    exact hraise hx (by rw [loadSeg_beyond hprot0 hn hnone, hcode])
  · exact hraise (by decide) (by rw [loadSeg_ss hprot0, checkSs_desc hn hd, hcpl, if_neg hbad, hcode])
  · exact hraise (by decide)
      (by rw [loadSeg_ss hprot0, checkSs_desc hn hd, hcpl, if_pos ⟨hrpl, hwr, hdpl⟩, habs,
        if_neg Bool.false_ne_true, hcode])
  · have hnot : ¬ (d.isReadable = true ∧ (d.conforming = true ∨ s.cpl ≤ d.dpl ∧ rpl sel ≤ d.dpl)) := by
      rintro ⟨hread, hpriv⟩
      rcases hbad with hr | ⟨hc, hp⟩
      · rw [hr] at hread
        cases hread
      · exact hpriv.elim (by rw [hc]; nofun) hp
    exact hraise hx (by rw [loadSeg_data hprot0 hss, checkDataSeg_desc hn hd, hcpl, if_neg hnot, hcode])
  · exact hraise hx (by
      rw [loadSeg_data hprot0 hss, checkDataSeg_desc hn hd, hcpl, if_pos ⟨hread, hpriv⟩, habs, if_neg Bool.false_ne_true, hcode])

end Sys2Proof.Machine
end

section
/-! PROOFS. Decoding what the encoder writes: the bytes after an opcode are read by the opcode's entry in its map, once for each
shape of operands; each instruction is its opcode and one of the shapes. -/
namespace Sys2Proof

/-! ## Numbers of registers and immediates -/

@[simp] theorem Reg.ofNum_num (r : Reg) : Reg.ofNum r.num = r := (reg_num r).2
@[simp] theorem Reg8.ofNum_num (r : Reg8) : Reg8.ofNum r.num = r := (reg8_num r).2
@[simp] theorem Seg.ofNum_num (x : Seg) : Seg.ofNum? x.num = some x := by cases x <;> rfl
@[simp] theorem CrN.ofNum_num (x : CrN) : CrN.ofNum? x.num = some x := by cases x <;> rfl
@[simp] theorem DrN.ofNum_num (d : DrN) : DrN.ofNum d.num = d := by cases d <;> rfl
theorem Seg.num_lt (x : Seg) : x.num < 8 := by cases x <;> decide
theorem CrN.num_lt (x : CrN) : x.num < 8 := by cases x <;> decide
theorem DrN.num_lt (d : DrN) : d.num < 8 := by cases d <;> decide

/-- An operand-size immediate holds its value (R205). -/
theorem leWord_encImm {c : DecodeCtx} {v : Word} (h : fits16 c.osz16 v = true) : leWord (encImm c v) = v := by
  unfold encImm immBytes
  cases ho : c.osz16 with
  | false => exact leWord_le4 v
  | true => exact leWord_le2 v (by simpa [fits16, ho] using h)

/-! ## What follows an opcode -/

/-- The bytes `bs` after an opcode whose entry is `t` are the operands of `i`, whatever bytes follow. -/
def Tail.Reads (c : DecodeCtx) (t : Tail) (bs : List Byte) (i : Instr) : Prop :=
  ∀ rest, finishTail c t (bs ++ rest) = .instr i rest

namespace Tail.Reads

variable {c : DecodeCtx} {i : Instr} {g : Nat} {o : RM Reg} {o8 : RM Reg8} {m : Mem} {f : Nat → RM Nat → RmTail}

/-! ### Without ModRM -/

theorem bare {j : Instr} (h : j = i) : Reads c (.bare j) [] i := fun _ => by rw [h]; rfl

theorem imm8 {F : Byte → Instr} (v : Byte) : Reads c (.imm8 F) [v] (F v) := fun _ => rfl

theorem imm16 {F : Half → Instr} (v : Half) : Reads c (.imm16 F) (leBytes 2 v.toNat) (F v) := fun rest => by
  have hv : (leWord (leBytes 2 v.toNat)).setWidth 16 = v :=
    (BitVec.setWidth_ofNat_of_le (by decide) _).trans (le2 v)
  simp only [finishTail, finishImm, takeBytes_le, hv]

theorem immZ {F : Word → Instr} {v : Word} (h : fits16 c.osz16 v = true) : Reads c (.immZ F) (encImm c v) (F v) :=
  fun _ => finishImm_enc h

theorem moffs {F : Word → Instr} {v : Word} (h : fits16 c.asz16 v = true) : Reads c (.moffs F) (encMoffs c v) (F v) :=
  fun _ => finishImm_moffs h

/-- A direct far pointer: its offset comes before its selector (R205). -/
theorem ptr {F : Half → Word → Instr} {sel : Half} {off : Word} (h : fits16 c.osz16 off = true) :
    Reads c (.ptr F) (encImm c off ++ leBytes 2 sel.toNat) (F sel off) := fun rest => by
  have htake : takeBytes (immBytes c.osz16) (encImm c off ++ (leBytes 2 sel.toNat ++ rest)) =
      some (encImm c off, leBytes 2 sel.toNat ++ rest) := takeBytes_le _ _ _
  rw [List.append_assoc]
  simp only [finishTail, htake, leWord_encImm h]
  exact imm16 (c := c) (F := fun s => F s off) sel rest

/-! ### With ModRM -/

/-- A ModRM byte whose mod field is ignored (R208). -/
theorem modrmReg {f : Nat → Nat → RmTail} {x : Nat} (hg : g < 8) (hx : x < 8) (h : f g x = .done i) :
    Reads c (.modrmReg f) [modrmByte 3 g x] i := fun rest => by
  have hlow : (modrmByte 3 g x).toNat % 8 = x := by rw [modrm_toNat 3 g x (by decide) hg hx]; omega
  simp only [List.cons_append, List.nil_append, finishTail, modrm_reg 3 g x (by decide) hg hx, hlow, h, finishRm]

theorem rm (hg : g < 8) (ho : o.wf c.asz16 = true) (h : ∀ n, toRM n = o → f g n = .done i) :
    Reads c (.modrm f) (encRM g o) i :=
  fun rest => finishTail_modrm hg ho fun n hn => by rw [h n hn]; rfl

theorem rm8 (hg : g < 8) (ho : o8.wf c.asz16 = true) (h : ∀ n, toRM8 n = o8 → f g n = .done i) :
    Reads c (.modrm f) (encRM8 g o8) i :=
  fun rest => finishTail_modrm8 hg ho fun n hn => by rw [h n hn]; rfl

theorem mem (hg : g < 8) (hm : m.wf c.asz16 = true) (h : f g (.mem m) = .done i) :
    Reads c (.modrm f) (encMem g m) i :=
  fun rest => finishTail_mem hg hm (by rw [h]; rfl)

theorem rm_imm8 {F : RM Reg → Byte → Instr} (v : Byte) (hg : g < 8) (ho : o.wf c.asz16 = true)
    (h : ∀ n, f g n = .imm8 (F (toRM n))) : Reads c (.modrm f) (encRM g o ++ [v]) (F o v) := fun rest => by
  rw [List.append_assoc]
  exact finishTail_modrm hg ho fun n hn => by rw [h n, hn]; rfl

theorem rm8_imm8 {F : RM Reg8 → Byte → Instr} (v : Byte) (hg : g < 8) (ho : o8.wf c.asz16 = true)
    (h : ∀ n, f g n = .imm8 (F (toRM8 n))) : Reads c (.modrm f) (encRM8 g o8 ++ [v]) (F o8 v) := fun rest => by
  rw [List.append_assoc]
  exact finishTail_modrm8 hg ho fun n hn => by rw [h n, hn]; rfl

theorem rm_immZ {F : RM Reg → Word → Instr} {v : Word} (hg : g < 8) (h : (o.wf c.asz16 && fits16 c.osz16 v) = true)
    (hf : ∀ n, f g n = .immZ (F (toRM n))) : Reads c (.modrm f) (encRM g o ++ encImm c v) (F o v) := fun rest => by
  obtain ⟨ho, hv⟩ := (Bool.and_eq_true _ _).mp h
  rw [List.append_assoc]
  exact finishTail_modrm hg ho fun n hn => by rw [hf n, hn]; exact finishImm_enc hv

/-! ### An r/m operand and a register -/

theorem rmR {F : RM Reg → Reg → Instr} (r : Reg) (ho : o.wf c.asz16 = true) :
    Reads c (Sys2Proof.rmR F) (encRM r.num o) (F o r) :=
  rm (reg_num r).1 ho fun n hn => by rw [hn, r.ofNum_num]

theorem rRm {F : Reg → RM Reg → Instr} (r : Reg) (ho : o.wf c.asz16 = true) :
    Reads c (Sys2Proof.rRm F) (encRM r.num o) (F r o) := rmR (F := fun o r => F r o) r ho

theorem rmR8 {F : RM Reg8 → Reg8 → Instr} (r : Reg8) (ho : o8.wf c.asz16 = true) :
    Reads c (Sys2Proof.rmR8 F) (encRM8 r.num o8) (F o8 r) :=
  rm8 (reg8_num r).1 ho fun n hn => by rw [hn, r.ofNum_num]

theorem rRm8 {F : Reg8 → RM Reg8 → Instr} (r : Reg8) (ho : o8.wf c.asz16 = true) :
    Reads c (Sys2Proof.rRm8 F) (encRM8 r.num o8) (F r o8) := rmR8 (F := fun o r => F r o) r ho

/-- A register and a memory operand (R295, R604, R605). -/
theorem rMem {F : Reg → Mem → Instr} (r : Reg) (hm : m.wf c.asz16 = true) :
    Reads c (.modrm fun g => memOnly (F (Reg.ofNum g))) (encMem r.num m) (F r m) :=
  mem (reg_num r).1 hm (by rw [r.ofNum_num]; rfl)

theorem sreg {F : Seg → RM Reg → Instr} (x : Seg) (ho : o.wf c.asz16 = true) :
    Reads c (.modrm (sregTail F)) (encRM x.num o) (F x o) :=
  rm x.num_lt ho fun n hn => by simp only [sregTail, x.ofNum_num, hn]

theorem crn {F : CrN → Reg → Instr} (x : CrN) (r : Reg) :
    Reads c (.modrmReg (crTail fun x n => F x (Reg.ofNum n))) [modrmByte 3 x.num r.num] (F x r) :=
  modrmReg x.num_lt (reg_num r).1 (by simp only [crTail, x.ofNum_num, r.ofNum_num])

theorem drn {F : DrN → Reg → Instr} (d : DrN) (r : Reg) :
    Reads c (.modrmReg fun g n => .done (F (DrN.ofNum g) (Reg.ofNum n))) [modrmByte 3 d.num r.num] (F d r) :=
  modrmReg d.num_lt (reg_num r).1 (by rw [d.ofNum_num, r.ofNum_num])

end Tail.Reads

/-! ## Opcodes -/

theorem decode_opcode {c : DecodeCtx} {b : Byte} {bs : List Byte} {i : Instr} (hb : b ≠ 0x0F#8)
    (h : (lookupOp (opcodeMap c) b).Reads c bs i) (rest : List Byte) : decode c (b :: bs ++ rest) = .instr i rest :=
  (if_neg hb).trans (h rest)

theorem decode_opcode0F {c : DecodeCtx} {b : Byte} {bs : List Byte} {i : Instr}
    (h : (lookupOp (opcodeMap0F c) b).Reads c bs i) (rest : List Byte) :
    decode c (0x0F#8 :: b :: bs ++ rest) = .instr i rest := h rest

/-- Settles O52: each instruction is an opcode, then the operands that the opcode's entry reads. -/
theorem decodeEncode : Obligations.DecodeEncode := by
  intro c i rest h
  cases i with
  -- one byte alone
  | lock | repne | rep | segCs | segSs | segDs | segEs | segFs | segGs | opsize | addrsize | retFar | int3 | into | iret
  | pushf | popf | hlt | cli | sti | inAlDx | inEaxDx | outDxAl | outDxEax | pushEs | pushCs | pushSs | pushDs | popEs
  | popSs | popDs | ret =>
    exact decode_opcode (by decide) (.bare rfl) rest
  | incR r | decR r | pushR r | popR r =>
    cases r <;> exact decode_opcode (by decide) (.bare rfl) rest
  | xchgEaxR r =>
    cases r with
    | eax => cases h
    | _ => exact decode_opcode (by decide) (.bare rfl) rest
  -- a ModRM byte without operands
  | monitor | mwait | lfence | mfence | sfence => rfl
  -- two bytes alone
  | clts | invd | wbinvd | ud2 | wrmsr | rdtsc | rdmsr | rdpmc | sysenter | sysexit | cpuid | rsm | pushFs | pushGs | popFs
  | popGs =>
    exact decode_opcode0F (.bare rfl) rest
  -- 90H, PAUSE after F3H (R216)
  | pause => exact decode_opcode (by decide) (.bare (if_pos (eq_of_beq h))) rest
  | nop => exact decode_opcode (by decide) (.bare (if_neg (bne_iff_ne.mp h))) rest
  -- an immediate, a displacement or an offset
  | intImm8 v | inAlImm8 v | inEaxImm8 v | outImm8Al v | outImm8Eax v | pushImm8 v | addAlImm8 v | orAlImm8 v | adcAlImm8 v
  | sbbAlImm8 v | andAlImm8 v | subAlImm8 v | xorAlImm8 v | cmpAlImm8 v | testAlImm8 v | jmpRel8 v | joRel8 v | jnoRel8 v
  | jbRel8 v | jaeRel8 v | jeRel8 v | jneRel8 v | jbeRel8 v | jaRel8 v | jsRel8 v | jnsRel8 v | jpRel8 v | jnpRel8 v
  | jlRel8 v | jgeRel8 v | jleRel8 v | jgRel8 v | jecxzRel8 v =>
    exact decode_opcode (by decide) (.imm8 v) rest
  | movR8Imm8 r v =>
    cases r <;> exact decode_opcode (by decide) (.imm8 v) rest
  | retFarImm16 v | retImm16 v =>
    exact decode_opcode (by decide) (.imm16 v) rest
  | pushImm32 v | addEaxImm v | orEaxImm v | adcEaxImm v | sbbEaxImm v | andEaxImm v | subEaxImm v | xorEaxImm v
  | cmpEaxImm v | testEaxImm v | jmpRel32 v | callRel32 v =>
    exact decode_opcode (by decide) (.immZ h) rest
  | movRImm r v =>
    cases r <;> exact decode_opcode (by decide) (.immZ h) rest
  | joRel32 v | jnoRel32 v | jbRel32 v | jaeRel32 v | jeRel32 v | jneRel32 v | jbeRel32 v | jaRel32 v | jsRel32 v
  | jnsRel32 v | jpRel32 v | jnpRel32 v | jlRel32 v | jgeRel32 v | jleRel32 v | jgRel32 v =>
    exact decode_opcode0F (.immZ h) rest
  | movAlMoffs8 off | movEaxMoffs off | movMoffs8Al off | movMoffsEax off =>
    exact decode_opcode (by decide) (.moffs h) rest
  | callPtr1632 sel off | jmpPtr1632 sel off =>
    exact decode_opcode (by decide) (.ptr h) rest
  -- an r/m operand and a register
  | addRmR o r | orRmR o r | adcRmR o r | sbbRmR o r | andRmR o r | subRmR o r | xorRmR o r | cmpRmR o r | testRmR o r
  | movRmR o r | xchgRmR o r | arpl o r =>
    exact decode_opcode (by decide) (.rmR r h) rest
  | addRRm r o | orRRm r o | adcRRm r o | sbbRRm r o | andRRm r o | subRRm r o | xorRRm r o | cmpRRm r o | movRRm r o =>
    exact decode_opcode (by decide) (.rRm r h) rest
  | addRm8R8 o r | orRm8R8 o r | adcRm8R8 o r | sbbRm8R8 o r | andRm8R8 o r | subRm8R8 o r | xorRm8R8 o r | cmpRm8R8 o r
  | testRm8R8 o r | movRm8R8 o r | xchgRm8R8 o r =>
    exact decode_opcode (by decide) (.rmR8 r h) rest
  | addR8Rm8 r o | orR8Rm8 r o | adcR8Rm8 r o | sbbR8Rm8 r o | andR8Rm8 r o | subR8Rm8 r o | xorR8Rm8 r o | cmpR8Rm8 r o
  | movR8Rm8 r o =>
    exact decode_opcode (by decide) (.rRm8 r h) rest
  | xaddRmR o r | cmpxchgRmR o r | btRmR o r | btsRmR o r | btrRmR o r | btcRmR o r =>
    exact decode_opcode0F (.rmR r h) rest
  | xaddRm8R8 o r | cmpxchgRm8R8 o r =>
    exact decode_opcode0F (.rmR8 r h) rest
  | lar r o | lsl r o =>
    exact decode_opcode0F (.rRm r h) rest
  | bound r m | lea r m =>
    exact decode_opcode (by decide) (.rMem r h) rest
  | movnti m r =>
    exact decode_opcode0F (.rMem (F := fun r m => .movnti m r) r h) rest
  | movRmSreg o x | movSregRm16 x o =>
    exact decode_opcode (by decide) (.sreg x h) rest
  -- control and debug registers
  | movR32Crn r x => exact decode_opcode0F (.crn (F := fun x r => .movR32Crn r x) x r) rest
  | movCrnR32 x r => exact decode_opcode0F (.crn x r) rest
  | movR32Drn r d => exact decode_opcode0F (.drn (F := fun d r => .movR32Drn r d) d r) rest
  | movDrnR32 d r => exact decode_opcode0F (.drn d r) rest
  -- an r/m operand, with the instruction named by the reg field
  | pushRm o | popRm o | incRm o | decRm o | notRm o | negRm o | jmpRm32 o | callRm32 o =>
    exact decode_opcode (by decide) (.rm (by decide) h fun _ hn => hn ▸ rfl) rest
  | incRm8 o | decRm8 o | notRm8 o | negRm8 o =>
    exact decode_opcode (by decide) (.rm8 (by decide) h fun _ hn => hn ▸ rfl) rest
  | callM1632 m | jmpM1632 m =>
    exact decode_opcode (by decide) (.mem (by decide) h rfl) rest
  | sldt o | str o | lldt o | ltr o | verr o | verw o | smsw o | lmsw o =>
    exact decode_opcode0F (.rm (by decide) h fun _ hn => hn ▸ rfl) rest
  | sgdt m | sidt m | lgdt m | lidt m | invlpg m | fxsave m | fxrstor m | ldmxcsr m | stmxcsr m | clflush m | cmpxchg8b m =>
    exact decode_opcode0F (.mem (by decide) h rfl) rest
  -- the same, with an immediate
  | addRmImm8 o v | orRmImm8 o v | adcRmImm8 o v | sbbRmImm8 o v | andRmImm8 o v | subRmImm8 o v | xorRmImm8 o v
  | cmpRmImm8 o v =>
    exact decode_opcode (by decide) (.rm_imm8 v (by decide) h fun _ => rfl) rest
  | addRm8Imm8 o v | orRm8Imm8 o v | adcRm8Imm8 o v | sbbRm8Imm8 o v | andRm8Imm8 o v | subRm8Imm8 o v | xorRm8Imm8 o v
  | cmpRm8Imm8 o v | testRm8Imm8 o v | movRm8Imm8 o v =>
    exact decode_opcode (by decide) (.rm8_imm8 v (by decide) h fun _ => rfl) rest
  | addRmImm o v | orRmImm o v | adcRmImm o v | sbbRmImm o v | andRmImm o v | subRmImm o v | xorRmImm o v | cmpRmImm o v
  | testRmImm o v | movRmImm o v =>
    exact decode_opcode (by decide) (.rm_immZ (by decide) h fun _ => rfl) rest
  | btRmImm8 o v | btsRmImm8 o v | btrRmImm8 o v | btcRmImm8 o v =>
    exact decode_opcode0F (.rm_imm8 v (by decide) h fun _ => rfl) rest

/-- An encoding alone decodes to its instruction, with no byte left over. -/
theorem decode_encode {c : DecodeCtx} (i : Instr) (h : i.wf c = true) : decode c (encode c i) = .instr i [] := by
  simpa only [List.append_nil] using decodeEncode c i [] h

/-- Settles O53: each word is the encoding of its instruction, so the decoder gives the instruction back. -/
theorem knownEncodings : Obligations.KnownEncodings := by
  unfold Obligations.KnownEncodings
  exact ⟨decode_encode (.addRmR (.reg .eax) .ecx) rfl,
    decode_encode (.addRmImm8 (.reg .ebx) 0xFF#8) rfl,
    decode_encode (.movRRm .eax (.mem (.sib .esi (some ⟨.ecx, .x4⟩) (.d8 0x10#8)))) rfl,
    decode_encode (.movRImm .eax 0x12345678#32) rfl,
    decode_encode (.movCrnR32 .cr0 .eax) rfl,
    decode_encode (.lgdt (.abs32 0x1000#32)) rfl,
    decode_encode (.cmpxchg8b (.base32 .edi .none)) rfl,
    decode_encode (.jmpPtr1632 8#16 0x10000#32) rfl,
    decode_encode .monitor rfl,
    decode_encode .lfence rfl,
    decode_encode .iret rfl⟩

end Sys2Proof
end

section
/-! PROOFS. Prefixes, and the instructions that never complete: what their bodies answer, then the exception taken or the
refusal. -/
namespace Sys2Proof.Machine

/-! ## Prefixes -/

theorem exec_prefix (s : State) : ∀ p ∈ prefixEffects, exec p.1 s = withPfx p.2 s := by
  simp only [prefixEffects, List.forall_mem_cons]
  exact ⟨rfl, rfl, rfl, rfl, rfl, rfl, rfl, rfl, rfl, rfl, rfl, fun _ h => absurd h List.not_mem_nil⟩

/-- Settles O23: `withPfx` changes the recorded prefixes and nothing else. -/
theorem prefixesComplete : Obligations.PrefixesComplete := fun s i f h => exec_prefix s (i, f) h

/-! ## UD2 and RDPMC -/

theorem takeException_delivers {e : Exc} {s t : State} {bytes : List Nat} (h : Delivers (e.event s) s t bytes) :
    takeException e s = .next (t.taken .exception) := takeEvent_delivers h

/-- UD2 raises #UD with LOCK before it too (R209, R351). -/
theorem exec_ud2 (s : State) : exec .ud2 s = takeException .ud s := by
  cases hl : !s.locked || false with
  | true => exact runInsn_raise hl rfl
  | false => exact runJump_lock hl

/-- RDPMC raises #GP(0) by its level check, else for want of a counter (R47). -/
theorem run_rdpmcBody (s : State) : rdpmcBody s = .error (.raise (.gp 0#16)) s := by
  unfold rdpmcBody
  rw [run_get_bind, run_require_bind]
  split <;> rfl

theorem exec_rdpmc {s : State} (hl : s.lockOk false) : exec .rdpmc s = takeException (.gp 0#16) s :=
  runInsn_raise hl (run_rdpmcBody s)

/-- Settles O31: neither instruction completes, and the delivery is that of its exception's event. -/
theorem alwaysRaise : Obligations.AlwaysRaise :=
  ⟨exec_ud2, fun _ hl => exec_rdpmc hl, fun s _ _ h => (exec_ud2 s).trans (takeException_delivers h),
    fun _ _ _ hl h => (exec_rdpmc hl).trans (takeException_delivers h)⟩

/-! ## FXSAVE, FXRSTOR, LDMXCSR, STMXCSR -/

variable {s : State}

/-- CR0.EM or CR0.TS makes an x87 instruction raise #NM (R437). -/
theorem run_requireFpu_raise (h : (bit s.sys.cr0 2 || bit s.sys.cr0 3) = true) :
    requireFpu s = .error (.raise .nm) s := by
  unfold requireFpu
  rw [run_get_bind, ← Bool.not_or, h]
  rfl

theorem run_requireFpu_ok (h : (bit s.sys.cr0 2 || bit s.sys.cr0 3) = false) : requireFpu s = .ok () s := by
  unfold requireFpu
  rw [run_get_bind, ← Bool.not_or, h]
  rfl

/-- CR0.TS makes an SSE instruction raise #NM (R437), before any #UD (R212). -/
theorem run_requireSse_nm (h : bit s.sys.cr0 3 = true) : requireSse s = .error (.raise .nm) s := by
  unfold requireSse
  rw [run_get_bind, h]
  rfl

theorem run_requireSse_ud (hts : bit s.sys.cr0 3 = false) (h : (s.cfg.hasSse && !bit s.sys.cr0 2 && bit s.sys.cr4 9) = false) :
    requireSse s = .error (.raise .ud) s := by
  unfold requireSse
  rw [run_get_bind, hts, h]
  rfl

theorem run_requireSse_ok (hts : bit s.sys.cr0 3 = false) (h : (s.cfg.hasSse && !bit s.sys.cr0 2 && bit s.sys.cr4 9) = true) :
    requireSse s = .ok () s := by
  unfold requireSse
  rw [run_get_bind, hts, h]
  rfl

/-- An instruction on state the model does not hold whose checks raise an exception takes it. -/
theorem runInsn_checked_raise {check : M Unit} {r : Refusal} {e : Exc} (hl : s.lockOk false)
    (h : check s = .error (.raise e) s) : runInsn false (do check; refuse r) s = takeException e s :=
  runInsn_raise hl (run_bind_error h)

/-- One whose checks pass is refused by name (D4). -/
theorem runInsn_checked_refuse {check : M Unit} {r : Refusal} (hl : s.lockOk false) (h : check s = .ok () s) :
    runInsn false (do check; refuse r) s = .refused r :=
  runInsn_refuse (t := s) hl (run_bind_ok h)

/-- Settles O46: the checks of its class raise an exception, or the model refuses the instruction. -/
theorem fpuStateStops : Obligations.FpuStateStops := by
  intro m s hl em ts sse
  refine ⟨fun i hi => ?_, fun i hi => ?_⟩
  · have hexec : exec i s = runInsn false (do requireFpu; refuse .fpuState) s := by
      obtain rfl | rfl := List.mem_pair.mp hi <;> rfl
    rw [hexec]
    exact ⟨fun h => runInsn_checked_raise hl (run_requireFpu_raise h),
      fun h => runInsn_checked_refuse hl (run_requireFpu_ok h)⟩
  · have hexec : exec i s = runInsn false (do requireSse; refuse .fpuState) s := by
      obtain rfl | rfl := List.mem_pair.mp hi <;> rfl
    rw [hexec]
    exact ⟨fun h => runInsn_checked_raise hl (run_requireSse_nm h),
      fun hts h => runInsn_checked_raise hl (run_requireSse_ud hts h),
      fun hts h => runInsn_checked_refuse hl (run_requireSse_ok hts h)⟩

end Sys2Proof.Machine
end

section
/-! PROOFS. The privileged instructions, and the moves of control and debug registers: the level check first, then what a body answers
at level 0. -/
namespace Sys2Proof.Machine

variable {s : State}

/-! ## The checks of level and mode -/

theorem run_requireCpl0_ok (h : s.cpl = 0) : requireCpl0 s = .ok () s := by
  unfold requireCpl0
  rw [run_get_bind, h]
  rfl

/-- Above level 0 a privileged instruction raises #GP(0) (R220). -/
theorem run_requireCpl0_raise (h : s.cpl ≠ 0) : requireCpl0 s = .error (.raise (.gp 0#16)) s := by
  unfold requireCpl0
  rw [run_get_bind, beq_eq_false_iff_ne.mpr h]
  rfl

theorem run_requireProt_ok (h : s.prot = true) : requireProt s = .ok () s := by
  unfold requireProt
  rw [run_get_bind, h]
  rfl

theorem run_from486_ok (h : s.cfg.family ≠ .i386) : from486 s = .ok () s := by
  unfold from486
  rw [run_get_bind, bne_iff_ne.mpr h]
  rfl

/-- DR4 and DR5 are there unless CR4.DE is set (R236). -/
theorem run_checkDr_ok {d : DrN} (h : ¬ ((d = .dr4 ∨ d = .dr5) ∧ bit s.sys.cr4 3 = true)) : checkDr d s = .ok () s := by
  have hc : ((d == .dr4 || d == .dr5) && bit s.sys.cr4 3) = false := by simpa [← Bool.not_eq_true] using h
  unfold checkDr
  rw [run_get_bind, hc]
  rfl

theorem run_checkDr_raise {d : DrN} (hd : d = .dr4 ∨ d = .dr5) (h : bit s.sys.cr4 3 = true) :
    checkDr d s = .error (.raise .ud) s := by
  have hc : ((d == .dr4 || d == .dr5) && bit s.sys.cr4 3) = true := by simpa using ⟨hd, h⟩
  unfold checkDr
  rw [run_get_bind, hc]
  rfl

/-- An instruction at level 0 answers what follows the level check. -/
theorem runInsn_cpl0 {f : Unit → M Unit} {t : State} (hl : s.lockOk false) (h0 : s.cpl = 0) (h : f () s = .ok () t) :
    runInsn false (requireCpl0 >>= f) s = .next t.done :=
  runInsn_done hl ((run_bind_ok (run_requireCpl0_ok h0)).trans h)

theorem runInsn_checked_cpl0 {check : M Unit} {f : Unit → M Unit} {t : State} (hl : s.lockOk false)
    (hc : check s = .ok () s) (h0 : s.cpl = 0) (h : f () s = .ok () t) :
    runInsn false (do check; requireCpl0 >>= f) s = .next t.done :=
  runInsn_done hl ((run_bind_ok hc).trans ((run_bind_ok (run_requireCpl0_ok h0)).trans h))

/-- A privileged instruction above level 0 raises #GP(0), whatever would follow (R220). -/
theorem runInsn_privileged {f : Unit → M Unit} (hl : s.lockOk false) (h : s.cpl ≠ 0) :
    runInsn false (requireCpl0 >>= f) s = takeException (.gp 0#16) s :=
  runInsn_raise hl (run_bind_error (run_requireCpl0_raise h))

/-- A check that passes may come before the level check (R436; log 33). -/
theorem runInsn_checked_privileged {check : M Unit} {f : Unit → M Unit} (hl : s.lockOk false) (hc : check s = .ok () s)
    (h : s.cpl ≠ 0) : runInsn false (do check; requireCpl0 >>= f) s = takeException (.gp 0#16) s :=
  runInsn_raise hl ((run_bind_ok hc).trans (run_bind_error (run_requireCpl0_raise h)))

/-! ## Above level 0 -/

/-- With CR4.TSD set RDTSC is privileged (R240). -/
theorem run_rdtscBody_raise (htsc : s.cfg.hasTsc = true) (htsd : bit s.sys.cr4 2 = true) (h : s.cpl ≠ 0) :
    rdtscBody s = .error (.raise (.gp 0#16)) s := by
  unfold rdtscBody
  rw [run_get_bind, htsc, run_require_true_bind, htsd, bne_iff_ne.mpr h]
  rfl

theorem run_rdmsrBody_raise (hmsr : s.cfg.hasMsr = true) (h : s.cpl ≠ 0) :
    rdmsrBody s = .error (.raise (.gp 0#16)) s := by
  unfold rdmsrBody
  rw [run_get_bind, hmsr, run_require_true_bind, run_bind_error (run_requireCpl0_raise h)]

theorem run_wrmsrBody_raise (hmsr : s.cfg.hasMsr = true) (h : s.cpl ≠ 0) :
    wrmsrBody s = .error (.raise (.gp 0#16)) s := by
  unfold wrmsrBody
  rw [run_get_bind, hmsr, run_require_true_bind, run_bind_error (run_requireCpl0_raise h)]

/-- Settles O48: the level check is the first that can fail. -/
theorem privilegedTraps : Obligations.PrivilegedTraps := by
  intro s r m c d src hl h
  refine ⟨?_, fun hf => runInsn_checked_privileged hl (run_from486_ok hf) h, fun _ => exec_rdpmc hl,
    fun htsc htsd => runInsn_raise hl (run_rdtscBody_raise htsc htsd h), fun hde => ?_,
    fun hmsr => ⟨runInsn_raise hl (run_rdmsrBody_raise hmsr h), runInsn_raise hl (run_wrmsrBody_raise hmsr h)⟩,
    fun hp => ?_⟩
  · have gp {f : Unit → M Unit} : runInsn false (requireCpl0 >>= f) s = takeException (.gp 0#16) s :=
      runInsn_privileged hl h
    simp only [List.forall_mem_cons]
    exact ⟨gp, gp, gp, gp, gp, gp, gp, gp, gp, fun _ hi => absurd hi List.not_mem_nil⟩
  · have hdr : checkDr d s = .ok () s := run_checkDr_ok fun hbad => by simp [hde] at hbad
    exact ⟨runInsn_checked_privileged hl hdr h, runInsn_checked_privileged hl hdr h⟩
  · have hprot := run_requireProt_ok hp
    exact ⟨runInsn_checked_privileged hl hprot h, runInsn_checked_privileged hl hprot h⟩

/-! ## Reading a control register, debug registers -/

/-- The status flags take six free values in turn (R230; log 10). -/
theorem run_freeStatusFlags (s : State) : freeStatusFlags s = .ok () ((s.used 6).withFlags
    { s.eflags with
      cf := Config.freeBit s.free
      pf := Config.freeBit (s.free + 1)
      af := Config.freeBit (s.free + 2)
      zf := Config.freeBit (s.free + 3)
      sf := Config.freeBit (s.free + 4)
      ovf := Config.freeBit (s.free + 5) }) := by
  unfold freeStatusFlags
  iterate 6 rw [run_freshBit_bind]
  rw [run_setFlags]
  rfl

/-- Settles O36: the register takes the copy, then the flags their free values. -/
theorem readControlRegister : Obligations.ReadControlRegister := by
  intro r c s hl h0
  have hbody : (do
      modify fun s => { s with gpr := s.gpr.set r (s.sys.readCr c) }
      freeStatusFlags : M Unit) s =
      freeStatusFlags (s.setReg .d r (s.sys.readCr c)) := rfl
  refine (runInsn_cpl0 hl h0 (hbody.trans (run_freeStatusFlags _))).trans ?_
  cases c <;> rfl

/-- A debug register is copied to a general one where its number names one (R236). -/
theorem exec_movR32Drn {r : Reg} {d : DrN} (hl : s.lockOk false) (h0 : s.cpl = 0)
    (hok : ¬ ((d = .dr4 ∨ d = .dr5) ∧ bit s.sys.cr4 3 = true)) :
    exec (.movR32Drn r d) s = .next (s.setReg .d r (s.sys.readDr d)).done :=
  runInsn_checked_cpl0 hl (run_checkDr_ok hok) h0 rfl

theorem exec_movDrnR32 {r : Reg} {d : DrN} (hl : s.lockOk false) (h0 : s.cpl = 0)
    (hok : ¬ ((d = .dr4 ∨ d = .dr5) ∧ bit s.sys.cr4 3 = true)) :
    exec (.movDrnR32 d r) s = .next (State.done { s with sys := s.sys.writeDr d (s.gpr.get r) }) :=
  runInsn_checked_cpl0 hl (run_checkDr_ok hok) h0 rfl

/-- Settles O38: the check of DR4 and DR5 first, then the level's, then the copy. -/
theorem debugRegisterMoves : Obligations.DebugRegisterMoves := by
  intro r d s hl h0
  refine ⟨fun hd hde => ?_, fun hok => ?_⟩
  · have hud := run_checkDr_raise hd hde
    exact ⟨runInsn_raise hl (run_bind_error hud), runInsn_raise hl (run_bind_error hud)⟩
  · refine ⟨(exec_movR32Drn hl h0 hok).trans ?_, (exec_movDrnR32 hl h0 hok).trans ?_⟩
    all_goals cases d <;> rfl

end Sys2Proof.Machine
end

section
/-! PROOFS. Selectors and tables in memory: the stores of system values, the pseudo-descriptors of GDTR and IDTR, the loads of LDTR
and TR. -/
namespace Sys2Proof.Machine

variable {s s1 s2 : State}

/-! ## Stores of selectors -/

/-- A selector goes to a register with the operand's size, zero-extended (R226, R229; log 9). -/
theorem run_storeSel_reg (align : Nat) (r : Reg) (v : Word) (s : State) :
    storeSel align (.reg r) v s = .ok () (s.setReg s.osz r v) := rfl

/-- Sixteen bits go to a plain memory operand (R226, R229). -/
theorem storeSel_mem_ok {align : Nat} {m : Mem} {pas : List Nat} (v : Word) (hm : memAddrs m 2 align .write s = .ok pas s1)
    (hp : s1.plain pas) : storeSel align (.mem m) v s = .ok () (s1.storeAt pas v.toNat) :=
  (run_bind_ok hm).trans (phWrite_plain _ hp)

/-- The low half of a word, as SMSW stores it (R234). -/
theorem trunc_w_eq_setWidth (v : Word) : Sz.w.trunc v = (v.setWidth 16).setWidth 32 := by
  refine BitVec.eq_of_toNat_eq ?_
  simp [Sz.trunc, Sz.bits]

/-- The instruction of a source stores its value, wherever SLDT and STR are recognised (R209, R226, R228, R229, R234). -/
theorem exec_storeSel {k : SelSource} {t : State} {d : RM Reg} (hp : k.present s) (hl : s.lockOk false)
    (h : storeSel k.align d ((k.value s).setWidth 32) s = .ok () t) : exec (k.instr d) s = .next t.done := by
  cases k with
  | sreg x => exact runInsn_done hl h
  | ldtr => exact runInsn_done hl ((run_bind_ok (run_requireProt_ok hp)).trans h)
  | tr => exact runInsn_done hl ((run_bind_ok (run_requireProt_ok hp)).trans h)
  | msw =>
    have hbody : (do storeSel 2 d (Sz.w.trunc (← get).sys.cr0) : M Unit) s = .ok () t := by
      rw [run_get_bind, trunc_w_eq_setWidth]
      exact h
    exact runInsn_done hl hbody

/-- Settles O13: the store is the same for every source, in a register or in memory. -/
theorem storeSelectorCompletes : Obligations.StoreSelectorCompletes := by
  intro k s hp hl
  refine ⟨fun r => exec_storeSel hp hl (run_storeSel_reg ..), fun m s1 pas hm hpl => ?_⟩
  have hv : ((k.value s).setWidth 32).toNat = (k.value s).toNat := BitVec.toNat_setWidth_of_le (by decide)
  have hs := storeSel_mem_ok ((k.value s).setWidth 32) hm hpl
  rw [hv] at hs
  exact completes_of (exec_storeSel hp hl hs) (walks_of_memAddrs hm) (memFrame_storeAt pas _ rfl rfl rfl (by simp))

/-! ## GDTR and IDTR -/

/-- The pseudo-descriptor at two plain places: the limit, then the base, cut to 24 bits with a 16-bit operand size (R133). -/
def State.tableAt (s : State) (p q : List Nat) : TableReg :=
  ⟨BitVec.ofNat 32 (if s.osz = .w then s.valueAt q % 2 ^ 24 else s.valueAt q), BitVec.ofNat 16 (s.valueAt p)⟩

theorem loadTable_ok {m : Mem} {p q : List Nat} (hp : memAddrs m 2 2 .read s = .ok p s1)
    (hq : memAddrsAt m 2#32 4 4 .read s1 = .ok q s2) (hpp : s2.plain p) (hqp : s2.plain q) :
    loadTable m s = .ok (s2.tableAt p q) s2 := by
  unfold loadTable State.tableAt
  rw [run_bind_ok hp, run_bind_ok hq, run_bind_ok (phRead_plain hpp), run_bind_ok (phRead_plain hqp), run_get_bind]
  simp only [beq_iff_eq]
  rfl

/-- A pseudo-descriptor stored at two places (R222, R224): with a 16-bit operand size the top byte of the base is free (U27;
log 10). -/
def State.storeTableAt (s : State) (p q : List Nat) (t : TableReg) : State :=
  if s.osz = .w then
    ((s.used 1).storeAt p t.limit.toNat).storeAt q
      (t.base.toNat % 2 ^ 24 + (Config.freeWord s.free).toNat % 2 ^ 8 * 2 ^ 24)
  else (s.storeAt p t.limit.toNat).storeAt q t.base.toNat

/-- Two stores, one after the other, in plain memory. -/
theorem phWrite_pair {p q : List Nat} (v w : Nat) (hp : s.plain p) (hq : s.plain q) :
    (do phWrite p v; phWrite q w : M Unit) s = .ok () ((s.storeAt p v).storeAt q w) :=
  (run_bind_ok (phWrite_plain v hp)).trans (phWrite_plain w (OnlyStored.plain (.storeAt s p v) hq))

theorem storeTable_ok {m : Mem} {p q : List Nat} (t : TableReg) (hp : memAddrs m 2 2 .write s = .ok p s1)
    (hq : memAddrsAt m 2#32 4 4 .write s1 = .ok q s2) (hpp : s2.plain p) (hqp : s2.plain q) :
    storeTable m t s = .ok () (s2.storeTableAt p q t) := by
  unfold storeTable State.storeTableAt
  rw [run_bind_ok hp, run_bind_ok hq, run_get_bind]
  by_cases hz : s2.osz = .w
  · rw [if_pos hz, if_pos (beq_iff_eq.mpr hz)]
    exact phWrite_pair (s := s2.used 1) _ _ hpp hqp
  · rw [if_neg hz, if_neg (by simpa using hz)]
    exact phWrite_pair _ _ hpp hqp

/-- A store of a pseudo-descriptor changes the bytes of its two places. -/
theorem storeTableAt_frame (s : State) (p q : List Nat) (t : TableReg) : MemFrame s (s.storeTableAt p q t).done (p ++ q) := by
  have pair (u : State) (v w : Nat) (a : Nat) (ha : a ∉ p ++ q) :
      ((u.storeAt p v).storeAt q w).physByte a = u.physByte a := by
    rw [List.mem_append, not_or] at ha
    rw [physByte_storeAt_other _ q w a ha.2, physByte_storeAt_other u p v a ha.1]
  intro a ha
  unfold State.storeTableAt
  split
  · exact .inl (pair (s.used 1) _ _ a ha)
  · exact .inl (pair s _ _ a ha)

/-- Settles O34: LGDT and LIDT read one pseudo-descriptor, SGDT and SIDT store one. -/
theorem descriptorTableRegisters : Obligations.DescriptorTableRegisters := by
  refine ⟨fun m s s1 s2 p q hl h0 hp hq hpp hqp => ?_, fun m s s1 s2 p q hl hp hq hpp hqp => ?_⟩
  all_goals have hw := (walks_of_memAddrs hp).trans (walks_of_memAddrsAt hq)
  · intro base t
    have ht : s2.tableAt p q = t := by
      unfold State.tableAt
      rw [hw.osz]
    have hload := ht ▸ loadTable_ok hp hq hpp hqp
    exact ⟨completes_of (runInsn_cpl0 hl h0 (run_bind_ok hload)) hw (memFrame_same rfl rfl),
      completes_of (runInsn_cpl0 hl h0 (run_bind_ok hload)) hw (memFrame_same rfl rfl)⟩
  · intro stored
    have hst (t : TableReg) : s2.storeTableAt p q t = stored t := by
      unfold State.storeTableAt
      rw [hw.osz]
    have hcomplete {i : Instr} (f : SysRegs → TableReg)
        (hi : exec i s = runInsn false (do storeTable m (f (← get).sys)) s) :
        Completes i s s2 (stored (f s.sys)).done (p ++ q) := by
      have hbody : (do storeTable m (f (← get).sys) : M Unit) s = .ok () (stored (f s.sys)) := by
        rw [run_get_bind, storeTable_ok _ hp hq hpp hqp, hst]
      exact completes_of (hi.trans (runInsn_done hl hbody)) hw (hst _ ▸ storeTableAt_frame s2 p q _)
    exact ⟨hcomplete (·.gdtr) rfl, hcomplete (·.idtr) rfl⟩

/-! ## LDTR and TR -/

/-- LLDT takes a null selector alone (R225). -/
theorem lldtBody_null {sel : Half} (hn : isNull sel = true) :
    lldtBody sel s = .ok () { s with sys := { s.sys with ldtr := { s.sys.ldtr with sel := sel } } } := by
  unfold lldtBody
  rw [hn]
  rfl

/-- LLDT loads the LDT descriptor that a selector names in the GDT (R225). -/
theorem lldtBody_ok {sel : Half} {d : Desc} (hn : isNull sel = false) (hg : sel.getLsbD 2 = false)
    (hd : DescAt s sel d s1) (ht : d.isSys 2 = true) (hp : d.p = true) :
    lldtBody sel s = .ok () { s1 with sys := { s1.sys with ldtr := d.toSegReg sel } } := by
  unfold lldtBody
  rw [hn, if_neg Bool.false_ne_true, hg, Bool.not_false, run_require_true_bind, run_bind_ok (readDesc_ok hd _), ht,
    run_require_true_bind, hp, run_require_true_bind, run_modify]

/-- The linear address of a descriptor in the GDT (R131). -/
theorem descAddr_gdt {sel : Half} {lin : Word} (hg : sel.getLsbD 2 = false) (h : s.descAddr sel = some lin) :
    lin = s.sys.gdtr.base + BitVec.ofNat 32 (sel.toNat / 8 * 8) := by
  unfold State.descAddr descAddrIn at h
  dsimp only at h
  rw [hg, if_neg Bool.false_ne_true] at h
  split at h
  · cases h
  · rw [Nat.mul_comm, Option.some.inj h]

/-- LTR marks the available TSS that a selector names busy and loads it (R227). -/
theorem ltrBody_ok {sel : Half} {d : Desc} {lin : Word} {b : List Nat} (hn : isNull sel = false)
    (hg : sel.getLsbD 2 = false) (hd : DescAt s sel d s1) (ht : d.tssAvail = true) (hp : d.p = true)
    (ha : s.descAddr sel = some lin) (hb : linAddrs (lin + 5#32) 1 .write false s1 = .ok b s2) (hbp : s2.plain b) :
    ltrBody sel s = .ok () { s2.storeAt b ((d.hi ||| 0x200#32).toNat / 256 % 256) with
      sys := { s2.sys with tr := Desc.toSegReg { d with hi := d.hi ||| 0x200#32 } sel } } := by
  have htss : d.isTss = true := by
    unfold Desc.tssAvail at ht
    unfold Desc.isTss
    simp only [Bool.or_eq_true] at ht ⊢
    tauto
  have hbusy : busyAddr sel s1 = .ok b s2 := by
    refine busyAddr_ok (congrArg (·.gdtr) hd.walks.sys) ?_
    rw [← hb, descAddr_gdt hg ha, BitVec.add_assoc, BitVec.ofNat_add]
  unfold ltrBody
  rw [hn, Bool.not_false, run_require_true_bind, hg, Bool.not_false, run_require_true_bind,
    run_bind_ok (readDesc_ok hd _), ht, run_require_true_bind, hp, run_require_true_bind, run_bind_ok hbusy,
    run_bind_ok (phWrite_plain _ hbp), run_modify, busy_byte, toSegReg_busy htss, storeAt_sys]

/-- An instruction on a selector in an r/m operand, at level 0 in protected mode, answers what its body makes of the selector
(R225, R227). -/
theorem runInsn_sel {src : RM Reg} {p : Place} {f : Half → M Unit} {t : State} (hl : s.lockOk false)
    (hprot : s.prot = true) (h0 : s.cpl = 0) (hp : place .w .read src s = .ok p s1) (hpl : p.plain s1)
    (h : f ((p.value s1).setWidth 16) s1 = .ok () t) :
    runInsn false (do requireProt; requireCpl0; f ((← readRM .w src).setWidth 16)) s = .next t.done :=
  runInsn_checked_cpl0 hl (run_requireProt_ok hprot) h0 ((run_bind_ok (readRM_ok hp hpl)).trans h)

/-- Settles O35: the bodies of LLDT and LTR on the selector that the operand holds. -/
theorem loadLdtrAndTrComplete : Obligations.LoadLdtrAndTrComplete := by
  intro src s s1 p hl hprot h0 hp hpl sel
  have hw := walks_of_place hp
  refine ⟨fun hn => ?_, fun d s2 hn hg hd ht hpres => ?_, fun d s2 s3 lin b hn hg hd ht hpres ha hb hbp => ?_⟩
  · exact completes_of (runInsn_sel hl hprot h0 hp hpl (lldtBody_null hn)) hw (memFrame_same rfl rfl)
  · exact completes_of (runInsn_sel hl hprot h0 hp hpl (lldtBody_ok hn hg hd ht hpres)) (hw.trans hd.walks)
      (memFrame_same rfl rfl)
  · have hav : d.tssAvail = true := by simpa [Desc.tssAvail] using ht
    have ha1 : s1.descAddr sel = some lin := by
      unfold State.descAddr at ha ⊢
      rwa [hw.sys]
    exact completes_of (runInsn_sel hl hprot h0 hp hpl (ltrBody_ok hn hg hd hav hpres ha1 hb hbp))
      ((hw.trans hd.walks).trans (walks_of_linAddrs hb)) (memFrame_storeAt b _ rfl rfl rfl (by simp))

end Sys2Proof.Machine
end

section
/-! PROOFS. Writes of the control registers: the load of the PDPTEs, which values are taken, and what goes from the TLB. -/
namespace Sys2Proof.Machine

variable {s s1 t : State}

/-! ## The PDPTEs -/

/-- The address of one of the four PDPTEs of a CR3 value (R161). -/
def pdpteAddr (cr3 : Word) (k : Nat) : Nat := cr3.toNat / 2 ^ 5 * 2 ^ 5 + 8 * k

/-- No PDPTE lies in the local APIC's page (R484). -/
def State.seesPdptes (s : State) (cr3 : Word) : Prop := ∀ k, k < 4 → s.inApic (pdpteAddr cr3 k) = false

/-- A present PDPTE has a reserved bit set (R157). -/
def State.badPdpte (s : State) (cr3 : Word) (k : Nat) : Prop :=
  let e := s.physRead (pdpteAddr cr3 k) 8
  e.testBit 0 = true ∧ (2 ^ 36 ≤ e ∨ e / 2 ^ 5 % 2 ^ 4 ≠ 0 ∨ e / 2 % 2 ^ 2 ≠ 0)

/-- Which loads of the PDPTEs pass: no entry out of sight, none bad (R157, R161). -/
def State.pdptesGood (s : State) (load : Bool) (cr3 : Word) : Prop :=
  load = true → s.seesPdptes cr3 ∧ ∀ k, k < 4 → ¬ s.badPdpte cr3 k

/-- Which loads raise #GP(0): an entry is bad (R157). -/
def State.pdptesBad (s : State) (load : Bool) (cr3 : Word) : Prop :=
  load = true ∧ s.seesPdptes cr3 ∧ ∃ k, k < 4 ∧ s.badPdpte cr3 k

/-- The state after a load of the PDPTEs (R161), if there is one. -/
def State.pdptesLoaded (s : State) (load : Bool) (cr3 : Word) : State :=
  let pdpte (k : Nat) : Quad := BitVec.ofNat 64 (s.physRead (pdpteAddr cr3 k) 8)
  if load then
    { s with sys := { s.sys with pdpte0 := pdpte 0, pdpte1 := pdpte 1, pdpte2 := pdpte 2, pdpte3 := pdpte 3 } }
  else s

theorem pdpteReserved_iff (e : Nat) : pdpteReserved e = true ↔
    e.testBit 0 = true ∧ (2 ^ 36 ≤ e ∨ e / 2 ^ 5 % 2 ^ 4 ≠ 0 ∨ e / 2 % 2 ^ 2 ≠ 0) := by
  unfold pdpteReserved
  simp only [Bool.and_eq_true, Bool.or_eq_true, bne_iff_ne, or_assoc]
  rw [show e / 2 ^ 36 ≠ 0 ↔ 2 ^ 36 ≤ e by omega]
  rfl

/-- The four PDPTEs that can be seen are read, and their reserved bits tested together (R157, R161). -/
theorem run_readPdptes {cr3 : Word} (h : s.seesPdptes cr3) (e : Exc) : readPdptes cr3 e s =
    let p (k : Nat) : Nat := s.physRead (pdpteAddr cr3 k) 8
    if [p 0, p 1, p 2, p 3].any pdpteReserved then .error (.raise e) s
    else .ok [BitVec.ofNat 64 (p 0), BitVec.ofNat 64 (p 1), BitVec.ofNat 64 (p 2), BitVec.ofNat 64 (p 3)] s := by
  have h0 : walkRead (cr3.toNat / 32 * 32) 8 s = .ok (s.physRead (pdpteAddr cr3 0) 8) s := walkRead_ok (h 0 (by decide))
  have h1 : walkRead (cr3.toNat / 32 * 32 + 8) 8 s = .ok (s.physRead (pdpteAddr cr3 1) 8) s :=
    walkRead_ok (h 1 (by decide))
  have h2 : walkRead (cr3.toNat / 32 * 32 + 16) 8 s = .ok (s.physRead (pdpteAddr cr3 2) 8) s :=
    walkRead_ok (h 2 (by decide))
  have h3 : walkRead (cr3.toNat / 32 * 32 + 24) 8 s = .ok (s.physRead (pdpteAddr cr3 3) 8) s :=
    walkRead_ok (h 3 (by decide))
  unfold readPdptes
  dsimp only
  rw [run_bind_ok h0, run_bind_ok h1, run_bind_ok h2, run_bind_ok h3, run_require_bind]
  cases List.any _ pdpteReserved <;> rfl

/-- The test of all four PDPTEs fails exactly if one is bad (R157). -/
theorem any_pdpteReserved_iff (s : State) (cr3 : Word) :
    (let p (k : Nat) : Nat := s.physRead (pdpteAddr cr3 k) 8
    [p 0, p 1, p 2, p 3].any pdpteReserved = true) ↔ ∃ k, k < 4 ∧ s.badPdpte cr3 k := by
  have hbad (k : Nat) : pdpteReserved (s.physRead (pdpteAddr cr3 k) 8) = true ↔ s.badPdpte cr3 k := pdpteReserved_iff _
  simp only [List.any_cons, List.any_nil, Bool.or_false, Bool.or_eq_true, hbad]
  constructor
  · rintro (h | h | h | h)
    exacts [⟨0, by decide, h⟩, ⟨1, by decide, h⟩, ⟨2, by decide, h⟩, ⟨3, by decide, h⟩]
  · rintro ⟨k, hk, h⟩
    obtain rfl | rfl | rfl | rfl : k = 0 ∨ k = 1 ∨ k = 2 ∨ k = 3 := by omega
    exacts [.inl h, .inr (.inl h), .inr (.inr (.inl h)), .inr (.inr (.inr h))]

theorem setPdptes_four (r : SysRegs) (a b c d : Quad) :
    r.setPdptes [a, b, c, d] = { r with pdpte0 := a, pdpte1 := b, pdpte2 := c, pdpte3 := d } := rfl

theorem loadPdptesIf_ok {load : Bool} {cr3 : Word} (h : s.pdptesGood load cr3) :
    loadPdptesIf load cr3 s = .ok () (s.pdptesLoaded load cr3) := by
  unfold loadPdptesIf State.pdptesLoaded
  cases load with
  | false => rfl
  | true =>
    obtain ⟨hseen, hgood⟩ := h rfl
    have hread := run_readPdptes hseen (.gp 0#16)
    dsimp only at hread
    rw [if_neg fun hany => by
      obtain ⟨k, hk, hbad⟩ := (any_pdpteReserved_iff s cr3).mp hany
      exact hgood k hk hbad] at hread
    rw [if_pos rfl, if_pos rfl, run_bind_ok hread, run_modify, setPdptes_four]

theorem loadPdptesIf_raise {load : Bool} {cr3 : Word} (h : s.pdptesBad load cr3) :
    loadPdptesIf load cr3 s = .error (.raise (.gp 0#16)) s := by
  obtain ⟨rfl, hseen, hbad⟩ := h
  have hread := run_readPdptes hseen (.gp 0#16)
  dsimp only at hread
  rw [if_pos ((any_pdpteReserved_iff s cr3).mpr hbad)] at hread
  unfold loadPdptesIf
  rw [if_pos rfl, run_bind_error hread]

@[simp] theorem pdptesLoaded_tlb (s : State) (load : Bool) (cr3 : Word) : (s.pdptesLoaded load cr3).tlb = s.tlb := by
  unfold State.pdptesLoaded
  split <;> rfl
@[simp] theorem pdptesLoaded_cr4 (s : State) (load : Bool) (cr3 : Word) :
    (s.pdptesLoaded load cr3).sys.cr4 = s.sys.cr4 := by
  unfold State.pdptesLoaded
  split <;> rfl

/-! ## What the registers take -/

/-- The combinations that MOV to CR0 refuses: PG without PE, NW without CD (R232). -/
theorem cr0Checks_iff (v : Word) : ((bit v 31 = true → bit v 0 = true) ∧ (bit v 29 = true → bit v 30 = true)) ↔
    (!(bit v 31 && !bit v 0)) = true ∧ (!(bit v 29 && !bit v 30)) = true := by
  cases bit v 31 <;> cases bit v 0 <;> cases bit v 29 <;> simp

theorem cr4Allowed_iff (c : Config.Params) (v : Word) : cr4Allowed c v = true ↔
    v.toNat < 2 ^ 11 ∧ (bit v 2 = true → c.hasTsc = true) ∧ (bit v 4 = true → c.hasPse = true) ∧
      (bit v 5 = true → c.hasPae = true) ∧ (bit v 6 = true → c.hasMce = true) ∧
      (bit v 7 = true → c.hasPge = true) ∧ (bit v 9 = true ∨ bit v 10 = true → c.hasSse = true) := by
  have imp (a b : Bool) : (!a || b) = true ↔ (a = true → b = true) := by cases a <;> simp
  unfold cr4Allowed
  simp only [Bool.and_eq_true, decide_eq_true_eq, imp, Bool.or_eq_true, and_assoc]

/-- An invalidation of the whole TLB on a condition (R183). -/
theorem flushAll_if {c : Bool} {p : Prop} [Decidable p] (h : c = true ↔ p) (t : State) :
    (if c then t.flushAll else t) = { t with tlb := if p then [] else t.tlb } := by
  by_cases hp : p
  · rw [if_pos (h.mpr hp), if_pos hp]
    rfl
  · rw [if_neg fun hc => hp (h.mp hc), if_neg hp]

/-- One of three bits changes (R183). -/
theorem flips_iff (a b c d e f : Bool) : (a != b || c != d || e != f) = true ↔ a ≠ b ∨ c ≠ d ∨ e ≠ f := by
  simp only [Bool.or_eq_true, bne_iff_ne, or_assoc]

/-- CR0 after a MOV: the writable bits, ET set, the others as before (R35, R232). -/
theorem cr0Next_eq (old v : Word) :
    cr0Next old v = (old &&& 0x1FFAFFD0#32) ||| (v &&& 0xE005002F#32) ||| 0x10#32 := rfl

/-! ## MOV to a control register -/

theorem writeCr0_ok {v : Word} (hpg : bit v 31 = true → bit v 0 = true) (hnw : bit v 29 = true → bit v 30 = true)
    (hg : s.pdptesGood (bit v 31 && !s.pg && bit s.sys.cr4 5) s.sys.cr3) :
    let s1 := s.pdptesLoaded (bit v 31 && !s.pg && bit s.sys.cr4 5) s.sys.cr3
    writeCr0 v s = .ok () { s1 with
      sys := { s1.sys with cr0 := (s.sys.cr0 &&& 0x1FFAFFD0#32) ||| (v &&& 0xE005002F#32) ||| 0x10#32 }
      tlb := if bit s.sys.cr0 31 ≠ bit v 31 ∨ bit s.sys.cr0 0 ≠ bit v 0 ∨ bit s.sys.cr0 16 ≠ bit v 16 then []
        else s.tlb } := by
  obtain ⟨hc, hd⟩ := (cr0Checks_iff v).mp ⟨hpg, hnw⟩
  unfold writeCr0
  rw [run_get_bind, hc, run_require_true_bind, hd, run_require_true_bind, run_bind_ok (loadPdptesIf_ok hg), run_modify]
  dsimp only
  rw [flushAll_if (flips_iff ..), cr0Next_eq, pdptesLoaded_tlb]

theorem writeCr0_raise {v : Word} (h : ¬ ((bit v 31 = true → bit v 0 = true) ∧ (bit v 29 = true → bit v 30 = true)) ∨
    s.pdptesBad (bit v 31 && !s.pg && bit s.sys.cr4 5) s.sys.cr3) :
    writeCr0 v s = .error (.raise (.gp 0#16)) s := by
  rw [cr0Checks_iff] at h
  unfold writeCr0
  rw [run_get_bind, run_require_bind]
  split
  · rw [run_require_bind]
    split
    · rename_i hc hd
      exact run_bind_error (loadPdptesIf_raise (h.resolve_left (not_not_intro ⟨hc, hd⟩)))
    · rfl
  · rfl

theorem writeCr3_ok {v : Word} (hg : s.pdptesGood (s.pg && bit s.sys.cr4 5) v) :
    let s1 := s.pdptesLoaded (s.pg && bit s.sys.cr4 5) v
    writeCr3 v s = .ok () { s1 with
      sys := { s1.sys with cr3 := v }
      tlb := s.tlb.filter fun e => e.global && bit s.sys.cr4 7 } := by
  unfold writeCr3
  rw [run_get_bind, run_bind_ok (loadPdptesIf_ok hg), run_modify]
  unfold State.flushLocal
  dsimp only
  rw [pdptesLoaded_tlb, pdptesLoaded_cr4]

theorem writeCr3_raise {v : Word} (h : s.pdptesBad (s.pg && bit s.sys.cr4 5) v) :
    writeCr3 v s = .error (.raise (.gp 0#16)) s := by
  unfold writeCr3
  rw [run_get_bind, run_bind_error (loadPdptesIf_raise h)]

theorem writeCr4_ok {v : Word} (ha : cr4Allowed s.cfg v = true)
    (hg : s.pdptesGood (bit v 5 && !bit s.sys.cr4 5 && s.pg) s.sys.cr3) :
    let s1 := s.pdptesLoaded (bit v 5 && !bit s.sys.cr4 5 && s.pg) s.sys.cr3
    writeCr4 v s = .ok () { s1 with
      sys := { s1.sys with cr4 := v }
      tlb := if bit s.sys.cr4 4 ≠ bit v 4 ∨ bit s.sys.cr4 5 ≠ bit v 5 ∨ bit s.sys.cr4 7 ≠ bit v 7 then []
        else s.tlb } := by
  unfold writeCr4
  rw [run_get_bind, ha, run_require_true_bind, run_bind_ok (loadPdptesIf_ok hg), run_modify]
  dsimp only
  rw [flushAll_if (flips_iff ..), pdptesLoaded_tlb]

theorem writeCr4_raise {v : Word}
    (h : ¬ cr4Allowed s.cfg v = true ∨ s.pdptesBad (bit v 5 && !bit s.sys.cr4 5 && s.pg) s.sys.cr3) :
    writeCr4 v s = .error (.raise (.gp 0#16)) s := by
  unfold writeCr4
  rw [run_get_bind, run_require_bind]
  split
  · rename_i ha
    exact run_bind_error (loadPdptesIf_raise (h.resolve_left (not_not_intro ha)))
  · rfl

/-- At level 0 MOV to a control register does what the write of that register does (R232). -/
theorem exec_movCrn_ok {c : CrN} {r : Reg} (hl : s.lockOk false) (h0 : s.cpl = 0)
    (h : writeCr c (s.gpr.get r) s = .ok () t) : exec (.movCrnR32 c r) s = .next t.done :=
  runInsn_cpl0 (f := fun _ => do writeCr c ((← get).gpr.get r)) hl h0 h

/-- A write that raises an exception has changed nothing. -/
theorem exec_movCrn_raise {c : CrN} {r : Reg} {e : Exc} (hl : s.lockOk false) (h0 : s.cpl = 0)
    (h : writeCr c (s.gpr.get r) s = .error (.raise e) s) : exec (.movCrnR32 c r) s = takeException e s :=
  runInsn_raise hl ((run_bind_ok (run_requireCpl0_ok h0)).trans h)

/-! ## LMSW and CLTS -/

/-- LMSW sets PE or leaves it; the TLB goes where it sets it (R183, R233). -/
theorem lmswWrite_eq (s : State) (w : Word) : lmswWrite s w = { s with
    sys := { s.sys with cr0 := (s.sys.cr0 &&& 0xFFFFFFF1#32) ||| (w &&& 0xF#32) }
    tlb := if s.pe = false ∧ bit w 0 = true then [] else s.tlb } := by
  have hpe : (bit ((s.sys.cr0 &&& ~~~0xE#32) ||| (w &&& 0xF#32)) 0 != s.pe) = true ↔ s.pe = false ∧ bit w 0 = true := by
    have hbit : bit ((s.sys.cr0 &&& ~~~0xE#32) ||| (w &&& 0xF#32)) 0 = (s.pe || bit w 0) := by simp [bit, State.pe]
    rw [hbit]
    cases s.pe <;> simp
  unfold lmswWrite
  dsimp only
  rw [flushAll_if hpe]
  rfl

theorem exec_lmsw_ok {src : RM Reg} {p : Place} (hl : s.lockOk false) (h0 : s.cpl = 0)
    (hp : place .w .read src s = .ok p s1) (hpl : p.plain s1) :
    exec (.lmsw src) s = .next (disarm (lmswWrite s1 (p.value s1))).done :=
  runInsn_cpl0 (f := fun _ => do
    let v ← readRM .w src
    modify fun s => disarm (lmswWrite s v)) hl h0 (run_bind_ok (readRM_ok hp hpl))

/-- CLTS clears TS (R235). -/
theorem exec_clts_ok (hl : s.lockOk false) (h0 : s.cpl = 0) :
    exec .clts s = .next (State.done { s with sys := { s.sys with cr0 := s.sys.cr0 &&& 0xFFFFFFF7#32 } }) :=
  runInsn_cpl0 hl h0 rfl

/-- Settles O37: each register's write by its own lemma; LMSW and CLTS write CR0. -/
theorem writeControlRegister : Obligations.WriteControlRegister := by
  intro r s hl h0 v flip at0 pdpte reserved seen good bad loaded load0 load3 load4 legal0 legal4
  have hlegal4 : cr4Allowed s.cfg v = true ↔ legal4 := cr4Allowed_iff s.cfg v
  refine ⟨fun h => ?_, fun hlegal hg => ?_, ?_, fun h => ?_, fun hg => ?_, fun h => ?_, fun hlegal hg => ?_,
    fun src s1 p hp hpl => ?_, exec_clts_ok hl h0⟩
  · exact exec_movCrn_raise hl h0 (run_bind_error (writeCr0_raise h))
  · obtain ⟨hpg, hnw⟩ := hlegal
    exact exec_movCrn_ok hl h0 (run_bind_ok (writeCr0_ok hpg hnw hg))
  · exact exec_movCrn_ok hl h0 rfl
  · exact exec_movCrn_raise hl h0 (run_bind_error (writeCr3_raise h))
  · exact exec_movCrn_ok hl h0 (run_bind_ok (writeCr3_ok hg))
  · rw [← hlegal4] at h
    exact exec_movCrn_raise hl h0 (run_bind_error (writeCr4_raise h))
  · exact exec_movCrn_ok hl h0 (run_bind_ok (writeCr4_ok (hlegal4.mpr hlegal) hg))
  · have hw := walks_of_place hp
    have hexec := exec_lmsw_ok hl h0 hp hpl
    rw [lmswWrite_eq, hw.pe] at hexec
    exact completes_of hexec hw (memFrame_same rfl rfl)

end Sys2Proof.Machine
end

section
/-! PROOFS. Model-specific registers, the time-stamp counter and CPUID: which registers there are, what a read and a write of each
do, the words of each leaf. -/
namespace Sys2Proof.Machine

variable {s : State}

/-! ## Reading a model-specific register -/

/-- The MSRs that the model knows by name (R45, R487). -/
def namedMsrs : List Word := [0x10#32, 0x1B#32, 0x174#32, 0x175#32, 0x176#32]

theorem fromP6_iff (s : State) : s.fromP6 = true ↔ s.cfg.family = .p6 ∨ s.cfg.family = .p4Xeon := by
  simp only [State.fromP6, Bool.or_eq_true, beq_iff_eq]

theorem readMsr_tsc (s : State) : s.readMsr 0x10#32 = if s.cfg.hasTsc then some s.msr.tsc else none := rfl
theorem readMsr_apicBase (s : State) :
    s.readMsr 0x1B#32 = if s.cfg.hasApic && s.fromP6 then some s.msr.apicBase else none := rfl
theorem readMsr_sysenterCs (s : State) :
    s.readMsr 0x174#32 = if s.cfg.hasSep then some s.msr.sysenterCs else none := rfl
theorem readMsr_sysenterEsp (s : State) :
    s.readMsr 0x175#32 = if s.cfg.hasSep then some s.msr.sysenterEsp else none := rfl
theorem readMsr_sysenterEip (s : State) :
    s.readMsr 0x176#32 = if s.cfg.hasSep then some s.msr.sysenterEip else none := rfl

/-- Any other MSR is one of the implementation's own (D14). -/
theorem readMsr_extra {i : Word} (h : i ∉ namedMsrs) (s : State) : s.readMsr i = s.msr.extra.lookup i := by
  have hne (k : Nat) (hk : BitVec.ofNat 32 k ∈ namedMsrs) : i.toNat ≠ k := fun he =>
    h (by rwa [← he, BitVec.ofNat_toNat, BitVec.setWidth_eq] at hk)
  unfold State.readMsr
  split
  · exact absurd ‹_› (hne 0x10 (by decide))
  · exact absurd ‹_› (hne 0x1B (by decide))
  · exact absurd ‹_› (hne 0x174 (by decide))
  · exact absurd ‹_› (hne 0x175 (by decide))
  · exact absurd ‹_› (hne 0x176 (by decide))
  · rfl

/-- Which MSRs are implemented (R45, R487; log 32). -/
theorem readMsr_isSome_iff (s : State) (i : Word) : (s.readMsr i).isSome = true ↔
    (i = 0x10#32 ∧ s.cfg.hasTsc = true) ∨
    (i = 0x1B#32 ∧ s.cfg.hasApic = true ∧ (s.cfg.family = .p6 ∨ s.cfg.family = .p4Xeon)) ∨
    (i ∈ [0x174#32, 0x175#32, 0x176#32] ∧ s.cfg.hasSep = true) ∨
    (i ∉ namedMsrs ∧ (s.msr.extra.lookup i).isSome = true) := by
  have some_iff (b : Bool) (q : Quad) : (if b then some q else none).isSome = true ↔ b = true := by cases b <;> simp
  by_cases hi : i ∈ namedMsrs
  · have hcases := hi
    simp only [namedMsrs, List.mem_cons, List.not_mem_nil, or_false] at hcases
    obtain rfl | rfl | rfl | rfl | rfl := hcases
    · rw [readMsr_tsc, some_iff]
      simp [namedMsrs]
    · rw [readMsr_apicBase, some_iff, Bool.and_eq_true, fromP6_iff]
      simp [namedMsrs]
    · rw [readMsr_sysenterCs, some_iff]
      simp [namedMsrs]
    · rw [readMsr_sysenterEsp, some_iff]
      simp [namedMsrs]
    · rw [readMsr_sysenterEip, some_iff]
      simp [namedMsrs]
  · rw [readMsr_extra hi]
    have hne := hi
    simp only [namedMsrs, List.mem_cons, List.not_mem_nil, or_false, not_or] at hne
    simp [hi, hne]

/-- A 64-bit value in EDX:EAX (R238). -/
def State.withPair (s : State) (q : Quad) : State :=
  { s with gpr := { s.gpr with edx := q.extractLsb' 32 32, eax := q.extractLsb' 0 32 } }

theorem setEdxEax_eq (s : State) (q : Quad) : s.setEdxEax q = s.withPair q := by
  have hhi : (q >>> 32).setWidth 32 = q.extractLsb' 32 32 := by
    ext i hi
    simp
  have hlo : q.setWidth 32 = q.extractLsb' 0 32 := by
    ext i hi
    simp
  unfold State.setEdxEax State.withPair
  rw [hhi, hlo]

/-- RDMSR reads what is implemented, at level 0 (R238). -/
theorem rdmsrBody_ok {q : Quad} (hm : s.cfg.hasMsr = true) (h0 : s.cpl = 0) (hr : s.readMsr s.gpr.ecx = some q) :
    rdmsrBody s = .ok () (s.withPair q) := by
  unfold rdmsrBody
  rw [run_get_bind, hm, run_require_true_bind, run_bind_ok (run_requireCpl0_ok h0), hr]
  dsimp only
  rw [run_set, setEdxEax_eq]

theorem rdmsrBody_absent (hm : s.cfg.hasMsr = true) (h0 : s.cpl = 0) (hr : s.readMsr s.gpr.ecx = none) :
    rdmsrBody s = .error (.raise (.gp 0#16)) s := by
  unfold rdmsrBody
  rw [run_get_bind, hm, run_require_true_bind, run_bind_ok (run_requireCpl0_ok h0), hr]
  rfl

/-- RDTSC reads the counter where CR4.TSD does not reserve it for level 0 (R240). -/
theorem rdtscBody_ok (ht : s.cfg.hasTsc = true) (h : bit s.sys.cr4 2 = false ∨ s.cpl = 0) :
    rdtscBody s = .ok () (s.withPair s.msr.tsc) := by
  have hc : (!(bit s.sys.cr4 2 && s.cpl != 0)) = true := by
    rcases h with h | h <;> simp [h]
  unfold rdtscBody
  rw [run_get_bind, ht, run_require_true_bind, hc, run_require_true_bind, run_set, setEdxEax_eq]

/-! ## Writing a model-specific register -/

/-- The MSRs after a write to one other than IA32_APIC_BASE (R239): on the P6 family the time-stamp counter's upper half is
cleared. -/
def State.msrWritten (s : State) (i : Word) (v : Quad) : Msrs :=
  if i = 0x10#32 then { s.msr with tsc := if s.cfg.family = .p6 then v &&& 0xFFFFFFFF#64 else v }
  else if i = 0x174#32 then { s.msr with sysenterCs := v }
  else if i = 0x175#32 then { s.msr with sysenterEsp := v }
  else if i = 0x176#32 then { s.msr with sysenterEip := v }
  else { s.msr with extra := s.msr.extra.map fun x => if x.1 == i then (i, v) else x }

theorem wrmsrBody_absent (hm : s.cfg.hasMsr = true) (h0 : s.cpl = 0) (hr : s.readMsr s.gpr.ecx = none) :
    wrmsrBody s = .error (.raise (.gp 0#16)) s := by
  unfold wrmsrBody
  rw [run_get_bind, hm, run_require_true_bind, run_bind_ok (run_requireCpl0_ok h0), hr]
  rfl

theorem wrmsrBody_apicBase {q : Quad} (hm : s.cfg.hasMsr = true) (h0 : s.cpl = 0) (hi : s.gpr.ecx = 0x1B#32)
    (hr : s.readMsr s.gpr.ecx = some q) : wrmsrBody s = writeApicBase s.edxEax s := by
  unfold wrmsrBody
  rw [run_get_bind, hm, run_require_true_bind, run_bind_ok (run_requireCpl0_ok h0), hr, hi]
  rfl

/-- WRMSR to another MSR that is implemented, at level 0, stores the value (R239). -/
theorem wrmsrBody_ok {q : Quad} (hm : s.cfg.hasMsr = true) (h0 : s.cpl = 0) (hi : s.gpr.ecx ≠ 0x1B#32)
    (hr : s.readMsr s.gpr.ecx = some q) :
    wrmsrBody s = .ok () { s with msr := s.msrWritten s.gpr.ecx (s.gpr.edx ++ s.gpr.eax) } := by
  have eq_of (k : Nat) (h : s.gpr.ecx.toNat = k) : s.gpr.ecx = BitVec.ofNat 32 k := by
    rw [← h, BitVec.ofNat_toNat, BitVec.setWidth_eq]
  unfold wrmsrBody
  rw [run_get_bind, hm, run_require_true_bind, run_bind_ok (run_requireCpl0_ok h0), hr]
  dsimp only
  rw [if_neg (by simp)]
  refine (congrFun (?_ : _ = (set { s with msr := s.msrWritten s.gpr.ecx (s.gpr.edx ++ s.gpr.eax) } : M Unit)) s).trans
    (run_set _ s)
  split
  case h_1 h => simp [State.msrWritten, eq_of _ h, State.edxEax]
  case h_2 h => exact absurd (eq_of _ h) hi
  case h_3 h => simp [State.msrWritten, eq_of _ h, State.edxEax]
  case h_4 h => simp [State.msrWritten, eq_of _ h, State.edxEax]
  case h_5 h => simp [State.msrWritten, eq_of _ h, State.edxEax]
  case h_6 h10 _ h174 h175 h176 =>
    have ne (k : Word) (h : s.gpr.ecx.toNat ≠ k.toNat) : s.gpr.ecx ≠ k := fun he => h (congrArg BitVec.toNat he)
    rw [State.msrWritten, if_neg (ne 0x10#32 h10), if_neg (ne 0x174#32 h174), if_neg (ne 0x175#32 h175),
      if_neg (ne 0x176#32 h176)]
    rfl

/-- A reserved bit of IA32_APIC_BASE (R487). -/
theorem writeApicBase_reserved {v : Quad} (h : v &&& 0xFFFFFFF0000006FF#64 ≠ 0#64) :
    writeApicBase v s = .error (.raise (.gp 0#16)) s := by
  unfold writeApicBase apicBaseReserved
  rw [run_get_bind, beq_eq_false_iff_ne.mpr h]
  rfl

/-- A write to IA32_APIC_BASE keeps the BSP flag (R487). -/
theorem writeApicBase_ok {v : Quad} (h : v &&& 0xFFFFFFF0000006FF#64 = 0#64)
    (hen : v.getLsbD 11 = true → s.apic.disabled = false) : writeApicBase v s = .ok () { s with
      msr := { s.msr with apicBase := (v &&& 0xFFFFFFFFFFFFFEFF#64) ||| (s.msr.apicBase &&& 0x100#64) }
      apic := { s.apic with disabled := s.apic.disabled || !v.getLsbD 11 } } := by
  have hno : (v.getLsbD 11 && s.apic.disabled) = false := by
    cases hv : v.getLsbD 11 with
    | false => rfl
    | true => simp [hen hv]
  unfold writeApicBase apicBaseReserved
  rw [run_get_bind, beq_iff_eq.mpr h, run_require_true_bind, hno]
  rfl

/-! ## CPUID -/

/-- Leaf 0: the highest leaf and the vendor's name (R243). An input above the highest leaf answers as that leaf. -/
theorem cpuidResult_leaf0 {w : Word} (h : min s.cfg.maxLeaf w.toNat = 0) : cpuidResult s w =
    (BitVec.ofNat 32 s.cfg.maxLeaf, 0x756E6547#32, 0x6C65746E#32, 0x49656E69#32) := by
  unfold cpuidResult
  rw [← min_def_lt, h]
  rfl

theorem cpuidResult_leaf1 {w : Word} (h : min s.cfg.maxLeaf w.toNat = 1) : cpuidResult s w =
    (s.cfg.signature,
      (s.cfg.initialApicId.setWidth 32 <<< 24) ||| BitVec.ofNat 32 (s.cfg.nLogical % 256 * 65536) |||
        (Config.cpuidFeatures.1 &&& 0xFFFF#32),
      featuresEcx s, featuresEdx s) := by
  unfold cpuidResult
  rw [← min_def_lt, h]
  rfl

theorem cpuidResult_leaf5 {w : Word} (h : min s.cfg.maxLeaf w.toNat = 5) : cpuidResult s w =
    (BitVec.ofNat 32 s.cfg.monitorLineMin, BitVec.ofNat 32 s.cfg.monitorLineMax, 0#32, 0#32) := by
  unfold cpuidResult
  rw [← min_def_lt, h]
  rfl

/-- The leaves that the spec gives no value for (D13; log 13). -/
theorem cpuidResult_other {w : Word} (h : min s.cfg.maxLeaf w.toNat ∉ [0, 1, 5]) :
    cpuidResult s w = Config.cpuidLeaf (BitVec.ofNat 32 (min s.cfg.maxLeaf w.toNat)) := by
  unfold cpuidResult
  rw [← min_def_lt]
  dsimp only
  generalize min s.cfg.maxLeaf w.toNat = n at h
  split
  · exact absurd (by decide) h
  · exact absurd (by decide) h
  · exact absurd (by decide) h
  · rfl

/-- EBX of leaf 1 holds the initial APIC ID and the number of logical processors above the low half (R243). -/
theorem leaf1_ebx_fields (a : Byte) (n : Nat) (x : Word) :
    let w : Word := (a.setWidth 32 <<< 24) ||| BitVec.ofNat 32 (n % 256 * 65536) ||| (x &&& 0xFFFF#32)
    w.extractLsb' 24 8 = a ∧ w.extractLsb' 16 8 = BitVec.ofNat 8 n := by
  have ha24 : (a.setWidth 32 <<< 24).extractLsb' 24 8 = a := by
    refine BitVec.eq_of_getLsbD_eq fun i hi => ?_
    simp [hi, show 24 + i < 32 by omega]
  have ha16 : (a.setWidth 32 <<< 24).extractLsb' 16 8 = 0#8 := by
    ext i hi
    simp [show 16 + i < 24 by omega]
  have hn24 : (BitVec.ofNat 32 (n % 256 * 65536)).extractLsb' 24 8 = 0#8 := by
    refine BitVec.eq_of_toNat_eq ?_
    rw [BitVec.extractLsb'_toNat, BitVec.toNat_ofNat, BitVec.toNat_ofNat, Nat.shiftRight_eq_div_pow]
    omega
  have hn16 : (BitVec.ofNat 32 (n % 256 * 65536)).extractLsb' 16 8 = BitVec.ofNat 8 n := by
    refine BitVec.eq_of_toNat_eq ?_
    rw [BitVec.extractLsb'_toNat, BitVec.toNat_ofNat, BitVec.toNat_ofNat, Nat.shiftRight_eq_div_pow]
    omega
  have hx (k : Nat) (hk : (0xFFFF#32).extractLsb' k 8 = 0#8) : (x &&& 0xFFFF#32).extractLsb' k 8 = 0#8 := by
    rw [BitVec.extractLsb'_and, hk, BitVec.and_zero]
  refine ⟨?_, ?_⟩
  · rw [BitVec.extractLsb'_or, BitVec.extractLsb'_or, ha24, hn24, hx 24 rfl, BitVec.or_zero, BitVec.or_zero]
  · rw [BitVec.extractLsb'_or, BitVec.extractLsb'_or, ha16, hn16, hx 16 rfl, BitVec.zero_or, BitVec.or_zero]

/-- The feature bits of ECX in leaf 1 (R243). -/
theorem featuresEcx_bits (s : State) :
    bit (featuresEcx s) 0 = s.cfg.hasSse3 ∧ bit (featuresEcx s) 3 = s.cfg.hasMonitor := by
  unfold featuresEcx setBit bit
  constructor
  · cases s.cfg.hasSse3 <;> cases s.cfg.hasMonitor <;> simp
  · cases s.cfg.hasMonitor <;> simp

/-- A flag of a feature word is at its own bit. -/
theorem feature_getLsbD (b : Bool) (w : Word) (i : Nat) : (if b = true then w else 0#32).getLsbD i = (b && w.getLsbD i) := by
  cases b <;> simp

/-- The feature bits of EDX in leaf 1 (R243, R488; logs 13, 14). -/
theorem featuresEdx_bits (s : State) :
    let edx := featuresEdx s
    bit edx 3 = s.cfg.hasPse ∧ bit edx 4 = s.cfg.hasTsc ∧ bit edx 5 = s.cfg.hasMsr ∧ bit edx 6 = s.cfg.hasPae ∧
    bit edx 7 = s.cfg.hasMce ∧ bit edx 8 = decide (s.cfg.family ≠ .i386 ∧ s.cfg.family ≠ .i486) ∧
    bit edx 9 = (s.cfg.hasApic && s.msr.apicBase.getLsbD 11) ∧ bit edx 11 = s.cfg.hasSep ∧
    bit edx 13 = s.cfg.hasPge ∧ bit edx 16 = s.cfg.hasPat ∧ bit edx 17 = s.cfg.hasPse36 ∧
    bit edx 19 = decide (s.cfg.family = .p4Xeon) ∧ bit edx 23 = s.cfg.hasMmx ∧ bit edx 25 = s.cfg.hasSse ∧
    bit edx 26 = s.cfg.hasSse2 ∧ bit edx 28 = s.cfg.hasHtt := by
  have hcx8 : (s.cfg.family != .i386 && s.cfg.family != .i486) =
      decide (s.cfg.family ≠ .i386 ∧ s.cfg.family ≠ .i486) := by cases s.cfg.family <;> rfl
  have hapic : (s.cfg.hasApic && s.msr.apicBase.getLsbD 11) = s.apicOn := rfl
  have hclfsh : (s.cfg.family == .p4Xeon) = decide (s.cfg.family = .p4Xeon) := by cases s.cfg.family <;> rfl
  intro edx
  rw [hapic]
  simp only [edx, featuresEdx, bit, BitVec.getLsbD_or, BitVec.getLsbD_and, feature_getLsbD, hcx8, hclfsh]
  refine ⟨?_, ?_, ?_, ?_, ?_, ?_, ?_, ?_, ?_, ?_, ?_, ?_, ?_, ?_, ?_, ?_⟩
  all_goals simp

/-! ## The instructions -/

/-- RDMSR and WRMSR on an MSR that is implemented, other than IA32_APIC_BASE (R238, R239). -/
theorem exec_msr_ok {i : Word} {q : Quad} {ms : Msrs} (hl : s.lockOk false) (hm : s.cfg.hasMsr = true) (h0 : s.cpl = 0)
    (hi : s.gpr.ecx = i) (hne : i ≠ 0x1B#32) (hr : s.readMsr i = some q)
    (hw : s.msrWritten i (s.gpr.edx ++ s.gpr.eax) = ms) :
    exec .rdmsr s = .next (s.withPair q).done ∧ exec .wrmsr s = .next (State.done { s with msr := ms }) := by
  subst hi hw
  exact ⟨runInsn_done hl (rdmsrBody_ok hm h0 hr), runInsn_done hl (wrmsrBody_ok hm h0 hne hr)⟩

/-- Settles O40: each MSR by the lemmas on reading and writing it, each leaf of CPUID by its words. -/
theorem msrAccess : Obligations.MsrAccess := by
  intro s hl pair v i
  refine ⟨fun ht h => runInsn_done hl (rdtscBody_ok ht h),
    fun ht htsd h => runInsn_raise hl (run_rdtscBody_raise ht htsd h), ?_, ?_⟩
  · intro hm h0 fromP6 named present
    refine ⟨fun habs => ?_, fun hi ht => ?_, fun hi ha hf => ?_, fun hsep => ?_, fun q hi hq => ?_⟩
    · have hnone : s.readMsr i = none :=
        Option.not_isSome_iff_eq_none.mp fun h => habs ((readMsr_isSome_iff s i).mp h)
      exact ⟨runInsn_raise hl (rdmsrBody_absent hm h0 hnone), runInsn_raise hl (wrmsrBody_absent hm h0 hnone)⟩
    · exact exec_msr_ok hl hm h0 hi (by decide) (by rw [readMsr_tsc, if_pos ht]) rfl
    · have hr : s.readMsr s.gpr.ecx = some s.msr.apicBase := by
        rw [show s.gpr.ecx = 0x1B#32 from hi, readMsr_apicBase, ha, (fromP6_iff s).mpr hf]
        rfl
      have hbody := wrmsrBody_apicBase hm h0 hi hr
      exact ⟨runInsn_done hl (rdmsrBody_ok hm h0 hr),
        fun hres => runInsn_raise hl (hbody.trans (writeApicBase_reserved hres)),
        fun hres hen => runInsn_done hl (hbody.trans (writeApicBase_ok hres hen))⟩
    · exact ⟨fun hi => exec_msr_ok hl hm h0 hi (by decide) (by rw [readMsr_sysenterCs, if_pos hsep]) rfl,
        fun hi => exec_msr_ok hl hm h0 hi (by decide) (by rw [readMsr_sysenterEsp, if_pos hsep]) rfl,
        fun hi => exec_msr_ok hl hm h0 hi (by decide) (by rw [readMsr_sysenterEip, if_pos hsep]) rfl⟩
    · have hne := hi
      simp only [named, List.mem_cons, List.not_mem_nil, or_false, not_or] at hne
      obtain ⟨h10, h1B, h174, h175, h176⟩ := hne
      refine exec_msr_ok hl hm h0 rfl h1B ((readMsr_extra hi s).trans hq) ?_
      rw [State.msrWritten, if_neg h10, if_neg h174, if_neg h175, if_neg h176]
  · refine ⟨(cpuidResult s s.gpr.eax).1, (cpuidResult s s.gpr.eax).2.1, (cpuidResult s s.gpr.eax).2.2.1,
      (cpuidResult s s.gpr.eax).2.2.2, runInsn_done hl rfl, fun h => ?_, fun h => ?_, fun h => ?_, fun h => ?_⟩
    · rw [cpuidResult_leaf0 h]
      exact ⟨rfl, rfl, rfl, rfl⟩
    · rw [cpuidResult_leaf1 h]
      obtain ⟨hid, hn⟩ := leaf1_ebx_fields s.cfg.initialApicId s.cfg.nLogical Config.cpuidFeatures.1
      obtain ⟨hsse3, hmonitor⟩ := featuresEcx_bits s
      exact ⟨rfl, hid, hn, hsse3, hmonitor, featuresEdx_bits s⟩
    · rw [cpuidResult_leaf5 h]
      exact ⟨rfl, rfl, rfl, rfl⟩
    · exact cpuidResult_other h

end Sys2Proof.Machine
end

section
/-! PROOFS. The queries of a descriptor by LAR, LSL, VERR and VERW: a query sees a descriptor or not, and accepts it or not. One
lemma says so for the four instructions. -/
namespace Sys2Proof.Machine

variable {s s1 s2 t : State} {src : RM Reg} {p : Place} {d : Desc} {sel : Half}

/-- ZF replaced, the other flags kept (R260). -/
theorem run_setZf (b : Bool) (s : State) : setZf b s = .ok () (s.withFlags { s.eflags with zf := b }) := rfl

/-- An instruction on an r/m operand of 16 bits, in protected mode, answers what its body makes of the selector (R260). -/
theorem runInsn_protSel {f : Half → M Unit} (hl : s.lockOk false) (hprot : s.prot = true)
    (hp : place .w .read src s = .ok p s1) (hpl : p.plain s1) (h : f ((p.value s1).setWidth 16) s1 = .ok () t) :
    runInsn false (do requireProt; f ((← readRM .w src).setWidth 16)) s = .next t.done :=
  runInsn_done hl ((run_bind_ok (run_requireProt_ok hprot)).trans ((run_bind_ok (readRM_ok hp hpl)).trans h))

/-! ## What a query accepts -/

theorem privilegedOk_iff (cpl : Nat) (sel : Half) (d : Desc) :
    privilegedOk cpl sel d = true ↔ d.conforming = true ∨ cpl ≤ d.dpl ∧ rpl sel ≤ d.dpl := by
  simp only [privilegedOk, Bool.or_eq_true, Bool.and_eq_true, decide_eq_true_eq]

theorem larType_iff (d : Desc) : larType d = true ↔ d.s = true ∨ d.typ ∈ [1, 2, 3, 4, 5, 9, 11, 12] := by
  simp only [larType, Bool.or_eq_true, List.contains_iff_mem]

theorem lslType_iff (d : Desc) : lslType d = true ↔ d.s = true ∨ d.typ ∈ [1, 2, 3, 9, 11] := by
  simp only [lslType, Bool.or_eq_true, List.contains_iff_mem]

/-- Only code and data segments can be read (R135). -/
theorem Desc.s_of_isReadable (h : d.isReadable = true) : d.s = true := by
  simp only [Desc.isReadable, Desc.isData, Desc.isCode, Bool.or_eq_true, Bool.and_eq_true] at h
  exact h.elim And.left fun h => h.left.left

/-- Only data segments can be written (R135). -/
theorem Desc.s_of_isWritable (h : d.isWritable = true) : d.s = true := by
  simp only [Desc.isWritable, Desc.isData, Bool.and_eq_true] at h
  exact h.left.left

/-- The operand size is 16 or 32 bits (R202). -/
theorem osz_eq_w_or_d (s : State) : s.osz = .w ∨ s.osz = .d := by
  unfold State.osz
  split
  · exact .inl rfl
  · exact .inr rfl

/-! ## The four queries -/

/-- The instructions that ask about the descriptor a selector names (R262 to R264). -/
inductive DescQuery where
  | lar (r : Reg)
  | lsl (r : Reg)
  | verr
  | verw

/-- The descriptor of a null selector, or of one beyond its table, is not visible (R261). -/
theorem visible_none (h : isNull sel = true ∨ s.descAddr sel = none) : visible sel s = .ok none s := by
  unfold visible
  by_cases hn : isNull sel = true
  · rw [if_pos hn]
    rfl
  · rw [if_neg hn, run_get_bind, h.resolve_left hn]
    rfl

namespace DescQuery

def instr : DescQuery → RM Reg → Instr
  | lar r, src => .lar r src
  | lsl r, src => .lsl r src
  | verr, src => .verr src
  | verw, src => .verw src

def body : DescQuery → Half → M Unit
  | lar r => larBody r
  | lsl r => lslBody r
  | verr => verifyBody false
  | verw => verifyBody true

/-- The descriptor types a query accepts. -/
def accepts : DescQuery → Desc → Bool
  | lar _ => larType
  | lsl _ => lslType
  | verr => Desc.isReadable
  | verw => Desc.isWritable

/-- The state after a query loads what it reports of a descriptor it accepts: LAR with a 32-bit operand size uses a free value
(R262; log 10), VERR and VERW load nothing. -/
def loaded : DescQuery → Desc → State → State
  | lar r, d, s =>
    if s.osz = .w then s.setReg .w r (d.hi &&& 0xFF00#32)
    else (s.used 1).setReg .d r ((d.hi &&& 0x00F0FF00#32) ||| (Config.freeWord s.free &&& 0x000F0000#32))
  | lsl r, d, s => s.setReg s.osz r (BitVec.ofNat 32 d.limit)
  | verr, _, s => s
  | verw, _, s => s

theorem loaded_lar_w {r : Reg} (hz : s.osz = .w) : (lar r).loaded d s = s.setReg .w r (d.hi &&& 0xFF00#32) := if_pos hz

theorem loaded_lar_d {r : Reg} (hz : s.osz = .d) : (lar r).loaded d s =
    (s.used 1).setReg .d r ((d.hi &&& 0x00F0FF00#32) ||| (Config.freeWord s.free &&& 0x000F0000#32)) :=
  if_neg (by rw [hz]; decide)

/-- A load changes a register and the count of free values. -/
theorem loaded_same (q : DescQuery) (d : Desc) (s : State) :
    (q.loaded d s).mem = s.mem ∧ (q.loaded d s).cfg = s.cfg ∧ (q.loaded d s).eflags = s.eflags := by
  cases q with
  | lar r =>
    rcases osz_eq_w_or_d s with hz | hz
    · rw [loaded_lar_w hz]
      exact ⟨rfl, rfl, rfl⟩
    · rw [loaded_lar_d hz]
      exact ⟨rfl, rfl, rfl⟩
  | lsl r | verr | verw => exact ⟨rfl, rfl, rfl⟩

/-- The state after a query of a visible descriptor that it accepts or not: ZF tells which (R262 to R264). -/
def answered (q : DescQuery) (d : Desc) (accepted : Bool) (s : State) : State :=
  (if accepted then q.loaded d s else s).withFlags { s.eflags with zf := accepted }

theorem answered_frame (q : DescQuery) (d : Desc) (b : Bool) (s : State) : MemFrame s (q.answered d b s).done [] := by
  obtain ⟨hm, hc, -⟩ := q.loaded_same d s
  cases b with
  | true => exact memFrame_same hm hc
  | false => exact memFrame_same rfl rfl

theorem exec_instr (q : DescQuery) (src : RM Reg) (s : State) : exec (q.instr src) s =
    runInsn false (do requireProt; q.body ((← readRM .w src).setWidth 16)) s := by
  cases q <;> rfl

/-- A query of a descriptor that cannot be seen clears ZF (R261). -/
theorem body_invisible (q : DescQuery) (h : visible sel s = .ok none s) : q.body sel s = setZf false s := by
  cases q with
  | lar r | lsl r | verr | verw => exact (run_get_bind _ s).trans (run_bind_ok h)

/-- LAR and LSL set ZF after a load, or clear it. -/
theorem run_load_or_clear (q : DescQuery) {x : M Unit} (b : Bool) (h : x s = .ok () (q.loaded d s)) :
    (if b = true then (do x; setZf true) else setZf false : M Unit) s = .ok () (q.answered d b s) := by
  cases b with
  | true =>
    obtain ⟨-, -, hf⟩ := q.loaded_same d s
    refine (run_bind_ok h).trans ((run_setZf true _).trans ?_)
    rw [hf]
    rfl
  | false => rfl

/-- VERR and VERW load nothing, and accept code and data segments only (R263). -/
theorem run_verify (q : DescQuery) (hload : q.loaded d s = s) (hseg : q.accepts d = true → d.s = true) (b : Bool) :
    setZf (d.s && b && q.accepts d) s = .ok () (q.answered d (q.accepts d && b) s) := by
  have hc : (d.s && b && q.accepts d) = (q.accepts d && b) := by
    cases ha : q.accepts d with
    | false => rw [Bool.and_false, Bool.false_and]
    | true => rw [hseg ha, Bool.and_true]
  rw [hc, run_setZf, answered, hload, ite_self]

/-- A query of a descriptor that can be seen answers whether the descriptor is of a type it accepts and passes the privilege
check (R262 to R264). -/
theorem body_visible (q : DescQuery) (h : visible sel s = .ok (some d) s1) (hw : SameButWalk s s1) :
    q.body sel s = .ok () (q.answered d (q.accepts d && privilegedOk s.cpl sel d) s1) := by
  have run (f : State → Option Desc → M Unit) : (do let s ← get; f s (← visible sel) : M Unit) s = f s (some d) s1 :=
    (run_get_bind _ s).trans (run_bind_ok h)
  cases q with
  | lar r =>
    refine (run _).trans ?_
    rcases osz_eq_w_or_d s1 with hz | hz
    · rw [← hw.osz, hz]
      refine run_load_or_clear (lar r) (x := modify fun s => s.setReg s.osz r (larResult s.osz d 0#32)) _ ?_
      rw [run_modify, hz, loaded_lar_w hz]
      rfl
    · rw [← hw.osz, hz]
      refine run_load_or_clear (lar r) (x := do
        let f ← fresh
        modify fun s => s.setReg s.osz r (larResult s.osz d (Config.freeWord f))) _ ?_
      rw [run_fresh_bind, run_modify, loaded_lar_d hz]
      show EStateM.Result.ok () ((s1.used 1).setReg s1.osz r (larResult s1.osz d (Config.freeWord s1.free))) = _
      rw [hz]
      rfl
  | lsl r => exact (run _).trans (run_load_or_clear (lsl r) _ rfl)
  | verr => exact (run _).trans (run_verify verr rfl Desc.s_of_isReadable _)
  | verw => exact (run _).trans (run_verify verw rfl Desc.s_of_isWritable _)

/-! ## Queries complete -/

section
variable (hl : s.lockOk false) (hprot : s.prot = true) (hp : place .w .read src s = .ok p s1) (hpl : p.plain s1)
include hl hprot hp hpl

/-- A query completes if its body ends and leaves memory as reading the descriptor does. -/
theorem completes (q : DescQuery) (hw : SameButWalk s1 s2) (hb : q.body ((p.value s1).setWidth 16) s1 = .ok () t)
    (hm : MemFrame s2 t.done []) : Completes (q.instr src) s s2 t.done [] :=
  completes_of ((q.exec_instr src s).trans (runInsn_protSel hl hprot hp hpl hb))
    ((walks_of_place hp).trans hw) hm

/-- A query of a descriptor that cannot be seen clears ZF (R261). -/
theorem completes_invisible (q : DescQuery)
    (h : isNull ((p.value s1).setWidth 16) = true ∨ s.descAddr ((p.value s1).setWidth 16) = none) :
    Completes (q.instr src) s s1 (s1.withFlags { s.eflags with zf := false }).done [] := by
  have hw := walks_of_place hp
  have hinv : visible ((p.value s1).setWidth 16) s1 = .ok none s1 :=
    visible_none (h.imp_right fun h => by unfold State.descAddr at h ⊢; rwa [hw.sys])
  refine q.completes hl hprot hp hpl (.refl s1) ?_ (memFrame_same rfl rfl)
  rw [q.body_invisible hinv, run_setZf, hw.eflags]

/-- A query of a descriptor that can be seen answers whether it accepts the descriptor (R262 to R264). -/
theorem completes_visible (q : DescQuery) {b : Bool} (hn : isNull ((p.value s1).setWidth 16) = false)
    (hd : DescAt s1 ((p.value s1).setWidth 16) d s2)
    (hb : (q.accepts d && privilegedOk s.cpl ((p.value s1).setWidth 16) d) = b) :
    Completes (q.instr src) s s2
      ((if b then q.loaded d s2 else s2).withFlags { s.eflags with zf := b }).done [] := by
  have hw := walks_of_place hp
  have hbody := q.body_visible (visible_ok hn hd) hd.walks
  rw [hw.cpl, hb] at hbody
  have hc := q.completes hl hprot hp hpl hd.walks hbody (q.answered_frame d b s2)
  rwa [answered, hd.walks.eflags, hw.eflags] at hc

end

end DescQuery

/-- Settles O41: the four queries see, accept and load by one rule; each names its types and its result. -/
theorem descriptorQueriesComplete : Obligations.DescriptorQueriesComplete := by
  intro r src s s1 p hl hprot hp hpl sel zf
  refine ⟨fun h => ?_, ?_⟩
  · have hall (q : DescQuery) : Completes (q.instr src) s s1 (zf s1 false) [] := q.completes_invisible hl hprot hp hpl h
    simpa only [List.forall_mem_cons, List.not_mem_nil, false_implies, implies_true, and_true] using
      ⟨hall (.lar r), hall (.lsl r), hall .verr, hall .verw⟩
  intro d s2 hn hd priv lar lsl
  have hosz : s2.osz = s.osz := hd.walks.osz.trans (walks_of_place hp).osz
  have hans (q : DescQuery) {b : Bool} (hb : (q.accepts d && privilegedOk s.cpl sel d) = b) :
      Completes (q.instr src) s s2 (zf (if b then q.loaded d s2 else s2) b) [] :=
    q.completes_visible hl hprot hp hpl hn hd hb
  have hpriv : privilegedOk s.cpl sel d = true ↔ priv := privilegedOk_iff s.cpl sel d
  have hlar : (larType d && privilegedOk s.cpl sel d) = true ↔ lar := by
    rw [Bool.and_eq_true, larType_iff, hpriv]
  have hlsl : (lslType d && privilegedOk s.cpl sel d) = true ↔ lsl := by
    rw [Bool.and_eq_true, lslType_iff, hpriv]
  have hverify (q : DescQuery) (h : q.loaded d s2 = s2) :
      Completes (q.instr src) s s2 (zf s2 (decide (q.accepts d = true ∧ priv))) [] := by
    have hb : (q.accepts d && privilegedOk s.cpl sel d) = decide (q.accepts d = true ∧ priv) :=
      Bool.eq_iff_iff.mpr (by rw [Bool.and_eq_true, hpriv, decide_eq_true_iff])
    have hc := hans q hb
    rwa [h, ite_self] at hc
  refine ⟨fun h hz => ?_, fun h hz => ?_, fun h => ?_, fun h => ?_, fun h => ?_, ?_, ?_⟩
  · exact DescQuery.loaded_lar_w (hosz.trans hz) ▸ hans (.lar r) (hlar.mpr h)
  · exact DescQuery.loaded_lar_d (hosz.trans hz) ▸ hans (.lar r) (hlar.mpr h)
  · exact hans (.lar r) (Bool.eq_false_iff.mpr (mt hlar.mp h))
  · exact hosz ▸ hans (.lsl r) (hlsl.mpr h)
  · exact hans (.lsl r) (Bool.eq_false_iff.mpr (mt hlsl.mp h))
  · exact hverify .verr rfl
  · exact hverify .verw rfl

end Sys2Proof.Machine
end

section
/-! PROOFS. ARPL: the operand is 16 bits wide wherever it is, and only its two low bits can change. -/
namespace Sys2Proof.Machine

variable {s s1 : State} {p : Place}

/-! ## The width of an operand -/

/-- A computation that ends normally did so in its first part. -/
theorem ok_of_bind_ok {α β : Type} {x : M α} {f : α → M β} {s t : State} {b : β} (h : (x >>= f) s = .ok b t) :
    ∃ a u, x s = .ok a u ∧ f a u = .ok b t := by
  rw [run_bind] at h
  split at h
  · exact ⟨_, _, ‹_›, h⟩
  · cases h

/-- As many physical addresses as bytes, on one page or on two (R165). -/
theorem linAddrs_length {lin : Word} {n : Nat} {k : Access} {u : Bool} {s t : State} {pas : List Nat}
    (h : linAddrs lin n k u s = .ok pas t) : pas.length = n := by
  unfold linAddrs at h
  obtain ⟨p, v, -, h⟩ := ok_of_bind_ok h
  split at h
  · rw [← (EStateM.Result.ok.inj h).1, addrsFrom_length]
  · obtain ⟨p2, w, -, h⟩ := ok_of_bind_ok h
    rw [← (EStateM.Result.ok.inj h).1, List.length_append, addrsFrom_length, addrsFrom_length]
    omega

theorem memAddrs_length {m : Mem} {n align : Nat} {k : Access} {s t : State} {pas : List Nat}
    (h : memAddrs m n align k s = .ok pas t) : pas.length = n := by
  unfold memAddrs dataAddrs at h
  rw [run_get_bind] at h
  obtain ⟨lin, v, -, h⟩ := ok_of_bind_ok h
  rw [run_get_bind] at h
  obtain ⟨pas', w, hlin, h⟩ := ok_of_bind_ok h
  obtain ⟨-, x, -, h⟩ := ok_of_bind_ok h
  rw [← (EStateM.Result.ok.inj h).1, linAddrs_length hlin]

/-- The value of a 16-bit operand fits 16 bits, in a register and in memory (R601). -/
theorem place_w_value_lt {k : Access} {o : RM Reg} {t : State} (h : place .w k o s = .ok p s1) :
    (p.value t).toNat < 2 ^ 16 := by
  cases o with
  | reg r =>
    obtain ⟨rfl, rfl⟩ := EStateM.Result.ok.inj h
    rw [Place.value, Gprs.read, Sz.trunc, BitVec.toNat_ofNat]
    exact (Nat.mod_le _ _).trans_lt (Nat.mod_lt _ (by decide))
  | mem m =>
    obtain ⟨pas, u, hm, h⟩ := ok_of_bind_ok h
    obtain ⟨rfl, rfl⟩ := EStateM.Result.ok.inj h
    have hlt := leNat_lt (pas.map t.physByte)
    rw [List.length_map, memAddrs_length hm] at hlt
    rw [Place.value, State.valueAt, BitVec.toNat_ofNat]
    exact (Nat.mod_le _ _).trans_lt hlt

/-! ## The RPL -/

/-- A 16-bit selector with the RPL of another (R265). -/
theorem ofNat_replaceRpl {d : Word} (hd : d.toNat < 2 ^ 16) (q : Word) :
    BitVec.ofNat 32 (d.toNat / 4 * 4 + q.toNat % 4) = (d &&& 0xFFFC#32) ||| (q &&& 3#32) := by
  have hsel : ∀ i, i < 32 → (0xFFFC#32).getLsbD i = decide (2 ≤ i ∧ i < 16) := by decide
  have hrpl : ∀ i, i < 32 → (3#32).getLsbD i = decide (i < 2) := by decide
  refine BitVec.eq_of_getLsbD_eq fun i hi => ?_
  have hbit : (2 ^ 2 * (d.toNat / 2 ^ 2) + q.toNat % 2 ^ 2).testBit i =
      if i < 2 then q.getLsbD i else d.getLsbD i := by
    rw [Nat.testBit_two_pow_mul_add _ (Nat.mod_lt _ (by decide)), Nat.testBit_mod_two_pow, Nat.testBit_div_two_pow]
    split
    · rw [decide_eq_true ‹_›, Bool.true_and, BitVec.testBit_toNat]
    · rw [Nat.sub_add_cancel (Nat.not_lt.mp ‹_›), BitVec.testBit_toNat]
  have hhigh (h : 16 ≤ i) : d.getLsbD i = false :=
    Nat.testBit_lt_two_pow (hd.trans_le (Nat.pow_le_pow_right (by decide) h))
  rw [Nat.mul_comm, BitVec.getLsbD_ofNat, decide_eq_true hi, Bool.true_and, BitVec.getLsbD_or, BitVec.getLsbD_and,
    BitVec.getLsbD_and, hsel i hi, hrpl i hi]
  refine hbit.trans ?_
  by_cases h2 : i < 2
  · simp [h2]
  · by_cases h16 : i < 16
    · simp [h2, h16, Nat.not_lt.mp h2]
    · simp [h2, h16, hhigh (Nat.not_lt.mp h16)]

/-! ## The instruction -/

theorem exec_arpl (dst : RM Reg) (r : Reg) (s : State) :
    exec (.arpl dst r) s = runInsn false (do requireProt; arplBody dst r) s := rfl

/-- What ARPL makes of a plain destination: its write check comes first (R265; log 33). -/
theorem arplBody_ok {dst : RM Reg} {r : Reg} (hp : place .w .write dst s = .ok p s1) (hpl : p.plain s1) :
    arplBody dst r s = .ok () (
      if (p.value s1).toNat % 4 < (s.gpr.read .w r).toNat % 4 then
        (p.put s1 ((p.value s1 &&& 0xFFFC#32) ||| (s.gpr.read .w r &&& 3#32))).withFlags { s.eflags with zf := true }
      else s1.withFlags { s.eflags with zf := false }) := by
  have hw := walks_of_place hp
  unfold arplBody
  rw [run_bind_ok hp, run_bind_ok (place_get hpl), run_get_bind, run_ite, hw.gpr, ← hw.eflags,
    ofNat_replaceRpl (place_w_value_lt hp), run_bind_ok (place_set _ hpl), run_setZf, run_setZf, put_eflags]
  split <;> rfl

/-- Settles O42: both outcomes of the body; a destination takes the source's RPL or stays. -/
theorem arplCompletes : Obligations.ArplCompletes := by
  intro dst r s s1 p hl hprot hp hpl d q
  have hw := walks_of_place hp
  have hexec {t : State} (h : arplBody dst r s = .ok () t) : exec (.arpl dst r) s = .next t.done :=
    (exec_arpl dst r s).trans (runInsn_done hl ((run_bind_ok (run_requireProt_ok hprot)).trans h))
  have hbody := arplBody_ok (r := r) hp hpl
  refine ⟨fun h => ?_, fun h => ?_⟩
  · rw [if_pos h] at hbody
    exact completes_of (hexec hbody) hw (memFrame_put p _ rfl rfl rfl (put_cfg p s1 _))
  · rw [if_neg (Nat.not_lt.mpr h)] at hbody
    exact completes_of (hexec hbody) hw (memFrame_same rfl rfl)

end Sys2Proof.Machine
end

section
/-! PROOFS. Which bytes the shared operations of far transfers, deliveries and task switches store to: one lemma for each condition
of `Safety.lean` that names a state after stores. -/
namespace Sys2Proof.Machine

variable {s t u : State} {as bs : List Nat}

/-! ## Steps that touch some bytes -/

/-- A step stores to the given bytes only, but for the flags that page walks set, and leaves CR0.PG and the parameters:
so that such steps compose. -/
structure Touches (s t : State) (bytes : List Nat) : Prop where
  pg : t.pg = s.pg
  cfg : t.cfg = s.cfg
  frame : MemFrame s t bytes

namespace Touches

theorem refl (s : State) : Touches s s [] := ⟨rfl, rfl, fun _ _ => .inl rfl⟩

theorem mono (h : Touches s t as) (hs : as ⊆ bs) : Touches s t bs :=
  ⟨h.pg, h.cfg, fun a ha => h.frame a fun hm => ha (hs hm)⟩

theorem trans (h1 : Touches s t as) (h2 : Touches t u bs) : Touches s u (as ++ bs) where
  pg := h2.pg.trans h1.pg
  cfg := h2.cfg.trans h1.cfg
  frame := fun a ha => by
    rw [List.mem_append, not_or] at ha
    exact byte_trans h1.pg (h1.frame a ha.1) (h2.frame a ha.2)

theorem walk (h : SameButWalk s t) : Touches s t [] := ⟨h.pg, h.cfg, h.mem⟩

/-- What follows a walk. -/
theorem after (h : Touches t u bs) (w : SameButWalk s t) : Touches s u bs := (walk w).trans h

/-- A walk at the end. -/
theorem andWalk (h : Touches s t as) (w : SameButWalk t u) : Touches s u as := List.append_nil as ▸ h.trans (walk w)

/-- Updates of registers that keep CR0.PG store nothing. -/
theorem congr (h : Touches s t as) (hm : u.mem = t.mem) (hc : u.cfg = t.cfg) (hp : u.pg = t.pg) : Touches s u as :=
  ⟨hp.trans h.pg, hc.trans h.cfg, h.frame.congr hm hc⟩

theorem ite {p : Prop} [Decidable p] (h1 : Touches s t as) (h2 : Touches s u as) : Touches s (if p then t else u) as := by
  split <;> assumption

theorem storeAt (s : State) (pas : List Nat) (v : Nat) : Touches s (s.storeAt pas v) pas where
  pg := by unfold State.pg; rw [storeAt_sys]
  cfg := storeAt_cfg s pas v
  frame := fun a ha => .inl (physByte_storeAt_other s pas v a ha)

theorem storeAll (s : State) (ps : List (List Nat)) (vs : List Word) : Touches s (s.storeAll ps vs) ps.flatten := by
  induction ps generalizing s vs with
  | nil => cases vs <;> exact refl s
  | cons p ps ih =>
    cases vs with
    | nil => exact (refl s).mono (List.nil_subset _)
    | cons v vs => exact (storeAt s p v.toNat).trans (ih _ vs)

theorem copyAll (s : State) (ps qs : List (List Nat)) : Touches s (s.copyAll ps qs) qs.flatten := by
  induction ps generalizing s qs with
  | nil => cases qs <;> exact (refl s).mono (List.nil_subset _)
  | cons p ps ih =>
    cases qs with
    | nil => exact refl s
    | cons q qs => exact (storeAt s q (s.valueAt p)).trans (ih _ qs)

/-- The fields of a TSS lie among its bytes. -/
theorem storeFields (s : State) (pas : List Nat) (first : Nat) (l : List (Nat × Nat × Nat)) :
    Touches s (s.storeFields pas first l) pas := by
  induction l generalizing s with
  | nil => exact (refl s).mono (List.nil_subset _)
  | cons x l ih =>
    obtain ⟨k, n, v⟩ := x
    have hsub : (pas.drop (k - first)).take n ⊆ pas := fun a ha => List.mem_of_mem_drop (List.mem_of_mem_take ha)
    exact (((storeAt s _ v).mono hsub).trans (ih _)).mono (by simp)

theorem accessed {sel : Half} {d d1 : Desc} (h : Accessed s sel d d1 bs t) : Touches s t bs where
  pg := by unfold State.pg; rw [(SameRegs.accessed h).sys]
  cfg := by rw [SameRegs.accessed h]
  frame := h.frame

theorem stackSegment {sel : Half} {cpl : Nat} {r : SegReg} (h : StackSegment s sel cpl r bs t) : Touches s t bs := by
  obtain ⟨d, d1, s1, -, hd, -, -, -, -, ha, -⟩ := h
  exact (accessed ha).after hd.walks

end Touches

/-! ## Walks -/

theorem TssPointer.walks {cpl : Nat} {sel : Half} {esp : Word} (h : TssPointer s cpl sel esp t) : SameButWalk s t := by
  obtain ⟨e, ss, s1, -, -, h⟩ := h
  split at h <;> exact h.2.1.walks.trans h.2.2.walks

theorem CodeTarget.walks {sel cs : Half} {off o : Word} {d : Desc} {z : Sz} (h : CodeTarget s sel off cs d o z t) :
    SameButWalk s t := by
  cases h with
  | direct _ _ _ hd => exact hd.walks
  | gate _ _ _ _ _ hg _ _ _ _ _ hd => exact hg.walks.trans hd.walks

theorem TaskTarget.walks {sel tss : Half} (h : TaskTarget s sel tss t) : SameButWalk s t := by
  cases h with
  | tss _ _ _ hd | gate _ _ _ hd => exact hd.walks

theorem GateFor.walks {ev : Event} {g d : Desc} (h : GateFor ev s g d t) : SameButWalk s t := by
  obtain ⟨v, s1, -, -, hv, -, -, -, -, -, -, hd, -⟩ := h
  exact hv.walks.trans hd.walks

/-! ## Far transfers and deliveries -/

/-- The stores of a CALL to an inner level (R286 steps 6 to 8): SS and ESP, the parameters' copies, CS and EIP. -/
theorem innerStores_touches (s : State) (stack params copies back : List (List Nat)) (vs ws : List Word) :
    Touches s (((s.storeAll stack vs).copyAll params copies).storeAll back ws)
      (stack.flatten ++ copies.flatten ++ back.flatten) :=
  ((Touches.storeAll s stack vs).trans (.copyAll _ params copies)).trans (.storeAll _ back ws)

theorem FarJumps.touches {sel : Half} {off : Word} (h : FarJumps s sel off t bs) : Touches s t bs := by
  cases h with
  | real => exact (Touches.refl s).congr rfl rfl rfl
  | prot _ _ _ _ _ _ _ s2 _ hc ha => exact ((Touches.accessed ha).after hc.walks).congr rfl rfl rfl

theorem FarCalls.touches {sel : Half} {off : Word} (h : FarCalls s sel off t bs) : Touches s t bs := by
  cases h with
  | real p q _ s1 _ _ hp =>
    exact (((Touches.storeAll s1 [p, q] _).after (walks_of_pushPlaces hp)).mono (by simp)).congr rfl rfl rfl
  | same _ _ _ _ _ p q b _ _ s2 s3 _ hc hp ha =>
    have checks := ((Touches.accessed ha).after (walks_of_pushPlaces hp)).after hc.walks
    exact ((checks.trans (.storeAll s3 [p, q] _)).mono (by simp)).congr rfl rfl rfl
  | inner g d d1 ssSel esp0 esp ss lins ps1 params ps2 ps3 z n b1 b2 s1 s2 s3 s4 s5 s6 s7 s8 _ _ hg _ _ _ _ _ hd _ _ _ _ _ _
      hts hss hl h1 hcp h3 ha =>
    have stack : Touches s s4 b1 := (Touches.stackSegment hss).after ((hg.walks.trans hd.walks).trans hts.walks)
    have places := (walks_of_pushPas h1).trans (hcp.walks.trans (walks_of_pushPas h3))
    have checks := (stack.andWalk places).trans (.accessed ha)
    refine ((checks.trans (innerStores_touches s8 ps1 params ps2 ps3 _ _)).mono fun a => ?_).congr rfl rfl rfl
    simp only [List.flatten_append, List.mem_append]
    tauto

theorem FarReturns.touches {more : State → State → Prop} {z : Sz} {k n : Nat}
    (hm : ∀ a b, more a b → SameButWalk a b) (h : FarReturns s more z k n t bs) : Touches s t bs := by
  cases h with
  | real _ _ _ _ _ _ h0 h1 h2 =>
    exact (Touches.walk (h0.walks.trans (h1.walks.trans (hm _ _ h2)))).congr rfl rfl rfl
  | same _ _ _ _ _ _ _ _ _ _ _ h0 h1 h2 _ hd _ _ _ _ _ ha =>
    have w := (h0.walks.trans (h1.walks.trans (hm _ _ h2))).trans hd.walks
    exact ((Touches.accessed ha).after w).congr rfl rfl rfl
  | outer _ _ _ _ _ _ _ _ _ _ _ _ _ _ _ _ _ _ _ h0 h1 h2 _ hd _ _ _ _ _ _ he hs hss ha =>
    have w := ((h0.walks.trans (h1.walks.trans (hm _ _ h2))).trans hd.walks).trans (he.walks.trans hs.walks)
    exact (((Touches.stackSegment hss).after w).trans (.accessed ha)).congr rfl rfl rfl

theorem Delivers.touches {ev : Event} (h : Delivers ev s t bs) : Touches s t bs := by
  cases h with
  | real v ps esp s1 s2 _ _ hv hp =>
    exact (((Touches.storeAll s2 ps _).after (walks_of_pushPlaces hp)).after hv.walks).congr rfl rfl rfl
  | same g d d1 ps esp b s1 s2 s3 hg _ hp _ ha =>
    have checks := ((Touches.accessed ha).after (walks_of_pushPlaces hp)).after hg.walks
    exact ((checks.trans (.storeAll s3 ps _)).mono (by simp)).congr rfl rfl rfl
  | inner g d d1 ssSel esp0 esp ss ps b1 b2 s1 s2 s3 s4 s5 hg _ _ hts hss hp ha =>
    have stack : Touches s s3 b1 := (Touches.stackSegment hss).after (hg.walks.trans hts.walks)
    have checks := (stack.andWalk (walks_of_pushPlaces hp)).trans (.accessed ha)
    refine ((checks.trans (.storeAll s5 ps _)).mono fun a => ?_).congr rfl rfl rfl
    simp only [List.mem_append]
    tauto

/-! ## Paging in the descriptors of a new task -/

/-- A computation that only checks and walks page tables touches nothing, however it ends. -/
theorem keeps_touches_of_walks {α : Type} {x : M α} (s : State) (h : ∀ v, Walks v (x v)) : Keeps (Touches s · []) x := by
  intro v hv
  have hw := h v
  cases hr : x v with
  | ok a t =>
    rw [hr] at hw
    exact hv.andWalk hw
  | error e t =>
    rw [hr] at hw
    obtain ⟨l, -, hs, w⟩ := hw
    have hpg : t.pg = v.pg := by unfold State.pg; rw [hs]
    exact (hv.andWalk w).congr rfl rfl (hpg.trans w.pg.symm)

/-- An access to a reserved APIC register changes the local APIC alone (R486). -/
theorem illegalRegister_eq (s : State) : ∃ a, s.illegalRegister = { s with apic := a } := by
  unfold State.illegalRegister State.apicError State.apicErrors
  dsimp only
  repeat' split
  all_goals exact ⟨_, rfl⟩

theorem keeps_apicRead_touches (s : State) (off : Nat) : Keeps (Touches s · []) (apicRead off) := by
  unfold apicRead
  refine keeps_get_bind fun v hv => keeps_ite (keeps_bind (keeps_set ?_) fun _ => keeps_pure _)
    (keeps_ite (keeps_bind (keeps_refuse _) fun _ => keeps_pure _) (keeps_pure _))
  obtain ⟨a, ha⟩ := illegalRegister_eq v
  rw [ha]
  exact hv.congr rfl rfl rfl

/-- Reading plain memory or the APIC stores nothing. -/
theorem keeps_phRead_touches (s : State) (pas : List Nat) : Keeps (Touches s · []) (phRead pas) := by
  unfold phRead
  exact keeps_get_bind fun v hv => keeps_ite
    (keeps_ite (keeps_bind (keeps_apicRead_touches s _) fun _ => keeps_pure _) (keeps_refuse _)) (keeps_pure _)

theorem keeps_visible_touches (s : State) (sel : Half) : Keeps (Touches s · []) (visible sel) := by
  unfold visible
  refine keeps_ite (keeps_pure _) (keeps_get_bind fun v _ => ?_)
  split
  · exact keeps_pure _
  · exact keeps_bind (keeps_bind (keeps_bind (keeps_touches_of_walks s fun u => walks_linAddrs u ..) fun _ =>
      keeps_phRead_touches s _) fun _ => keeps_pure _) fun _ => keeps_pure _

theorem keeps_descsPaged_touches (s : State) (ldt : SegReg) : ∀ l, Keeps (Touches s · []) (descsPaged ldt l)
  | [] => keeps_pure _
  | sel :: r => by
    unfold descsPaged
    refine keeps_ite (keeps_get_bind fun v _ => ?_) (keeps_descsPaged_touches s ldt r)
    split
    · exact keeps_bind (keeps_touches_of_walks s fun u => walks_linAddrs u ..) fun _ => keeps_descsPaged_touches s ldt r
    · exact keeps_descsPaged_touches s ldt r

/-- Paging in the descriptors of a new task sets flags of page entries at most (R326 step 5). -/
theorem keeps_taskDescsPaged_touches (s : State) (im : TssImage) : Keeps (Touches s · []) (taskDescsPaged im) := by
  refine keeps_bind (keeps_get_bind fun v _ => keeps_ite (keeps_pure _) ?_) fun _ => keeps_descsPaged_touches s _ _
  refine keeps_bind (keeps_visible_touches s _) fun o => ?_
  cases o <;> exact keeps_pure _

/-- Other page tables leave CR0.PG. -/
theorem withTables_pg (s : State) (cr3 : Word) (pd : Option (List Quad)) : (s.withTables cr3 pd).pg = s.pg := by
  rw [withTables_eq]
  cases pd <;> rfl

/-- A check under other page tables touches what it touches under these. -/
theorem underCr3_touches {cr3 : Word} {pd : Option (List Quad)} {x : M Unit} (hx : ∀ v, Keeps (Touches v · []) x)
    (h : underCr3 cr3 pd x s = .ok () t) : Touches s t [] := by
  have hw : Touches s (s.withTables cr3 pd) [] :=
    (Touches.refl s).congr (by rw [withTables_eq]) (by rw [withTables_eq]) (withTables_pg s cr3 pd)
  have hk := hx _ _ (Touches.refl (s.withTables cr3 pd))
  unfold underCr3 at h
  cases hr : x (s.withTables cr3 pd) with
  | ok a u =>
    rw [hr] at h hk
    have hu := hw.trans hk
    rw [← (EStateM.Result.ok.inj h).2]
    exact hu.congr rfl hu.cfg.symm hu.pg.symm
  | error e u =>
    rw [hr] at h
    cases h

/-! ## Task switches -/

/-- Leaving a task stores to the places that the switch found for it (R326 steps 6 to 10). -/
theorem taskLeft_touches (s : State) (kind : SwitchKind) (sel : Half) (d : Desc) (p : Resume)
    (old link busy0 busy1 : List Nat) :
    Touches s (s.taskLeft kind sel d p old link busy0 busy1) (old ++ link ++ busy0 ++ busy1) := by
  unfold State.taskLeft
  extract_lets old32 _ flags u0 u1 u2 u3 _
  have h0 : Touches s u0 busy0 := .ite (.storeAt s busy0 _) ((Touches.refl s).mono (List.nil_subset _))
  have h1 : Touches s u1 (busy0 ++ old) := h0.trans (.storeFields u0 old _ _)
  have h2 : Touches s u2 (busy0 ++ old ++ link) := .ite (h1.trans (.storeAt u1 link _)) (h1.mono (List.subset_append_left _ _))
  have h3 : Touches s u3 (busy0 ++ old ++ link ++ busy1) := .ite (h2.trans (.storeAt u2 busy1 _)) (h2.mono (List.subset_append_left _ _))
  refine (h3.mono fun a => ?_).congr rfl rfl rfl
  simp only [List.mem_append]
  tauto

/-- Loading a task's registers sets CR0.TS and leaves CR0.PG (R330). -/
theorem taskLoaded_touches (s : State) (nest : Bool) (im : TssImage) (pd : Option (List Quad)) :
    Touches s (s.taskLoaded nest im pd) [] := by
  refine (Touches.refl s).congr rfl rfl ?_
  have hts : bit (s.sys.cr0 ||| 8#32) 31 = bit s.sys.cr0 31 := bit_or_of_zero rfl
  cases pd <;> exact hts

theorem DataDescs.walks {cpl : Nat} {l : List (Seg × Half)} {ds : List TaskSeg} (h : DataDescs cpl l s ds t) :
    SameButWalk s t := by
  induction h with
  | nil s => exact .refl s
  | null _ _ _ _ _ _ _ _ ih => exact ih
  | desc _ _ _ _ _ _ _ _ _ hd _ _ _ _ ih => exact hd.walks.trans ih

theorem DataLoads.touches {ds : List TaskSeg} (h : DataLoads ds s bs t) : Touches s t bs := by
  induction h with
  | nil s => exact Touches.refl s
  | more x sel d d1 xs b bs s s1 t ha _ ih =>
    exact ((Touches.accessed ha).congr (u := s1.setSeg x (d1.toSegReg sel)) rfl rfl rfl).trans ih

theorem Qualifies.touches {im : TssImage} (h : Qualifies im s bs t) : Touches s t bs := by
  cases h with
  | mk cd cd1 sd sd1 ds b1 b2 b3 s1 s2 s3 s4 s5 s6 t hl _ hc _ _ _ _ hs _ _ _ _ ha hb hd hx =>
    have ldt : Touches s s1 [] := by
      rcases hl with ⟨-, rfl⟩ | ⟨-, -, d, u, hd, -, -, rfl⟩
      · exact .refl _
      · exact (Touches.walk hd.walks).congr rfl rfl rfl
    have cs : Touches s (({ s4.setSeg .cs (cd1.toSegReg im.cs) with eip := cd.entry s4.eip } : State)) b1 :=
      ((ldt.andWalk (hc.walks.trans hs.walks)).trans (.accessed ha)).congr rfl rfl rfl
    have ss : Touches s (s5.setSeg .ss (sd1.toSegReg im.ss)) (b1 ++ b2) := (cs.trans (.accessed hb)).congr rfl rfl rfl
    exact (ss.andWalk hd.walks).trans hx.touches

/-- A task switch stores to the two TSSs and their busy flags, then sets accessed flags of the new task's descriptors (R326). -/
theorem Switches.touches {kind : SwitchKind} {sel : Half} {r : Resume} {ext : Bool} (h : Switches kind sel r ext s t bs) :
    Touches s t bs := by
  obtain ⟨d, oldAll, old, new, link, busy0, busy1, bytes, pd, im0, im, s1, s2, s3, s4, s5, s6, s7, s8, u, w, -, -, hd,
    -, -, -, -, -, h2, h3, h4, h5, h6, h7, -, -, -, -, hu, rfl, -, hq, rfl, rfl⟩ := h
  have w4 := ((hd.walks.trans (walks_of_linAddrs h2)).trans (walks_of_linAddrs h3)).trans (walks_of_linAddrs h4)
  have w5 : SameButWalk s s5 := walks_or w4 walks_of_linAddrs h5
  have w6 : SameButWalk s s6 := walks_or w5 walks_of_linAddrs (h6.imp_left fun h => ⟨h.1, h.2.2⟩)
  have w7 : SameButWalk s s7 := by
    rcases h7 with ⟨-, h7⟩ | ⟨-, -, rfl⟩
    exacts [w6.trans (walks_of_linAddrs h7), w6]
  have checks : Touches s s8 [] := (underCr3_touches (keeps_taskDescsPaged_touches · _) hu).after w7
  have left := checks.trans (taskLeft_touches s8 kind sel d r old link busy0 busy1)
  exact (((left.trans (taskLoaded_touches _ _ im pd)).trans hq.touches).mono (by simp)).congr rfl rfl rfl

end Sys2Proof.Machine
end

section
/-! PROOFS. CLI and STI, SYSENTER and SYSEXIT, software interrupts, BOUND: which branch of the body is taken, and what it
answers. -/
namespace Sys2Proof.Machine

variable {s : State}

/-! ## CLI and STI -/

theorem usesVif_eq_true_iff (s : State) : s.usesVif = true ↔ s.prot = true ∧ bit s.sys.cr4 1 = true ∧ s.cpl = 3 := by
  unfold State.usesVif
  rw [Bool.and_eq_true, Bool.and_eq_true, beq_iff_eq, and_assoc]

/-- At or below IOPL CLI clears IF (R306). -/
theorem cliBody_if (h : s.cpl ≤ s.iopl) : cliBody s = .ok () (s.withFlags { s.eflags with intf := false }) := by
  unfold cliBody
  rw [run_get_bind, if_pos h]
  rfl

/-- Above IOPL CLI clears VIF where the virtual flag is in use (R306). -/
theorem cliBody_vif (h : s.iopl < s.cpl) (hv : s.usesVif = true) :
    cliBody s = .ok () (s.withFlags { s.eflags with vif := false }) := by
  unfold cliBody
  rw [run_get_bind, if_neg (Nat.not_le.mpr h), if_pos hv]
  rfl

theorem cliBody_gp (h : s.iopl < s.cpl) (hv : ¬ s.usesVif = true) : cliBody s = .error (.raise (.gp 0#16)) s := by
  unfold cliBody
  rw [run_get_bind, if_neg (Nat.not_le.mpr h), if_neg hv]
  rfl

/-- At or below IOPL STI sets IF, and starts the shadow if IF was 0 (R307). -/
theorem stiBody_if (h : s.cpl ≤ s.iopl) : stiBody s = .ok () { s with
    eflags := { s.eflags with intf := true }
    act := { s.act with shadow := if s.eflags.intf then s.act.shadow else .sti } } := by
  unfold stiBody
  rw [run_get_bind, if_pos h, run_bind_ok (run_setFlags _ s)]
  cases s.eflags.intf <;> rfl

/-- Above IOPL STI sets VIF where the virtual flag is in use and no virtual interrupt is pending (R307). -/
theorem stiBody_vif (h : s.iopl < s.cpl) (hv : s.usesVif = true) (hp : s.eflags.vip = false) :
    stiBody s = .ok () (s.withFlags { s.eflags with vif := true }) := by
  unfold stiBody
  rw [run_get_bind, if_neg (Nat.not_le.mpr h), if_pos hv, hp]
  rfl

theorem stiBody_vip (h : s.iopl < s.cpl) (hv : s.usesVif = true) (hp : s.eflags.vip = true) :
    stiBody s = .error (.raise (.gp 0#16)) s := by
  unfold stiBody
  rw [run_get_bind, if_neg (Nat.not_le.mpr h), if_pos hv, hp]
  rfl

theorem stiBody_gp (h : s.iopl < s.cpl) (hv : ¬ s.usesVif = true) : stiBody s = .error (.raise (.gp 0#16)) s := by
  unfold stiBody
  rw [run_get_bind, if_neg (Nat.not_le.mpr h), if_neg hv]
  rfl

/-- In the shadow of STI only an NMI is accepted (R307, R407). -/
theorem request_in_sti_shadow (h : s.act.shadow = .sti) {q : Request} (hq : s.request = some q) : q = .nmi := by
  unfold State.request at hq
  have hmask : (s.eflags.intf && s.act.shadow == .none) = false := by rw [h, Bool.and_comm]; rfl
  rw [hmask, if_neg Bool.false_ne_true] at hq
  split at hq
  · exact (Option.some.inj hq).symm
  · cases hq

/-- Settles O39: each of the three conditions selects a branch of both bodies. -/
theorem interruptFlagInstructions : Obligations.InterruptFlagInstructions := by
  intro s hl
  refine ⟨fun h => ⟨?_, ?_⟩, fun h hp h4 h3 => ?_, fun h hv => ?_, fun h q => request_in_sti_shadow h⟩
  · exact runInsn_done hl (cliBody_if h)
  · exact runInsn_done hl (stiBody_if h)
  · have hv := (usesVif_eq_true_iff s).mpr ⟨hp, h4, h3⟩
    exact ⟨runInsn_done hl (cliBody_vif h hv), fun hp => runInsn_done hl (stiBody_vif h hv hp),
      fun hp => runInsn_raise hl (stiBody_vip h hv hp)⟩
  · rw [← usesVif_eq_true_iff] at hv
    exact ⟨runInsn_raise hl (cliBody_gp h hv), runInsn_raise hl (stiBody_gp h hv)⟩

/-! ## SYSENTER and SYSEXIT -/

/-- A selector with RPL 0 (R300). -/
theorem withRpl_zero (sel : Half) : withRpl sel 0 = sel &&& 0xFFFC#16 := selCode_eq sel

/-- SYSENTER's check of mode and selector fails (R300). -/
theorem sysenterBody_gp (hs : s.cfg.hasSep = true) (h : s.pe = false ∨ isNull s.sysenterSel = true) :
    sysenterBody s = .error (.raise (.gp 0#16)) s := by
  have hc : (s.pe && !isNull s.sysenterSel) = false := by
    rcases h with h | h <;> rw [h]
    exacts [Bool.false_and _, Bool.and_false _]
  unfold sysenterBody
  rw [run_get_bind, hs, hc]
  rfl

/-- SYSEXIT's check of mode, level and selector fails (R301). -/
theorem sysexitBody_gp (hs : s.cfg.hasSep = true) (h : s.pe = false ∨ s.cpl ≠ 0 ∨ isNull s.sysenterSel = true) :
    sysexitBody s = .error (.raise (.gp 0#16)) s := by
  have hc : (s.pe && s.cpl == 0 && !isNull s.sysenterSel) = false := by
    rcases h with h | h | h
    · rw [h, Bool.false_and, Bool.false_and]
    · rw [beq_eq_false_iff_ne.mpr h, Bool.and_false, Bool.false_and]
    · rw [h, Bool.not_true, Bool.and_false]
  unfold sysexitBody
  rw [run_get_bind, hs, hc]
  rfl

/-- Settles O32: the two checks in their order, then one update of the state. -/
theorem sysenterCompletes : Obligations.SysenterCompletes := by
  intro s hl sel
  refine ⟨fun h => runJump_raise (t := s) hl ?_, fun h hbad => runJump_raise hl (sysenterBody_gp h hbad),
    fun h hpe hn => runJump_ok hl ?_⟩
  · unfold sysenterBody
    rw [run_get_bind, h]
    rfl
  · change isNull s.sysenterSel = false at hn
    unfold sysenterBody
    rw [run_get_bind, h, hpe, hn, ← withRpl_zero]
    rfl

/-- Settles O33: the two checks in their order, then one update of the state. -/
theorem sysexitCompletes : Obligations.SysexitCompletes := by
  intro s hl sel
  refine ⟨fun h => runJump_raise (t := s) hl ?_, fun h hbad => runJump_raise hl (sysexitBody_gp h hbad),
    fun h hpe h0 hn => runJump_ok hl ?_⟩
  · unfold sysexitBody
    rw [run_get_bind, h]
    rfl
  · change isNull s.sysenterSel = false at hn
    unfold sysexitBody
    rw [run_get_bind, h, hpe, h0, hn]
    rfl

/-! ## Software interrupts -/

/-- A software interrupt without LOCK delivers its vector, with the address of the next instruction (R292 to R294). -/
theorem softInt_delivers {v : Byte} {t : State} {bytes : List Nat} (hl : s.lockOk false)
    (h : Delivers ⟨v, .soft, none, ⟨s.segs.cs.sel, s.ctx.nextEip, s.eflags.rf⟩⟩ s t bytes) :
    softInt v s = .next (t.taken .soft) := by
  have hlock : s.locked = false := by simpa [State.lockOk] using hl
  unfold softInt
  rw [hlock, if_neg Bool.false_ne_true]
  exact takeEvent_delivers h

theorem exec_into_overflow (h : s.eflags.ovf = true) : exec .into s = softInt 4#8 s := if_pos h

theorem exec_into_none (h : s.eflags.ovf = false) : exec .into s = runInsn false (pure ()) s := by
  refine if_neg ?_
  rw [h]
  exact Bool.false_ne_true

/-- Settles O29: each form is the software interrupt of its vector; INTO without overflow has an empty body. -/
theorem softwareInterruptsComplete : Obligations.SoftwareInterruptsComplete := by
  refine ⟨fun v i s t bytes hl hi hd => ⟨?_, hd.touches.frame⟩, fun s hl hof => ?_⟩
  · have hexec : exec i s = softInt v s := by
      rcases hi with rfl | ⟨rfl, rfl⟩ | ⟨rfl, rfl, hof⟩
      exacts [rfl, rfl, exec_into_overflow hof]
    rw [hexec, softInt_delivers hl hd]
  · rw [exec_into_none hof]
    exact runInsn_done hl rfl

/-! ## BOUND -/

theorem signed_trunc_w (v : Word) : Sz.w.signed (Sz.w.trunc v) = BitVec.toInt (v.setWidth 16) := by
  have hv : (Sz.w.trunc v).toNat = (v.setWidth 16).toNat := by
    rw [trunc_w_eq_setWidth, BitVec.toNat_setWidth_of_le (by decide)]
  have hhalf (a : Nat) : a < 2 ^ 15 ↔ 2 * a < 2 ^ 16 := by omega
  rw [BitVec.toInt_eq_toNat_cond, Sz.signed, hv]
  simp only [Sz.bits, Nat.reduceSub, hhalf]
  rfl

theorem signed_trunc_d (v : Word) : Sz.d.signed (Sz.d.trunc v) = v.toInt := by
  have hv : Sz.d.trunc v = v := by rw [Sz.trunc, Sz.bits, Nat.mod_eq_of_lt v.isLt, BitVec.ofNat_toNat, BitVec.setWidth_eq]
  have hhalf (a : Nat) : a < 2 ^ 31 ↔ 2 * a < 2 ^ 32 := by omega
  rw [BitVec.toInt_eq_toNat_cond, Sz.signed, hv]
  simp only [Sz.bits, Nat.reduceSub, hhalf]
  rfl

/-- The model's reading of a bound or index as signed is the one at operand size (R295). -/
theorem signed_eq_toInt (s : State) (v : Word) :
    s.signed v = if s.osz == .w then BitVec.toInt (v.setWidth 16) else v.toInt := by
  unfold State.signed
  rcases osz_eq_w_or_d s with h | h <;> rw [h]
  exacts [signed_trunc_w v, signed_trunc_d v]

/-- BOUND checks the index against the bounds at two plain places (R295). -/
theorem boundBody_eq {r : Reg} {m : Mem} {s1 s2 : State} {p q : List Nat}
    (hp : memAddrs m s.osz.bytes s.osz.bytes .read s = .ok p s1)
    (hq : memAddrsAt m (BitVec.ofNat 32 s.osz.bytes) s.osz.bytes s.osz.bytes .read s1 = .ok q s2)
    (hpp : s2.plain p) (hqp : s2.plain q) :
    boundBody r m s = require (decide (s.signed (BitVec.ofNat 32 (s2.valueAt p)) ≤ s.signed (s.gpr.read s.osz r) ∧
      s.signed (s.gpr.read s.osz r) ≤ s.signed (BitVec.ofNat 32 (s2.valueAt q)))) .br s2 := by
  unfold boundBody
  simp only [signed_eq_toInt]
  rw [run_get_bind, run_bind_ok hp, run_bind_ok hq, run_bind_ok (phRead_plain hpp), run_bind_ok (phRead_plain hqp)]

/-- Settles O30: the check of the body passes or raises #BR. -/
theorem boundChecks : Obligations.BoundChecks := by
  intro r m s s1 s2 p q hl hp hq hpp hqp x lo hi
  have hbody := boundBody_eq (r := r) hp hq hpp hqp
  refine ⟨fun hlo hhi => ?_, fun hout => ?_⟩
  · have hin : (lo ≤ x ∧ x ≤ hi) := ⟨hlo, hhi⟩
    refine completes_of (runInsn_done hl ?_) ((walks_of_memAddrs hp).trans (walks_of_memAddrsAt hq)) (memFrame_same rfl rfl)
    rw [hbody, decide_eq_true hin]
    rfl
  · have hnot : ¬ (lo ≤ x ∧ x ≤ hi) := by omega
    refine runInsn_raise hl ?_
    rw [hbody, decide_eq_false hnot]
    rfl

end Sys2Proof.Machine
end

section
/-! PROOFS. Far JMP and far CALL: which way a transfer takes for a code segment, a call gate and a task, and the instructions
made of the pointer and the transfer. -/
namespace Sys2Proof.Machine

variable {s s1 t : State} {sel : Half} {off : Word} {bytes : List Nat}

/-! ## The mode -/

theorem pe_of_prot (h : s.prot = true) : s.pe = true := by
  unfold State.prot at h
  exact (Bool.and_eq_true_iff.mp h).1

theorem prot_of_walk (w : SameButWalk s t) (h : s.prot = true) : t.prot = true := by
  unfold State.prot at h ⊢
  rwa [w.pe, w.eflags]

theorem resumeNext_of_walk (w : SameButWalk s t) : t.resumeNext = ⟨s.segs.cs.sel, s.ctx.nextEip, s.eflags.rf⟩ :=
  (SameRegs.walk w).resumeNext

/-! ## Checks -/

/-- The checks of a direct transfer pass (R282). -/
theorem checkDirect_ok {d : Desc} (hpriv : if d.conforming then d.dpl ≤ s.cpl else rpl sel ≤ s.cpl ∧ d.dpl = s.cpl)
    (hp : d.p = true) (hlim : off.toNat ≤ d.limit) : checkDirect sel d off s = .ok () s := by
  have hc : (if d.conforming = true then decide (d.dpl ≤ s.cpl) else decide (rpl sel ≤ s.cpl) && d.dpl == s.cpl) = true := by
    split at hpriv <;> simp [*]
  unfold checkDirect
  rw [run_get_bind, hc, run_require_true_bind, hp, run_require_true_bind, decide_eq_true hlim, run_require_true]

/-- The target of a call gate passes the checks of a CALL (R284): its level is the current one or an inner one. -/
theorem gateTarget_call_ok {g d : Desc} (hn : isNull g.gateSel = false) (hd : DescAt s g.gateSel d s1)
    (hc : d.isCode = true) (hle : d.dpl ≤ s.cpl) (hp : d.p = true) : gateTarget g true s = .ok d s1 := by
  unfold gateTarget
  rw [run_get_bind, hn, Bool.not_false, run_require_true_bind, run_bind_ok (readDesc_ok hd _), hc, run_require_true_bind,
    Bool.or_true, if_pos rfl, decide_eq_true hle, run_require_true_bind, hp]
  rfl

/-! ## Far JMP -/

/-- A far JMP to a task (R288, R321). -/
theorem jmpFarProt_task {tss : Half} {s2 : State} (h : TaskTarget s sel tss s2)
    (hs : Switches .jmp tss s.resumeNext false s2 t bytes) : jmpFarProt sel off s = .ok () t := by
  obtain ⟨d, u, hd, hn, ht, hf⟩ := farTask_ok h hs
  have htask : (d.isSys 5 || d.isTss) = true := by simpa using ht
  unfold jmpFarProt
  rw [run_get_bind, hn, if_neg Bool.false_ne_true]
  dsimp only
  rw [run_bind_ok (readDesc_ok hd _), not_code (by tauto), if_neg Bool.false_ne_true, not_callGate ht,
    if_neg Bool.false_ne_true, htask, if_pos rfl, hf]

/-- A far JMP that stays in its task (R282, R288, R570). -/
theorem jmpFar_ok {z : Sz} (h : FarJumps s sel (z.trunc off) t bytes) : jmpFar z sel off s = .ok () t := by
  unfold jmpFar
  rw [run_get_bind]
  dsimp only
  cases h with
  | real hpe hlim =>
    rw [hpe, if_neg Bool.false_ne_true, hlim, run_require_true_bind]
    rfl
  | prot cs d d1 o z' b s1 s2 hp hc ha => rw [pe_of_prot hp, if_pos rfl, jmpFarProt_ok hc ha]

/-- A far JMP that switches tasks (R288, R321). -/
theorem jmpFar_task {z : Sz} {tss : Half} {s2 : State} (hp : s.prot = true) (h : TaskTarget s sel tss s2)
    (hs : Switches .jmp tss s.resumeNext false s2 t bytes) : jmpFar z sel off s = .ok () t := by
  unfold jmpFar
  rw [run_get_bind]
  dsimp only
  rw [pe_of_prot hp, if_pos rfl, jmpFarProt_task h hs]

/-! ## Far CALL -/

/-- A far CALL on the same stack, directly or through a call gate (R283, R285). -/
theorem callFarProt_same {cs : Half} {d d1 : Desc} {o esp : Word} {z : Sz} {p q : List Nat} {s2 s3 : State}
    (h : CodeTarget s sel off cs d o z s1)
    (hp : pushPlaces s.segs.ss (.ss 0#16) (s.cpl == 3) z 2 s.gpr.esp s1 = .ok ([p, q], esp) s2)
    (ha : Accessed s2 cs d d1 bytes s3) (hpl : s3.plains [p, q]) :
    callFarProt s.osz sel off s = .ok () ((((s3.storeAll [p, q] [s.segs.cs.sel.setWidth 32, s.ctx.nextEip]).withEsp
      esp).setSeg .cs (d1.toSegReg (withRpl cs s.cpl))).goto (d.entry o)) := by
  have hsame := callSame_ok (o := o) (.walk h.walks) hp ha hpl
  unfold callFarProt
  rw [run_get_bind]
  cases h with
  | direct _ _ hn hd hc hpriv hpres hlim =>
    rw [hn, if_neg Bool.false_ne_true]
    dsimp only
    have hdir := checkDirect_ok (s := s1) (sel := sel) (hd.walks.cpl.symm ▸ hpriv) hpres hlim
    rw [run_bind_ok (readDesc_ok hd _), hc, if_pos rfl, run_bind_ok hdir, hsame]
  | gate g _ s0 _ hn hg hs hc hr hpres hgn hd hcode hpriv hdp =>
    have w := SameRegs.walk hg.walks
    have hle : d.dpl ≤ s.cpl := by split at hpriv <;> omega
    have hstay : (!d.conforming && decide (d.dpl < s.cpl)) = false := by split at hpriv <;> simp [*]
    have h412 : (g.isSys 4 || g.isSys 12) = true := by simpa using hs
    rw [hn, if_neg Bool.false_ne_true]
    dsimp only
    rw [run_bind_ok (readDesc_ok hg _), not_code (by tauto), if_neg Bool.false_ne_true, h412, if_pos rfl,
      run_bind_ok (checkGate_ok (w.cpl ▸ hc) hr hpres), run_bind_ok (gateTarget_call_ok hgn hd hcode (w.cpl ▸ hle) hdp),
      hstay, if_neg Bool.false_ne_true, hsame]

/-- A far CALL through a call gate to an inner level (R286). -/
theorem callFarProt_inner {z z' : Sz} {g d : Desc} {s2 : State} (hn : isNull sel = false) (hg : DescAt s sel g s1)
    (hs : g.isSys 4 = true ∨ g.isSys 12 = true) (hc : s.cpl ≤ g.dpl) (hr : rpl sel ≤ g.dpl) (hp : g.p = true)
    (hgn : isNull g.gateSel = false) (hd : DescAt s1 g.gateSel d s2) (hcode : d.isCode = true)
    (hnc : d.conforming = false) (hlt : d.dpl < s.cpl) (hdp : d.p = true) (hz : z = if g.isSys 12 then .d else .w)
    (h : callInner z g d s2 = .ok () t) : callFarProt z' sel off s = .ok () t := by
  have w := SameRegs.walk hg.walks
  have hinner : (!d.conforming && decide (d.dpl < s.cpl)) = true := by simp [hnc, hlt]
  have h412 : (g.isSys 4 || g.isSys 12) = true := by simpa using hs
  unfold callFarProt
  rw [run_get_bind, hn, if_neg Bool.false_ne_true]
  dsimp only
  rw [run_bind_ok (readDesc_ok hg _), not_code (by tauto), if_neg Bool.false_ne_true, h412, if_pos rfl,
    run_bind_ok (checkGate_ok (w.cpl ▸ hc) hr hp),
    run_bind_ok (gateTarget_call_ok hgn hd hcode (w.cpl ▸ Nat.le_of_lt hlt) hdp), hinner, if_pos rfl, ← hz, h]

/-- A far CALL to a task (R321). -/
theorem callFarProt_task {z : Sz} {tss : Half} {s2 : State} (h : TaskTarget s sel tss s2)
    (hs : Switches .call tss s.resumeNext false s2 t bytes) : callFarProt z sel off s = .ok () t := by
  obtain ⟨d, u, hd, hn, ht, hf⟩ := farTask_ok h hs
  have htask : (d.isSys 5 || d.isTss) = true := by simpa using ht
  unfold callFarProt
  rw [run_get_bind, hn, if_neg Bool.false_ne_true]
  dsimp only
  rw [run_bind_ok (readDesc_ok hd _), not_code (by tauto), if_neg Bool.false_ne_true, not_callGate ht,
    if_neg Bool.false_ne_true, htask, if_pos rfl, hf]

/-- In protected mode a far CALL is its transfer, after which the monitor is disarmed (R385). -/
theorem callFar_of_prot {z : Sz} (hp : s.prot = true) (h : callFarProt z sel (z.trunc off) s = .ok () t) :
    callFar z sel off s = .ok () (disarm t) := by
  unfold callFar
  rw [run_get_bind]
  dsimp only
  rw [pe_of_prot hp, if_pos rfl, run_bind_ok h, run_modify]

/-- A far CALL that stays in its task (R283 to R286, R570). -/
theorem callFar_ok (h : FarCalls s sel (s.osz.trunc off) t bytes) : callFar s.osz sel off s = .ok () (disarm t) := by
  cases h with
  | real p q esp s1 hpe hlim hp hpl =>
    have o := (SameRegs.walk (walks_of_pushPlaces hp)).trans (.store (.storeAll s1 [p, q]
      [s.segs.cs.sel.setWidth 32, s.ctx.nextEip]))
    unfold callFar
    rw [run_get_bind]
    dsimp only
    rw [hpe, if_neg Bool.false_ne_true, hlim, run_require_true_bind, run_bind_ok hp]
    dsimp only
    rw [run_bind_ok (pushValues_ok hpl)]
    unfold setEsp
    rw [run_modify_bind, run_modify_bind, run_modify]
    dsimp only [State.withEsp, State.setSeg]
    rw [o.segs]
    rfl
  | same cs d d1 o z p q b esp s1 s2 s3 hp hc hpu ha hpl => exact callFar_of_prot hp (callFarProt_same hc hpu ha hpl)
  | inner g d d1 ssSel esp0 esp ss lins ps1 params ps2 ps3 z n b1 b2 s1 s2 s3 s4 s5 s6 s7 s8 hp hn hg hs hc hr hgp hgn hd hcode
      hnc hlt hdp hz hnum hts hss hl h1 hcp h3 ha hpl =>
    exact callFar_of_prot hp (callFarProt_inner hn hg hs hc hr hgp hgn hd hcode hnc hlt hdp hz
      (callInner_ok ((SameRegs.walk hg.walks).trans (.walk hd.walks)) hnum hts hss hl h1 hcp h3 ha hpl))

/-! ## The instructions -/

theorem FarForm.pointer_walks {f : FarForm} (h : f.pointer s sel off s1) : SameButWalk s s1 := by
  cases f with
  | ptr x o =>
    obtain ⟨-, -, rfl⟩ := h
    exact .refl s1
  | mem m => exact FarPtr.walks h

/-- A far transfer through memory reads its pointer first (R205). -/
theorem runJump_throughMem {m : Mem} {transfer : Sz → Half → Word → M Unit} (hl : s.lockOk false)
    (h : FarPtr s m sel off s1) (hx : transfer s.osz sel off s1 = .ok () t) :
    runJump false (atOsz fun z => do let (sel, off) ← farPointer m z; transfer z sel off) s = .next t :=
  runJump_ok hl ((run_bind_ok (farPointer_ok h)).trans hx)

/-- Settles O24: both ways of the transfer after the pointer, and the bytes that each touches. -/
theorem farJumpCompletes : Obligations.FarJumpCompletes := by
  intro f s s1 t sel off bytes hl hf h
  have w := FarForm.pointer_walks hf
  have hrun : jmpFar s.osz sel off s1 = .ok () t ∧ Touches s1 t bytes := by
    rcases h with hj | ⟨hp, tss, s2, ht, hs⟩
    · exact ⟨jmpFar_ok hj, hj.touches⟩
    · rw [← resumeNext_of_walk w] at hs
      exact ⟨jmpFar_task (prot_of_walk w hp) ht hs, hs.touches.after ht.walks⟩
  obtain ⟨hrun, htouch⟩ := hrun
  refine ⟨?_, (htouch.after w).frame⟩
  cases f with
  | ptr x o =>
    obtain ⟨rfl, rfl, rfl⟩ := hf
    exact runJump_ok hl hrun
  | mem m => exact runJump_throughMem hl hf hrun

/-- Settles O25: both ways of the transfer after the pointer, and the bytes that each touches. -/
theorem farCallCompletes : Obligations.FarCallCompletes := by
  intro f s s1 t sel off bytes hl hf h
  have w := FarForm.pointer_walks hf
  have hrun : callFar s.osz sel off s1 = .ok () (disarm t) ∧ Touches s1 t bytes := by
    rcases h with hc | ⟨hp, tss, s2, ht, hs⟩
    · rw [← w.osz] at hc ⊢
      exact ⟨callFar_ok hc, hc.touches⟩
    · rw [← resumeNext_of_walk w] at hs
      exact ⟨callFar_of_prot (prot_of_walk w hp) (callFarProt_task ht hs), hs.touches.after ht.walks⟩
  obtain ⟨hrun, htouch⟩ := hrun
  refine ⟨?_, ((htouch.after w).congr (u := disarm t) rfl rfl rfl).frame⟩
  cases f with
  | ptr x o =>
    obtain ⟨rfl, rfl, rfl⟩ := hf
    exact runJump_ok hl hrun
  | mem m => exact runJump_throughMem hl hf hrun

end Sys2Proof.Machine
end

section
/-! PROOFS. Far RET and IRET: the common far return in its three cases, the flags that IRET pops, the events that wait for the end
of a handler, and the return to the previous task. -/
namespace Sys2Proof.Machine

variable {s s1 t : State} {sel : Half} {off : Word} {bytes : List Nat} {more : State → State → Prop} {z : Sz} {k n : Nat}
  {flags : M (Eflags → Eflags)} {fl : Eflags → Eflags}

theorem SameRegs.pend_eq (h : SameRegs s t) : t.pend = s.pend := by rw [h]

/-! ## Data segments on a return to an outer level -/

/-- The model gives up a data segment as R290 step 6 says. -/
theorem outward_eq_kept (r : SegReg) (cpl : Nat) : r.outward cpl = r.kept cpl := by
  unfold SegReg.outward SegReg.kept
  refine if_congr ?_ rfl rfl
  rw [← Bool.and_eq_true, Bool.not_eq_true, Bool.and_right_comm]
  simp only [Bool.and_eq_true, Bool.not_eq_true', decide_eq_true_eq, and_assoc]

/-! ## The common far return -/

/-- The checks of a far return on its code segment pass (R289). -/
theorem checkReturnCs_ok {d : Desc} (hn : isNull sel = false) (hd : DescAt s sel d s1) (hc : d.isCode = true)
    (hle : s.cpl ≤ rpl sel) (hpriv : if d.conforming then d.dpl ≤ rpl sel else d.dpl = rpl sel) (hp : d.p = true)
    (hlim : off.toNat ≤ d.limit) : checkReturnCs sel off s = .ok d s1 := by
  have hlevel : (if d.conforming = true then decide (d.dpl ≤ rpl sel) else d.dpl == rpl sel) = true := by
    split at hpriv <;> simp [*]
  unfold checkReturnCs
  rw [run_get_bind, hn, if_neg Bool.false_ne_true]
  dsimp only
  rw [run_bind_ok (readDesc_ok hd _), hc, run_require_true_bind, decide_eq_true hle, run_require_true_bind, hlevel,
    run_require_true_bind, hp, run_require_true_bind, decide_eq_true hlim]
  rfl

/-- What is popped after EIP and CS gives the new flags, by a walk (R309). -/
def PopsFlags (s : State) (more : State → State → Prop) (flags : M (Eflags → Eflags)) (fl : Eflags → Eflags) : Prop :=
  ∀ a b, SameButWalk s a → more a b → flags a = .ok fl b ∧ SameButWalk a b

/-- A far return of either mode completes, but for its flags (R289, R290, R570). -/
theorem farReturn_ok (hf : PopsFlags s more flags fl) (h : FarReturns s more z k n t bytes) :
    (if s.pe = true then farReturn z k n flags else farReturnReal z k n flags : M Unit) s =
      .ok () { t with eflags := fl t.eflags } := by
  cases h with
  | real off cs s1 s2 s3 hpe h0 h1 h2 hlim =>
    have w2 := h0.walks.trans h1.walks
    obtain ⟨hfl, w⟩ := hf _ _ w2 h2
    have w3 := w2.trans w
    rw [hpe, if_neg Bool.false_ne_true]
    unfold farReturnReal
    rw [run_get_bind, run_bind_ok (peek_ok h0), run_bind_ok (peek_ok h1)]
    dsimp only
    rw [run_bind_ok hfl, hlim, run_require_true_bind, run_modify]
    unfold State.popped State.eipMask State.withEsp State.setSeg
    dsimp only
    rw [w3.segs, w3.gpr]
    rfl
  | same off cs d d1 b s1 s2 s2' s3 s4 hp h0 h1 h2 hn hd hc hr hpriv hpres hlim ha =>
    have w2 := h0.walks.trans h1.walks
    obtain ⟨hfl, w⟩ := hf _ _ w2 h2
    have w2' := w2.trans w
    have hcheck := checkReturnCs_ok hn hd hc (by rw [w2'.cpl, hr]) (hr.symm ▸ hpriv) hpres hlim
    have o := (SameRegs.walk (w2'.trans hd.walks)).trans (.accessed ha)
    rw [pe_of_prot hp, if_pos rfl]
    unfold farReturn
    rw [run_get_bind, run_bind_ok (peek_ok h0), run_bind_ok (peek_ok h1)]
    dsimp only
    rw [run_bind_ok hfl, run_bind_ok hcheck, hr, beq_self_eq_true, if_pos rfl, run_bind_ok (setAccessed_ok ha), run_modify]
    unfold State.popped State.withEsp State.setCs State.setSeg
    dsimp only
    rw [o.segs, o.gpr, attr_ip, ha.entry]
  | outer off cs esp ssw d d1 ss cpl b1 b2 s1 s2 s2' s3 s4 s5 s6 s7 hp h0 h1 h2 hn hd hc hr hlt hpriv hpres hlim he hs hss ha =>
    subst hr
    have w2 := h0.walks.trans h1.walks
    obtain ⟨hfl, w⟩ := hf _ _ w2 h2
    have w2' := w2.trans w
    have hcheck := checkReturnCs_ok hn hd hc (by rw [w2'.cpl]; exact Nat.le_of_lt hlt) hpriv hpres hlim
    have o := (SameRegs.walk ((w2'.trans hd.walks).trans (he.walks.trans hs.walks))).trans
      ((SameRegs.stackSegment hss).trans (.accessed ha))
    have hne : (rpl (cs.setWidth 16) == s.cpl) = false := beq_eq_false_iff_ne.mpr (Nat.ne_of_gt hlt)
    rw [pe_of_prot hp, if_pos rfl]
    unfold farReturn
    rw [run_get_bind, run_bind_ok (peek_ok h0), run_bind_ok (peek_ok h1)]
    dsimp only
    rw [run_bind_ok hfl, run_bind_ok hcheck, hne, if_neg Bool.false_ne_true, run_bind_ok (peek_ok he),
      run_bind_ok (peek_ok hs), run_bind_ok (checkReturnSs_ok hss), run_bind_ok (setAccessed_ok ha), run_modify]
    unfold State.setCs State.setSeg Segs.outward
    dsimp only [Segs.set]
    simp only [outward_eq_kept]
    rw [o.segs, o.gpr, attr_ip, ha.entry]

/-- A far return changes neither EFLAGS, which its flags item gives, nor the pending events. -/
theorem FarReturns.keeps (hm : ∀ a b, more a b → SameButWalk a b) (h : FarReturns s more z k n t bytes) :
    t.eflags = s.eflags ∧ t.pend = s.pend := by
  cases h with
  | real _ _ _ _ _ _ h0 h1 h2 =>
    have w2 := h0.walks.trans h1.walks
    have w := w2.trans (hm _ _ h2)
    exact ⟨w.eflags, w.pend⟩
  | same _ _ _ _ _ _ _ _ _ _ _ h0 h1 h2 _ hd _ _ _ _ _ ha =>
    have w2 := h0.walks.trans h1.walks
    have o := (SameRegs.walk ((w2.trans (hm _ _ h2)).trans hd.walks)).trans (.accessed ha)
    exact ⟨o.eflags, o.pend_eq⟩
  | outer _ _ _ _ _ _ _ _ _ _ _ _ _ _ _ _ _ _ _ h0 h1 h2 _ hd _ _ _ _ _ _ he hs hss ha =>
    have w2 := h0.walks.trans h1.walks
    have o := (SameRegs.walk (((w2.trans (hm _ _ h2)).trans hd.walks).trans (he.walks.trans hs.walks))).trans
      ((SameRegs.stackSegment hss).trans (.accessed ha))
    exact ⟨o.eflags, o.pend_eq⟩

/-! ## Far RET -/

/-- Far RET pops nothing for the flags and clears RF (R24). -/
theorem popsFlags_none (s : State) :
    PopsFlags s (fun a b => b = a) (pure fun f => { f with rf := false }) fun f => { f with rf := false } := by
  rintro a b - rfl
  exact ⟨rfl, .refl _⟩

theorem retFarBody_ok (h : FarReturns s (fun a b => b = a) s.osz 2 n t bytes) : retFarBody n s = .ok () (t.goto t.eip) :=
  farReturn_ok (popsFlags_none s) h

theorem FarReturns.frame_none (h : FarReturns s (fun a b => b = a) z k n t bytes) : MemFrame s t bytes :=
  (h.touches fun a b (e : b = a) => e ▸ SameButWalk.refl b).frame

/-- Settles O26: both forms are the far return without an item for the flags. -/
theorem farReturnCompletes : Obligations.FarReturnCompletes :=
  ⟨fun _ _ _ hl h => ⟨runJump_ok hl (retFarBody_ok h), h.frame_none⟩,
    fun _ _ _ _ hl h => ⟨runJump_ok hl (retFarBody_ok h), h.frame_none⟩⟩

/-! ## The end of a handler -/

/-- The exception that waits for the return of the handler entered last is the first one due (R409, log 27). -/
theorem dueException_eq (p : Pending) : p.dueException = (p.held.filterMap dueException).head? := by
  rw [List.head?_filterMap]
  unfold Pending.dueException
  congr 1
  funext ⟨h, m⟩
  cases h with
  | exception v c => match m with
    | 0 | 1 => rfl
    | m + 2 => rfl
  | _ => rfl

theorem due_eq (p : Pending) (x : Held) : p.due x = decide (∃ h ∈ p.held, h.1 = x ∧ h.2 ≤ 1) := by
  unfold Pending.due
  rw [Bool.eq_iff_iff]
  simp

/-- The events that still wait, each for one handler fewer. -/
theorem held_released (l : List (Held × Nat)) :
    (l.filter fun x => decide (1 < x.2)).map (fun x => (x.1, x.2 - 1)) =
      l.filterMap fun h => if h.2 ≤ 1 then none else some (h.1, h.2 - 1) := by
  induction l with
  | nil => rfl
  | cons h l ih =>
    by_cases hle : h.2 ≤ 1
    · rw [List.filter_cons_of_neg (by simpa using hle), List.filterMap_cons, if_pos hle, ih]
    · rw [List.filter_cons_of_pos (by simpa using hle), List.map_cons, List.filterMap_cons, if_neg hle, ih]

/-- What the end of a handler makes of the pending events (R406, R409). -/
theorem released_eq (p : Pending) : p.released = afterHandler p := by
  have hor (b : Bool) (q : Prop) [Decidable q] : (b || decide q) = decide (b = true ∨ q) := by cases b <;> simp
  unfold Pending.released afterHandler
  rw [dueException_eq, due_eq, due_eq, held_released, hor, hor]

theorem run_handlerDone (s : State) : handlerDone s = .ok () { s with pend := afterHandler s.pend } := by
  unfold handlerDone
  rw [run_modify, released_eq]

/-! ## IRET -/

/-- The filter of IRET on a popped image (R309). -/
theorem restoreFlags_iret (is16 : Bool) (cpl : Nat) (f : Eflags) (image : Word) :
    restoreFlags true is16 cpl f image = iretFlags is16 cpl f image := by
  unfold restoreFlags iretFlags popfFlags
  simp

/-- IRET's third item gives the flags; an image with VM = 1 at level 0 is refused only with 32 bits in protected mode (R296). -/
theorem popsFlags_iret {image : Word} (h : ¬ (s.pe = true ∧ z = .d ∧ bit image 17 = true ∧ s.cpl = 0)) :
    PopsFlags s (fun a b => StackItem a z (2 * z.bytes) image b) (popFlags z) fun f => iretFlags (z == .w) s.cpl f image := by
  intro a b w hi
  have hc : (s.pe && z == .d && bit image 17 && s.cpl == 0) = false := by
    rw [← Bool.not_eq_true]
    simpa only [Bool.and_eq_true, beq_iff_eq, and_assoc] using h
  refine ⟨?_, hi.walks⟩
  unfold popFlags
  rw [run_get_bind, run_bind_ok (peek_ok hi), w.pe, w.cpl, hc]
  simp only [restoreFlags_iret]
  rfl

/-- A choice between two computations, followed by the same rest. -/
theorem run_either {α β : Type} {c : Prop} [Decidable c] {x y : M α} {f : α → M β} {a : α}
    (h : (if c then x else y : M α) s = .ok a t) : (if c then x >>= f else y >>= f) s = f a t := by
  by_cases hc : c
  · rw [if_pos hc] at h ⊢
    exact run_bind_ok h
  · rw [if_neg hc] at h ⊢
    exact run_bind_ok h

/-- IRET outside a nested task (R296). -/
theorem iretBody_return {image : Word} (hnt : s.pe = true → s.eflags.nt = false)
    (hvm : ¬ (s.pe = true ∧ s.osz = .d ∧ bit image 17 = true ∧ s.cpl = 0))
    (h : FarReturns s (fun a b => StackItem a s.osz (2 * s.osz.bytes) image b) s.osz 3 0 t bytes) :
    iretBody s = .ok () { t with
      eflags := iretFlags (s.osz == .w) s.cpl s.eflags image, pend := afterHandler s.pend } := by
  have hc : (s.pe && s.eflags.nt) = false := by
    cases hpe : s.pe with
    | false => rfl
    | true => exact hnt hpe
  obtain ⟨hfl, hpend⟩ := h.keeps fun _ _ hi => hi.walks
  have hret := farReturn_ok (popsFlags_iret hvm) h
  rw [hfl] at hret
  unfold iretBody
  rw [run_get_bind, hc, if_neg Bool.false_ne_true, ← hpend]
  exact (run_either hret).trans (run_handlerDone _)

/-- IRET in a nested task (R296, R321). -/
theorem iretBody_task {link : Nat} (hp : s.prot = true) (hnt : s.eflags.nt = true) (hlink : SysItem s s.sys.tr.base 2 link s1)
    (hs : Switches .iret (BitVec.ofNat 16 link) s.resumeNext false { s1 with pend := afterHandler s1.pend } t bytes) :
    iretBody s = .ok () t := by
  unfold iretBody
  rw [run_get_bind, pe_of_prot hp, hnt, Bool.and_self, if_pos rfl]
  rw [run_bind_ok (sysRead_ok hlink), run_bind_ok (run_handlerDone s1)]
  exact run_bind_ok (taskSwitch_ok hs)

/-- Settles O27: outside a nested task IRET is a far return that pops flags, in one it is a task switch; the handler ends in
both. -/
theorem iretCompletes : Obligations.IretCompletes := by
  refine ⟨fun s t image bytes hl hmode hvm h => ⟨?_, ?_⟩, fun s s1 t link bytes hl hp hnt hlink hs => ⟨?_, ?_⟩⟩
  · exact runJump_ok hl (iretBody_return (fun hpe => (hmode hpe).1) hvm h)
  · exact (h.touches fun _ _ hi => hi.walks).frame
  · exact runJump_ok hl (iretBody_task hp hnt hlink hs)
  · have start : Touches s { s1 with pend := afterHandler s1.pend } [] := (Touches.walk hlink.walks).congr rfl rfl rfl
    exact (start.trans hs.touches).frame

end Sys2Proof.Machine
end

section
/-! PROOFS. What LOCK does, and the instructions on caches, waiting and SMM: the shape of every instruction first, then
what the bodies of the last three groups answer once their checks are settled. -/
namespace Sys2Proof.Machine

variable {s : State}

/-! ## LOCK -/

/-- Every instruction but the prefixes runs a body, before which LOCK is allowed in exactly the forms of R351, or is a software
interrupt. -/
theorem exec_eq_runJump_or_softInt (i : Instr) (s : State) (hp : i ∉ prefixEffects.map Prod.fst) :
    (∃ body, exec i s = runJump (mayLock i) body s) ∨ ∃ v, mayLock i = false ∧ exec i s = softInt v s := by
  cases i with
  | lock | repne | rep | segCs | segSs | segDs | segEs | segFs | segGs | opsize | addrsize => exact absurd (by decide) hp
  | int3 => exact .inr ⟨_, rfl, rfl⟩
  | intImm8 v => exact .inr ⟨v, rfl, rfl⟩
  | into =>
    cases hof : s.eflags.ovf with
    | true => exact .inr ⟨4#8, rfl, if_pos hof⟩
    | false => exact .inl ⟨_, if_neg (ne_true_of_eq_false hof)⟩
  | _ => exact .inl ⟨_, rfl⟩

/-- Settles O49: an instruction that LOCK may not precede raises #UD before its body, a software interrupt before its delivery. -/
theorem lockTraps : Obligations.LockTraps := by
  intro i s hl hi hp
  have hnot : i ∉ prefixEffects.map Prod.fst := fun hmem => by
    obtain ⟨p, hin, rfl⟩ := List.mem_map.mp hmem
    exact hp p hin rfl
  obtain ⟨body, hexec⟩ | ⟨v, -, hexec⟩ := exec_eq_runJump_or_softInt i s hnot
  · rw [hexec]
    exact runJump_lock (by rw [hl, hi]; rfl)
  · rw [hexec]
    exact if_pos hl

/-! ## INVLPG and INVD -/

/-- The translations that INVLPG leaves are those of other pages (R181). -/
theorem flushPage_eq (s : State) (lin : Word) : s.flushPage lin =
    { s with tlb := s.tlb.filter fun e => decide (lin.toNat / 2 ^ e.bits ≠ e.page.toNat / 2 ^ e.bits) } := by
  have hkeep : (fun e : TlbEntry => !e.covers lin) =
      fun e => decide (lin.toNat / 2 ^ e.bits ≠ e.page.toNat / 2 ^ e.bits) := by
    funext e
    rw [decide_not]
    rfl
  rw [State.flushPage, hkeep]

/-- Each byte of a memory is that of `mem` or, where the type is WB, that of the written-back copy `wb` (R366, D19). -/
def KeptOrLost (wbType : Nat → Bool) (mem wb m : Memory) : Prop :=
  ∀ a, m.read a = mem.read a ∨ wbType a = true ∧ m.read a = wb.read a

/-- One more byte of WB memory may go back to its written-back value. -/
theorem KeptOrLost.write {wbType : Nat → Bool} {mem wb m : Memory} {a : Nat} (h : KeptOrLost wbType mem wb m)
    (ha : wbType a = true) : KeptOrLost wbType mem wb (m.write a (wb.read a)) := fun x => by
  rw [Memory.read_write]
  by_cases hx : x = a
  · rw [if_pos hx, hx]
    exact .inr ⟨ha, rfl⟩
  · rw [if_neg hx]
    exact h x

theorem keptOrLost_invdMemory (k : Nat) (wbType : Nat → Bool) (mem wb : Memory) :
    KeptOrLost wbType mem wb (invdMemory k wbType mem wb) := by
  unfold invdMemory
  split
  · exact fun _ => .inl rfl
  · refine List.foldlRecOn _ _ (fun _ => .inl rfl) fun m hm a _ => ?_
    split
    next hlost =>
      simp only [Bool.and_eq_true] at hlost
      obtain ⟨⟨ha, -⟩, -⟩ := hlost
      exact hm.write ha
    next => exact hm

/-- Settles O43: the level check passes, and each body is one update of the state. -/
theorem cacheAndTlbInstructions : Obligations.CacheAndTlbInstructions := by
  intro m s hl h0
  refine ⟨fun hf => ?_, runInsn_cpl0 hl h0 rfl, ?_⟩
  · intro lin
    rw [← flushPage_eq s lin]
    exact runInsn_checked_cpl0 hl (run_from486_ok hf) h0 rfl
  · refine ⟨invdMemory s.free (fun a => s.memType a == .wb) s.mem s.memWb, fun a => ?_, runInsn_cpl0 hl h0 rfl⟩
    exact (keptOrLost_invdMemory _ _ _ _ a).imp_right (And.imp_left eq_of_beq)

/-! ## HLT, MONITOR, MWAIT -/

/-- Above level 0 MONITOR and MWAIT are #UD (R382, R383). -/
theorem run_requireMonitor_ud (h : s.cpl ≠ 0) : requireMonitor s = .error (.raise .ud) s := by
  unfold requireMonitor
  rw [run_get_bind, beq_eq_false_iff_ne.mpr h, Bool.and_false]
  rfl

/-- At level 0 MONITOR and MWAIT ask ECX to be 0 (R382, R383). -/
theorem run_requireMonitor (hm : s.cfg.hasMonitor = true) (h0 : s.cpl = 0) :
    requireMonitor s = require (s.gpr.ecx == 0#32) (.gp 0#16) s := by
  unfold requireMonitor
  rw [run_get_bind, hm, h0]
  rfl

theorem run_requireMonitor_gp (hm : s.cfg.hasMonitor = true) (h0 : s.cpl = 0) (hc : s.gpr.ecx ≠ 0#32) :
    requireMonitor s = .error (.raise (.gp 0#16)) s := by
  rw [run_requireMonitor hm h0, beq_eq_false_iff_ne.mpr hc, run_require_false]

theorem run_requireMonitor_ok (hm : s.cfg.hasMonitor = true) (h0 : s.cpl = 0) (hc : s.gpr.ecx = 0#32) :
    requireMonitor s = .ok () s := by
  rw [run_requireMonitor hm h0, beq_iff_eq.mpr hc, run_require_true]

/-- MONITOR and MWAIT raise what the checks they share raise. -/
theorem exec_monitor_mwait_raise {e : Exc} (hl : s.lockOk false) (h : requireMonitor s = .error (.raise e) s) :
    exec .monitor s = takeException e s ∧ exec .mwait s = takeException e s :=
  ⟨runInsn_raise hl (run_bind_error h), runInsn_raise hl (run_bind_error h)⟩

/-- MONITOR arms the line of the byte whose checks pass (R382). -/
theorem run_monitorBody {s1 : State} {a : Nat} (hc : requireMonitor s = .ok () s)
    (ha : dataAddrs (s.ctx.pfx.seg.getD .ds) s.gpr.eax 1 1 .read s = .ok [a] s1) :
    monitorBody s = .ok () { s1 with act := { s1.act with
      monitor := some ⟨a / s.cfg.monitorLineMin * s.cfg.monitorLineMin, s.cfg.monitorLineMin⟩ } } := by
  unfold monitorBody
  rw [run_bind_ok hc, run_get_bind, run_bind_ok ha]
  rfl

/-- Settles O44: HLT checks the level alone; MONITOR and MWAIT stop at the checks they share, or go on to arm or to wait. -/
theorem waitInstructions : Obligations.WaitInstructions := by
  intro s hl
  refine ⟨fun h0 => runInsn_cpl0 hl h0 rfl, fun _ h => exec_monitor_mwait_raise hl (run_requireMonitor_ud h),
    fun hm h0 hc => exec_monitor_mwait_raise hl (run_requireMonitor_gp hm h0 hc), fun hm h0 hc => ?_⟩
  have hcheck := run_requireMonitor_ok hm h0 hc
  exact ⟨runInsn_done hl (run_bind_ok hcheck), fun a s1 ha =>
    completes_of (runInsn_done hl (run_monitorBody hcheck ha)) (walks_of_dataAddrs ha) (memFrame_same rfl rfl)⟩

/-! ## RSM -/

/-- RSM in SMM brings back what the entry saved (R390; log 19). -/
theorem run_rsmBody_some {p : Proc} (h : s.smm = some p) : rsmBody s = .ok ()
    { s with gpr := p.gpr, eip := p.eip, eflags := p.eflags, segs := p.segs, sys := p.sys, smm := none } := by
  unfold rsmBody
  rw [run_get_bind, h]
  rfl

/-- Outside SMM RSM is #UD (R390). -/
theorem run_rsmBody_none (h : s.smm = none) : rsmBody s = .error (.raise .ud) s := by
  unfold rsmBody
  rw [run_get_bind, h]
  rfl

/-- Settles O45: RSM has no check but whether the processor is in SMM. -/
theorem rsmRestores : Obligations.RsmRestores := fun _ hl =>
  ⟨fun _ h => runJump_ok hl (run_rsmBody_some h), fun h => runJump_raise hl (run_rsmBody_none h)⟩

end Sys2Proof.Machine
end

section
/-! PROOFS. Arithmetic and logic: the eight operations, TEST and the one-operand operations, each as the body of its forms and what
the body answers at plain operands. -/
namespace Sys2Proof.Machine

variable {s s1 : State} {p : Place}

/-! ## Register operands -/

/-- A register operand reads the same in any state with the same registers (R601). -/
theorem run_regVal (z : Sz) (r : Reg) (hg : s1.gpr = s.gpr) : regVal z r s1 = .ok (s.gpr.read z r) s1 := by
  rw [← hg]
  rfl

theorem run_regVal8 (r : Reg8) (hg : s1.gpr = s.gpr) : regVal8 r s1 = .ok (s.gpr.read8 r) s1 := by
  rw [← hg]
  rfl

/-! ## The two-operand operations -/

/-- The operation that a form runs, as the model's instructions name it (R610). -/
def AluForm.body (o : AluOp) : AluForm → M Unit
  | .rm8R8 d r => aluRm8R8 o d r
  | .rmR d r => aluRmR o d r
  | .rm8Imm8 d v => aluRm8Imm8 o d v
  | .rmImm d v => aluRmImm o d v
  | .rmImm8 d v => aluRmImm8 o d v
  | .alImm8 v => aluRm8Imm8 o (.reg .al) v
  | .eaxImm v => aluRmImm o (.reg .eax) v

/-- The computation that gives the source of a form, in a state of the given operand size. -/
def AluForm.source (s : State) : AluForm → M Word
  | .rm8R8 _ r => regVal8 r
  | .rmR _ r => regVal s.osz r
  | .rm8Imm8 _ v | .alImm8 v => pure (v.setWidth 32)
  | .rmImm _ v | .eaxImm v => pure (s.osz.trunc v)
  | .rmImm8 _ v => pure (immSext s.osz v)

/-- The source of a form is read after the checks of its destination, which leave the registers. -/
theorem AluForm.run_source (f : AluForm) (hg : s1.gpr = s.gpr) : f.source s s1 = .ok (f.src s) s1 := by
  cases f with
  | rm8R8 d r => exact run_regVal8 r hg
  | rmR d r => exact run_regVal s.osz r hg
  | _ => rfl

theorem AluForm.body_eq (o : AluOp) (f : AluForm) (s : State) :
    f.body o s = aluOp o (f.size s) (fun k => f.dst s k) (f.source s) s := by
  cases f <;> rfl

/-- LOCK may precede every operation but CMP, in the forms with a destination in memory (R351). -/
theorem exec_aluForm (o : AluOp) (f : AluForm) (s : State) :
    exec (f.instr o) s = runInsn (f.isMem && o != .cmp) (f.body o) s := by
  have hlock : (f.isMem && o != .cmp) = if o = .cmp then false else f.isMem := by
    by_cases h : o = .cmp <;> simp [h]
  rw [hlock]
  cases o <;> cases f <;> rfl

theorem AluForm.walks_dst {f : AluForm} {k : Access} (h : f.dst s k s = .ok p s1) : SameButWalk s s1 := by
  cases f with
  | rm8R8 d _ | rm8Imm8 d _ => exact walks_of_place8 h
  | rmR d _ | rmImm d _ | rmImm8 d _ => exact walks_of_place h
  | alImm8 _ => exact walks_of_place8 (k := k) (o := .reg .al) h
  | eaxImm _ => exact walks_of_place (k := k) (o := .reg .eax) h

/-- An operation stores to the bytes of its destination, CMP to none. -/
theorem memFrame_aluDone (o : AluOp) (z : Sz) (p : Place) (b : Word) (s : State) :
    MemFrame s (aluDone o z p b s) (aluBytes o p) := by
  unfold aluDone aluBytes
  cases o == .cmp with
  | true => exact memFrame_same rfl rfl
  | false => exact memFrame_put (u := s.used _) p _ rfl rfl rfl (put_cfg p _ _)

/-- An instruction whose body is an operation on plain operands completes. -/
theorem completes_aluOp {o : AluOp} {z : Sz} {i : Instr} {lockable : Bool} {body : M Unit} {dst : Access → M Place}
    {src : M Word} {s0 s s1 : State} {p : Place} {b : Word} (hi : exec i s0 = runInsn lockable body s0)
    (hl : s0.lockOk lockable) (hb : body s0 = aluOp o z dst src s0) (hd : dst o.access s0 = .ok p s)
    (hp : p.plain s) (hs : src s = .ok b s1) (hw : SameButWalk s0 s1) (hp1 : p.plain s1) :
    Completes i s0 s1 (aluDone o z p b s1) (aluBytes o p) :=
  completes_of (hi.trans (runInsn_done hl (hb.trans (aluOp_ok hd hp hs hp1)))) hw (memFrame_aluDone o z p b s1)

/-- Settles O1: one body for every form, its source read after the checks of the destination. -/
theorem aluToRmCompletes : Obligations.AluToRmCompletes := by
  intro o f s s1 p hd hp hl
  have hw := AluForm.walks_dst hd
  exact completes_aluOp (exec_aluForm o f s) hl (f.body_eq o s) hd hp (f.run_source hw.gpr) hw hp

/-- LOCK may not precede an operation with a register destination (R351). -/
theorem exec_r8Rm8 (o : AluOp) (r : Reg8) (src : RM Reg8) (s : State) :
    exec (o.r8Rm8 r src) s = runInsn false (aluR8Rm8 o r src) s := by
  cases o <;> rfl

theorem exec_rRm (o : AluOp) (r : Reg) (src : RM Reg) (s : State) :
    exec (o.rRm r src) s = runInsn false (aluRRm o r src) s := by
  cases o <;> rfl

/-- An operation on a register stores to no byte of memory. -/
theorem aluBytes_reg8 (o : AluOp) (r : Reg8) : aluBytes o (.reg8 r) = [] := by
  cases o <;> rfl

theorem aluBytes_reg (o : AluOp) (z : Sz) (r : Reg) : aluBytes o (.reg z r) = [] := by
  cases o <;> rfl

/-- Settles O2: the destination has no checks, the source's are the only ones. -/
theorem aluToRegCompletes : Obligations.AluToRegCompletes := by
  refine ⟨fun o r src s s1 p hs hp hl => ?_, fun o r src s s1 p hs hp hl => ?_⟩
  · rw [← aluBytes_reg8 o r]
    exact completes_aluOp (dst := fun _ => pure (.reg8 r)) (exec_r8Rm8 o r src s) hl rfl rfl trivial (readRM8_ok hs hp)
      (walks_of_place8 hs) trivial
  · rw [← aluBytes_reg o s.osz r]
    exact completes_aluOp (dst := fun _ => pure (.reg s.osz r)) (exec_rRm o r src s) hl rfl rfl trivial (readRM_ok hs hp)
      (walks_of_place hs) trivial

/-! ## TEST -/

/-- TEST runs the same operands in each form that it has (R617). -/
theorem exec_test {f : AluForm} {i : Instr} {t : State} (hi : f.test = some i) (hl : s.lockOk false)
    (h : testOp (f.size s) (f.dst s .read) (f.source s) s = .ok () t) : exec i s = .next t.done := by
  cases f with
  | rmImm8 d v => cases hi
  | _ => cases hi; exact runInsn_done hl h

/-- Settles O3: the destination is only read, the flags are those of AND. -/
theorem testCompletes : Obligations.TestCompletes := by
  intro f i s s1 p hi hd hp hl
  have hw := AluForm.walks_dst hd
  have hbody := testOp_ok (z := f.size s) hd (f.run_source hw.gpr) hp
  rw [hw.eflags] at hbody
  exact completes_of (exec_test hi hl hbody) hw (memFrame_same rfl rfl)

/-! ## The one-operand operations -/

/-- NEG's borrow is "the operand was not 0" (R619). -/
theorem neg_flags (z : Sz) (a : Word) (f : Eflags) :
    subFlags z 0#32 a false f = { subFlags z 0#32 a false f with cf := a != 0#32 } := by
  have hcf : (subFlags z 0#32 a false f).cf = (a != 0#32) := by
    rw [Bool.eq_iff_iff, bne_iff_ne]
    show decide ((0#32).toNat < a.toNat + 0) = true ↔ _
    rw [decide_eq_true_iff, ne_eq, BitVec.toNat_eq]
    simp [Nat.pos_iff_ne_zero]
  rw [← hcf]

/-- The operation that a one-operand instruction runs, as the model's instructions name it (R618, R619). -/
def UnOp.run (o : UnOp) (z : Sz) (dst : M Place) : M Unit :=
  match o with
  | .inc => incOp z dst
  | .dec => decOp z dst
  | .not => notOp z dst
  | .neg => negOp z dst

/-- Each runs the common body; DEC and NEG subtract without a borrow in. -/
theorem UnOp.run_eq (o : UnOp) (z : Sz) (dst : M Place) : o.run z dst = unaryOp dst (o.result z) (o.flags z) := by
  have hsub (a b : Word) : subRes z a b false = z.trunc (a - b) := congrArg z.trunc (BitVec.sub_zero _)
  cases o with
  | inc => rfl
  | dec =>
    unfold UnOp.run decOp
    simp only [hsub]
    rfl
  | not => rfl
  | neg =>
    unfold UnOp.run negOp
    simp only [hsub, BitVec.zero_sub]
    rw [funext fun a => funext fun f => neg_flags z a f]
    rfl

/-- A one-operand instruction runs its operation on its operand in each form that it has; LOCK may precede it with an operand in
memory (R351). -/
theorem exec_unOp {o : UnOp} {f : UnForm} {i : Instr} {t : State} (hi : o.instr f = some i) (hl : s.lockOk f.isMem)
    (h : o.run (f.size s) (f.dst s) s = .ok () t) : exec i s = .next t.done := by
  cases o <;> cases f <;> cases hi <;> exact runInsn_done hl h

theorem UnForm.walks_dst {f : UnForm} (h : f.dst s s = .ok p s1) : SameButWalk s s1 := by
  cases f with
  | rm8 d => exact walks_of_place8 h
  | rm d => exact walks_of_place h
  | ofReg q => exact walks_of_place (k := .write) (o := .reg q) h

/-- Settles O4: the operand is read, written with the result, and the flags follow from its old value. -/
theorem unaryCompletes : Obligations.UnaryCompletes := by
  intro o f i s s1 p hi hd hp hl
  have hw := UnForm.walks_dst hd
  have hbody := unaryOp_ok (res := o.result (f.size s)) (fl := o.flags (f.size s)) hd hp
  rw [← o.run_eq, hw.eflags] at hbody
  exact completes_of (exec_unOp hi hl hbody) hw (memFrame_put p _ rfl rfl rfl (put_cfg p s1 _))

end Sys2Proof.Machine
end

section
/-! PROOFS. The flags of a sum, a difference and a bitwise result, at operands that fit their width: signed overflow is a fact about
numbers below twice a bound, and the other flags follow from the result's value. -/
namespace Sys2Proof.Machine

variable {z : Sz} {a b r : Word}

/-! ## Signed overflow -/

/-- A number below `2 * h` read as signed: from `h` on it is negative. -/
def signedAt (h n : Nat) : Int := if n < h then n else n - 2 * h

/-- A sum overflows when its operands have one sign and its result the other (R602). -/
theorem sum_overflows_iff {h a b r c : Nat} (ha : a < 2 * h) (hb : b < 2 * h) (hc : c ≤ 1)
    (hr : r = if a + b + c < 2 * h then a + b + c else a + b + c - 2 * h) :
    (h ≤ a ↔ h ≤ b) ∧ ¬ (h ≤ r ↔ h ≤ a) ↔ signedAt h r ≠ signedAt h a + signedAt h b + c := by
  unfold signedAt
  split at hr <;> omega

/-- A difference overflows when its operands differ in sign and its result has the sign of the second (R602). -/
theorem difference_overflows_iff {h a b r c : Nat} (ha : a < 2 * h) (hb : b < 2 * h) (hc : c ≤ 1)
    (hr : r = if a < b + c then 2 * h + a - b - c else a - b - c) :
    ¬ (h ≤ a ↔ h ≤ b) ∧ ¬ (h ≤ r ↔ h ≤ a) ↔ signedAt h r ≠ signedAt h a - signedAt h b - c := by
  unfold signedAt
  split at hr <;> omega

/-! ## Widths -/

theorem Sz.bits_le (z : Sz) : z.bits ≤ 32 := by
  cases z <;> decide

/-- The range of a width is twice its half, from which on the sign bit is set. -/
theorem Sz.two_pow_bits (z : Sz) : 2 ^ z.bits = 2 * 2 ^ (z.bits - 1) := by
  cases z <;> rfl

theorem Sz.signed_eq (z : Sz) (a : Word) : z.signed a = signedAt (2 ^ (z.bits - 1)) a.toNat := by
  cases z <;> rfl

/-- A value cut to a width is taken modulo 2^n. -/
theorem Sz.trunc_toNat (z : Sz) (v : Word) : (z.trunc v).toNat = v.toNat % 2 ^ z.bits := by
  rw [Sz.trunc, BitVec.toNat_ofNat]
  exact Nat.mod_eq_of_lt ((Nat.mod_le _ _).trans_lt v.isLt)

theorem Sz.trunc_lt (z : Sz) (v : Word) : (z.trunc v).toNat < 2 ^ z.bits := by
  rw [z.trunc_toNat]
  exact Nat.mod_lt _ (Nat.two_pow_pos _)

theorem Sz.msb_iff (h : a.toNat < 2 ^ z.bits) : z.msb a = true ↔ 2 ^ (z.bits - 1) ≤ a.toNat := by
  rw [Sz.msb, ← BitVec.testBit_toNat]
  refine ⟨Nat.ge_two_pow_of_testBit, fun hle => Nat.testBit_of_two_pow_le_and_two_pow_add_one_gt hle ?_⟩
  rwa [Nat.pow_succ', ← z.two_pow_bits]

theorem Sz.msb_iff_signed_neg (h : r.toNat < 2 ^ z.bits) : z.msb r = true ↔ z.signed r < 0 := by
  rw [Sz.msb_iff h, z.signed_eq]
  rw [z.two_pow_bits] at h
  unfold signedAt
  omega

/-- Whether two values have the same sign. -/
theorem Sz.msb_eq_iff (ha : a.toNat < 2 ^ z.bits) (hb : b.toNat < 2 ^ z.bits) :
    z.msb a = z.msb b ↔ (2 ^ (z.bits - 1) ≤ a.toNat ↔ 2 ^ (z.bits - 1) ≤ b.toNat) := by
  rw [Bool.eq_iff_iff, Sz.msb_iff ha, Sz.msb_iff hb]

/-! ## ZF, SF and PF -/

/-- How many elements of a list satisfy a test is odd when the exclusive or of the test over the list is 1. -/
theorem length_filter_odd {α : Type} (p : α → Bool) (l : List α) :
    (l.filter p).length % 2 = (l.foldr (fun x acc => (p x).xor acc) false).toNat := by
  induction l with
  | nil => rfl
  | cons x l ih =>
    rw [List.foldr_cons, List.filter_cons]
    generalize l.foldr _ false = acc at ih ⊢
    cases p x with
    | false => simpa using ih
    | true =>
      rw [if_pos rfl, List.length_cons, Nat.add_mod, ih]
      cases acc <;> rfl

/-- PF is set when the low eight bits hold an even number of ones (R602). -/
theorem parityEven_iff (r : Word) : parityEven r = true ↔ ones8 r % 2 = 0 := by
  have hodd := length_filter_odd (fun k => r.getLsbD k) (List.range 8)
  have hpar : parityEven r = !((List.range 8).foldr (fun k acc => (r.getLsbD k).xor acc) false) := by
    simp [parityEven, List.range_succ]
  rw [hpar, ones8, hodd]
  cases (List.range 8).foldr (fun k acc => (r.getLsbD k).xor acc) false <;> decide

/-- ZF, SF and PF are those of a result, and no flag but the six status flags differs (R602). -/
def ResultFlags (z : Sz) (f : Eflags) (r : Word) (g : Eflags) : Prop :=
  (g.zf = true ↔ r.toNat = 0) ∧ (g.sf = true ↔ z.signed r < 0) ∧ (g.pf = true ↔ ones8 r % 2 = 0) ∧
    { g with cf := f.cf, pf := f.pf, af := f.af, zf := f.zf, sf := f.sf, ovf := f.ovf } = f

theorem resultFlags_ok (f : Eflags) (h : r.toNat < 2 ^ z.bits) (c o af : Bool) :
    ResultFlags z f r { resultFlags z r f with cf := c, ovf := o, af := af } := by
  refine ⟨?_, Sz.msb_iff_signed_neg h, parityEven_iff r, rfl⟩
  show (r == 0#32) = true ↔ _
  rw [beq_iff_eq, BitVec.toNat_eq]
  rfl

/-! ## Sums -/

theorem b2n_le (c : Bool) : b2n c ≤ 1 := by
  cases c <;> decide

theorem addRes_toNat (z : Sz) (a b : Word) (c : Bool) :
    (addRes z a b c).toNat = (a.toNat + b.toNat + b2n c) % 2 ^ z.bits := by
  rw [addRes, z.trunc_toNat, BitVec.toNat_ofNat]
  exact Nat.mod_mod_of_dvd _ (pow_dvd_pow 2 z.bits_le)

/-- A number below twice a modulus is reduced by at most one subtraction. -/
theorem mod_of_lt_two_mul {n m : Nat} (h : n < 2 * m) : n % m = if n < m then n else n - m := by
  split
  · exact Nat.mod_eq_of_lt ‹_›
  · rw [Nat.mod_eq_sub_mod (Nat.not_lt.mp ‹_›), Nat.mod_eq_of_lt (by omega)]

theorem addFlags_ovf_iff (ha : a.toNat < 2 ^ z.bits) (hb : b.toNat < 2 ^ z.bits) (c : Bool) (f : Eflags) :
    (addFlags z a b c f).ovf = true ↔ z.signed (addRes z a b c) ≠ z.signed a + z.signed b + (b2n c : Int) := by
  have hr : (addRes z a b c).toNat < 2 ^ z.bits := z.trunc_lt _
  have hc := b2n_le c
  have hsum := addRes_toNat z a b c
  rw [mod_of_lt_two_mul (by omega)] at hsum
  have hovf : (addFlags z a b c f).ovf = (z.msb a == z.msb b && z.msb (addRes z a b c) != z.msb a) := rfl
  rw [hovf, Bool.and_eq_true, beq_iff_eq, bne_iff_ne, ne_eq, Sz.msb_eq_iff ha hb, Sz.msb_eq_iff hr ha, z.signed_eq,
    z.signed_eq, z.signed_eq]
  rw [z.two_pow_bits] at ha hb hsum
  exact sum_overflows_iff ha hb hc hsum

/-! ## Differences -/

theorem toNat_sub_add_modEq (x y : Word) : (x - y).toNat + y.toNat ≡ x.toNat [MOD 2 ^ 32] := by
  unfold Nat.ModEq
  rw [← BitVec.toNat_add, BitVec.sub_add_cancel, Nat.mod_eq_of_lt x.isLt]

/-- The result and what was subtracted give back the first operand modulo 2^n. -/
theorem subRes_add_modEq (z : Sz) (a b : Word) (c : Bool) :
    (subRes z a b c).toNat + b2n c + b.toNat ≡ a.toNat [MOD 2 ^ z.bits] := by
  have hc : (if c then 1#32 else 0#32).toNat = b2n c := by cases c <;> rfl
  have hmod : (a - b - (if c then 1#32 else 0#32)).toNat + b2n c + b.toNat ≡ a.toNat [MOD 2 ^ 32] :=
    ((hc ▸ toNat_sub_add_modEq (a - b) _).add_right _).trans (toNat_sub_add_modEq a b)
  rw [subRes, z.trunc_toNat]
  exact (((Nat.mod_modEq _ _).add_right _).add_right _).trans (hmod.of_dvd (pow_dvd_pow 2 z.bits_le))

/-- A difference of two values of a width takes one 2^n to stay positive, if it borrows (R602). -/
theorem subRes_eq_ite (ha : a.toNat < 2 ^ z.bits) (hb : b.toNat < 2 ^ z.bits) (c : Bool) :
    (subRes z a b c).toNat =
      if a.toNat < b.toNat + b2n c then 2 ^ z.bits + a.toNat - b.toNat - b2n c else a.toNat - b.toNat - b2n c := by
  have hr : (subRes z a b c).toNat < 2 ^ z.bits := z.trunc_lt _
  have hc := b2n_le c
  have hmod : _ % _ = _ % _ := subRes_add_modEq z a b c
  rw [Nat.mod_eq_of_lt ha, mod_of_lt_two_mul (by omega)] at hmod
  split at hmod <;> split <;> omega

theorem subRes_toNat (ha : a.toNat < 2 ^ z.bits) (hb : b.toNat < 2 ^ z.bits) (c : Bool) :
    (subRes z a b c).toNat = (2 * 2 ^ z.bits + a.toNat - b.toNat - b2n c) % 2 ^ z.bits := by
  have hr : (subRes z a b c).toNat < 2 ^ z.bits := z.trunc_lt _
  have hc := b2n_le c
  have hdiff := subRes_eq_ite ha hb c
  have hsum : ∃ k, 2 * 2 ^ z.bits + a.toNat - b.toNat - b2n c = (subRes z a b c).toNat + 2 ^ z.bits * k := by
    split at hdiff
    · exact ⟨1, by omega⟩
    · exact ⟨2, by omega⟩
  obtain ⟨k, hk⟩ := hsum
  rw [hk, Nat.add_mul_mod_self_left, Nat.mod_eq_of_lt hr]

theorem subFlags_ovf_iff (ha : a.toNat < 2 ^ z.bits) (hb : b.toNat < 2 ^ z.bits) (c : Bool) (f : Eflags) :
    (subFlags z a b c f).ovf = true ↔ z.signed (subRes z a b c) ≠ z.signed a - z.signed b - (b2n c : Int) := by
  have hr : (subRes z a b c).toNat < 2 ^ z.bits := z.trunc_lt _
  have hdiff := subRes_eq_ite ha hb c
  have hovf : (subFlags z a b c f).ovf = (z.msb a != z.msb b && z.msb (subRes z a b c) != z.msb a) := rfl
  rw [hovf, Bool.and_eq_true, bne_iff_ne, bne_iff_ne, ne_eq, ne_eq, Sz.msb_eq_iff ha hb, Sz.msb_eq_iff hr ha, z.signed_eq,
    z.signed_eq, z.signed_eq]
  rw [z.two_pow_bits] at ha hb hdiff
  exact difference_overflows_iff ha hb (b2n_le c) hdiff

/-- Settles O5: one lemma for the sums, one for the differences, one for the bitwise results, at any carry. -/
theorem arithmeticFlags : Obligations.ArithmeticFlags := by
  intro z a b c af f ha hb ofResult adds subtracts bitwise does
  have hadd (c : Bool) : adds c (addRes z a b c) (addFlags z a b c f) :=
    ⟨addRes_toNat z a b c, decide_eq_true_iff, addFlags_ovf_iff ha hb c f, decide_eq_true_iff,
      resultFlags_ok f (z.trunc_lt _) _ _ _⟩
  have hsub (c : Bool) : subtracts c (subRes z a b c) (subFlags z a b c f) :=
    ⟨subRes_toNat ha hb c, decide_eq_true_iff, subFlags_ovf_iff ha hb c f, decide_eq_true_iff,
      resultFlags_ok f (z.trunc_lt _) _ _ _⟩
  have hlogic {op : Bool → Bool → Bool} {r : Word} (hop : ∀ k, r.getLsbD k = op (a.getLsbD k) (b.getLsbD k))
      (hr : r.toNat < 2 ^ z.bits) : bitwise op r (logicFlags z r af f) :=
    ⟨hop, rfl, rfl, rfl, resultFlags_ok f hr _ _ _⟩
  have hand : bitwise and (a &&& b) (logicFlags z (a &&& b) af f) :=
    hlogic (fun _ => BitVec.getLsbD_and) (by rw [BitVec.toNat_and]; exact Nat.and_lt_two_pow _ hb)
  have hor : bitwise or (a ||| b) (logicFlags z (a ||| b) af f) :=
    hlogic (fun _ => BitVec.getLsbD_or) (by rw [BitVec.toNat_or]; exact Nat.or_lt_two_pow ha hb)
  have hxor : bitwise xor (a ^^^ b) (logicFlags z (a ^^^ b) af f) :=
    hlogic (fun _ => BitVec.getLsbD_xor) (by rw [BitVec.toNat_xor]; exact Nat.xor_lt_two_pow ha hb)
  exact ⟨hadd false, hadd f.cf, hsub false, hsub false, hsub f.cf, hand, hor, hxor, hadd c, hsub c, hand⟩

end Sys2Proof.Machine
end

section
/-! PROOFS. Data movement: MOV in both directions and XCHG, and what their bodies answer at plain operands. -/
namespace Sys2Proof.Machine

variable {s s1 : State} {p : Place}

/-! ## MOV to an r/m operand -/

/-- The computation that gives the source of a form, in a state of the given operand size. -/
def MovForm.source (s : State) : MovForm → M Word
  | .rm8R8 _ r => regVal8 r
  | .rmR _ r => regVal s.osz r
  | .rm8Imm8 _ v => pure (v.setWidth 32)
  | .rmImm _ v => pure v
  | .moffs8Al _ => regVal8 .al
  | .moffsEax _ => regVal s.osz .eax
  | .nti _ r => regVal .d r

/-- A word is its own value at 32 bits. -/
theorem trunc_d (v : Word) : Sz.d.trunc v = v := by
  refine BitVec.eq_of_toNat_eq ?_
  rw [Sz.trunc_toNat]
  exact Nat.mod_eq_of_lt v.isLt

/-- The source of a form is read after the checks of its destination, which leave the registers. -/
theorem MovForm.run_source (f : MovForm) (hg : s1.gpr = s.gpr) : f.source s s1 = .ok (f.src s) s1 := by
  cases f with
  | rm8R8 d r => exact run_regVal8 r hg
  | rmR d r => exact run_regVal s.osz r hg
  | moffs8Al off => exact run_regVal8 .al hg
  | moffsEax off => exact run_regVal s.osz .eax hg
  | nti m r => exact (run_regVal .d r hg).trans (congrArg (EStateM.Result.ok · s1) (trunc_d _))
  | _ => rfl

theorem MovForm.walks_dst {f : MovForm} (h : f.dst s s = .ok p s1) : SameButWalk s s1 := by
  cases f with
  | rm8R8 d _ | rm8Imm8 d _ => exact walks_of_place8 h
  | rmR d _ | rmImm d _ => exact walks_of_place h
  | moffs8Al off => exact walks_of_place8 (k := .write) (o := .mem (.abs32 off)) h
  | moffsEax off => exact walks_of_place (k := .write) (o := .mem (.abs32 off)) h
  | nti m _ => exact walks_of_place (k := .write) (o := .mem m) h

/-- MOV and MOVNTI move the source of a form to its destination, MOVNTI where it is there (R603, R604). -/
theorem exec_movForm {f : MovForm} {t : State} (hp : f.present s) (hl : s.lockOk false)
    (h : movOp (f.dst s) (f.source s) s = .ok () t) : exec f.instr s = .next t.done := by
  cases f with
  | nti m r =>
    have hcheck : (do require (← get).cfg.hasSse2 .ud : M Unit) s = .ok () s := by
      rw [run_get_bind, show s.cfg.hasSse2 = true from hp, run_require_true]
    exact runInsn_done hl ((run_bind_ok hcheck).trans h)
  | _ => exact runInsn_done hl h

/-- Settles O6: the destination's checks come first, then the source goes there. -/
theorem movToRmCompletes : Obligations.MovToRmCompletes := by
  intro f s s1 p hpres hd hp hl
  have hw := MovForm.walks_dst hd
  have hbody := movOp_ok hd (f.run_source hw.gpr) hp
  exact completes_of (exec_movForm hpres hl hbody) hw (memFrame_put p _ rfl rfl rfl (put_cfg p s1 _))

/-! ## MOV to a register -/

/-- A plain operand goes to a byte register; the operand's checks are the only ones (R603). -/
theorem completes_movR8 {i : Instr} {r : Reg8} {src : RM Reg8}
    (hi : exec i s = runInsn false (movOp (pure (.reg8 r)) (readRM8 src)) s) (hs : place8 .read src s = .ok p s1)
    (hp : p.plain s1) (hl : s.lockOk false) : Completes i s s1 (s1.setReg8 r (p.value s1)).done [] :=
  completes_of (hi.trans (runInsn_done hl (movOp_ok (p := .reg8 r) rfl (readRM8_ok hs hp) trivial))) (walks_of_place8 hs)
    (memFrame_same rfl rfl)

/-- The same for a register of operand size. -/
theorem completes_movR {i : Instr} {r : Reg} {src : RM Reg}
    (hi : exec i s = runInsn false (atOsz fun z => movOp (pure (.reg z r)) (readRM z src)) s)
    (hs : place s.osz .read src s = .ok p s1) (hp : p.plain s1) (hl : s.lockOk false) :
    Completes i s s1 (s1.setReg s.osz r (p.value s1)).done [] :=
  completes_of (hi.trans (runInsn_done hl (movOp_ok (p := .reg s.osz r) rfl (readRM_ok hs hp) trivial))) (walks_of_place hs)
    (memFrame_same rfl rfl)

/-- Settles O7: operands and memory offsets by one lemma for each width; an immediate has no checks. -/
theorem movToRegCompletes : Obligations.MovToRegCompletes :=
  ⟨fun _ _ _ _ _ hs hp hl => completes_movR8 rfl hs hp hl, fun _ _ _ _ _ hs hp hl => completes_movR rfl hs hp hl,
    fun _ _ _ _ hs hp hl => completes_movR8 rfl hs hp hl, fun _ _ _ _ hs hp hl => completes_movR rfl hs hp hl,
    fun r _ s hl => runInsn_done hl (movOp_ok (p := .reg8 r) (s1 := s) (s2 := s) rfl rfl trivial),
    fun r _ s hl => runInsn_done hl (movOp_ok (p := .reg s.osz r) (s1 := s) (s2 := s) rfl rfl trivial)⟩

/-! ## XCHG -/

/-- The checks of an operand leave the value of a register operand (R405, R601). -/
theorem SameButWalk.value_reg8 (h : SameButWalk s s1) (r : Reg8) : (Place.reg8 r).value s1 = s.gpr.read8 r := by
  rw [Place.value, h.gpr]

theorem SameButWalk.value_reg (h : SameButWalk s s1) (z : Sz) (r : Reg) : (Place.reg z r).value s1 = s.gpr.read z r := by
  rw [Place.value, h.gpr]

/-- XCHG of a plain place with a register: both are read before either is written (R606). -/
theorem xchgOp_ok {dst : M Place} {r : Place} (hd : dst s = .ok p s1) (hp : p.plain s1) (hr : ∀ t, r.plain t) :
    xchgOp dst r s = .ok () (r.put (p.put s1 (r.value s1)) (p.value s1)) := by
  unfold xchgOp
  rw [run_bind_ok hd, run_bind_ok (lockCheck_plain _ hp), run_bind_ok (place_get hp), run_bind_ok (place_get (hr s1)),
    run_bind_ok (place_set _ hp), place_set _ (hr _)]

/-- Settles O10: the register's value is the one before the checks, which change no register. -/
theorem xchgCompletes : Obligations.XchgCompletes := by
  refine ⟨fun dst r s s1 p hd hp hl => ?_, fun dst r s s1 p hd hp hl => ?_, fun r s hl => ?_⟩
  · have hw := walks_of_place8 hd
    have hbody := xchgOp_ok (r := .reg8 r) hd hp fun _ => trivial
    rw [hw.value_reg8] at hbody
    exact completes_of (runInsn_done hl hbody) hw (memFrame_put p _ rfl rfl rfl (put_cfg p s1 _))
  · have hw := walks_of_place hd
    have hbody := xchgOp_ok (r := .reg s.osz r) hd hp fun _ => trivial
    rw [hw.value_reg] at hbody
    exact completes_of (runInsn_done hl hbody) hw (memFrame_put p _ rfl rfl rfl (put_cfg p s1 _))
  · exact runInsn_done hl (xchgOp_ok (dst := pure (.reg s.osz r)) (r := .reg s.osz .eax) (s1 := s) rfl trivial fun _ => trivial)

end Sys2Proof.Machine
end

section
/-! PROOFS. LEA: no access, no check but LOCK's, and no encoding with a register operand. -/
namespace Sys2Proof.Machine

/-! ## Decoding -/

/-- A ModRM byte with mod 3 names a register in place of a memory operand, which only a memory operand's opcode refuses
(R203, R209). -/
theorem finishTail_memOnly_reg (c : DecodeCtx) {f : Nat → Mem → Instr} {b : Byte} (hb : 192 ≤ b.toNat) (bs : List Byte) :
    finishTail c (.modrm fun g => memOnly (f g)) (b :: bs) = .invalid := by
  have hmod : b.toNat / 64 = 3 := by
    have := b.isLt
    omega
  have hrm : decodeRM c.asz16 b.toNat bs = some (.reg (b.toNat % 8), bs) := if_pos hmod
  simp only [finishTail, hrm]
  rfl

/-- LEA's opcode asks for a memory operand (R605). -/
theorem decode_lea (c : DecodeCtx) (bs : List Byte) :
    decode c (0x8D#8 :: bs) = finishTail c (.modrm fun g => memOnly (.lea (Reg.ofNum g))) bs := rfl

/-! ## The instruction -/

/-- Settles O9: the body is one update of the state; with LOCK it is never reached. -/
theorem leaCompletes : Obligations.LeaCompletes := by
  refine ⟨fun r m s => ⟨fun h => runInsn_done ?_ rfl, fun h => runJump_lock ?_⟩, fun c b bs hb => ?_⟩
  · rw [State.lockOk, h]
    rfl
  · rw [h]
    rfl
  · rw [decode_lea, finishTail_memOnly_reg c hb bs]

end Sys2Proof.Machine
end

section
/-! PROOFS. XADD, CMPXCHG and CMPXCHG8B: what each body answers at plain operands, and both outcomes of a comparison. -/
namespace Sys2Proof.Machine

variable {s s1 : State} {p : Place}

/-- A write to a place uses no free value and leaves a place plain. -/
theorem put_free (p : Place) (s : State) (v : Word) : (p.put s v).free = s.free := by
  cases p <;> simp [Place.put]

theorem plain_put {p : Place} (q : Place) (s : State) (v : Word) : p.plain (q.put s v) ↔ p.plain s :=
  place_plain_congr (put_msr q s v) (put_cfg q s v) p

/-! ## XADD -/

/-- XADD on plain places: both are read, then the register is written, then the destination (R620). -/
theorem xaddOp_ok {z : Sz} {dst : M Place} {r : Place} (hd : dst s = .ok p s1) (hp : p.plain s1) (hr : ∀ t, r.plain t) :
    xaddOp z dst r s = .ok () ((p.put (r.put s1 (p.value s1)) (addRes z (p.value s1) (r.value s1) false)).withFlags
      (addFlags z (p.value s1) (r.value s1) false s1.eflags)) := by
  unfold xaddOp
  rw [run_bind_ok hd, run_get_bind, run_bind_ok (lockCheck_plain _ hp), run_bind_ok (place_get hp),
    run_bind_ok (place_get (hr s1)), run_bind_ok (place_set _ (hr s1)),
    run_bind_ok (place_set _ ((plain_put r s1 _).mpr hp)), run_setFlags, put_eflags, put_eflags]

/-- Settles O11: the sum is that of the values before either write. -/
theorem xaddCompletes : Obligations.XaddCompletes := by
  refine ⟨fun dst r s s1 p hf hd hp hl => ?_, fun dst r s s1 p hf hd hp hl => ?_⟩
  · have hw := walks_of_place8 hd
    have hbody := xaddOp_ok (z := .b) (r := .reg8 r) hd hp fun _ => trivial
    rw [hw.value_reg8, hw.eflags] at hbody
    exact completes_of (runInsn_done hl ((run_bind_ok (run_from486_ok hf)).trans hbody)) hw
      (memFrame_put (u := s1.setReg8 r (p.value s1)) p _ rfl rfl rfl (put_cfg p _ _))
  · have hw := walks_of_place hd
    have hbody := xaddOp_ok (z := s.osz) (r := .reg s.osz r) hd hp fun _ => trivial
    rw [hw.value_reg, hw.eflags] at hbody
    exact completes_of (runInsn_done hl ((run_bind_ok (run_from486_ok hf)).trans hbody)) hw
      (memFrame_put (u := s1.setReg s.osz r (p.value s1)) p _ rfl rfl rfl (put_cfg p _ _))

/-! ## CMPXCHG -/

/-- CMPXCHG on plain places: after the comparison the destination is written in both cases (R621). -/
theorem cmpxchgOp_ok {z : Sz} {dst : M Place} {acc src : Place} (hd : dst s = .ok p s1) (hp : p.plain s1)
    (ha : ∀ t, acc.plain t) (hs : ∀ t, src.plain t) :
    let u := s1.withFlags (subFlags z (acc.value s1) (p.value s1) false s1.eflags)
    cmpxchgOp z dst acc src s = .ok () (
      if acc.value s1 = p.value s1 then p.put u (src.value s1) else p.put (acc.put u (p.value s1)) (p.value s1)) := by
  intro u
  have hpu : p.plain u := (place_plain_congr rfl rfl p).mpr hp
  unfold cmpxchgOp
  rw [run_bind_ok hd, run_get_bind, run_bind_ok (lockCheck_plain _ hp), run_bind_ok (place_get hp),
    run_bind_ok (place_get (ha s1)), run_bind_ok (place_get (hs s1)), run_bind_ok (run_setFlags _ s1), run_ite]
  simp only [beq_iff_eq]
  split
  · exact place_set _ hpu
  · rw [run_bind_ok (place_set _ (ha u))]
    exact place_set _ ((plain_put acc u _).mpr hpu)

/-- A choice between two writes of a place, one of them after a write of a register, stores to the place's bytes. -/
theorem memFrame_cmpxchg {c : Prop} [Decidable c] {u u' : State} (p : Place) (v w : Word) (hm : u.mem = s.mem)
    (hc : u.cfg = s.cfg) (hm' : u'.mem = s.mem) (hc' : u'.cfg = s.cfg) :
    MemFrame s (if c then p.put u v else p.put u' w).done p.bytes := by
  split
  · exact memFrame_put p v hm hc rfl ((put_cfg p u v).trans hc)
  · exact memFrame_put p w hm' hc' rfl ((put_cfg p u' w).trans hc')

/-- CMPXCHG8B is there from the Pentium on, with LOCK or without (R622, R351). -/
theorem exec_cmpxchg8b {m : Mem} {t : State} (h3 : s.cfg.family ≠ .i386) (h4 : s.cfg.family ≠ .i486)
    (h : cmpxchg8bOp m s = .ok () t) : exec (.cmpxchg8b m) s = .next t.done := by
  have hcheck : (do let fam := (← get).cfg.family; require (fam != .i386 && fam != .i486) .ud : M Unit) s = .ok () s := by
    rw [run_get_bind, bne_iff_ne.mpr h3, bne_iff_ne.mpr h4]
    rfl
  exact runInsn_done (lockable := true) (Bool.or_true _) ((run_bind_ok hcheck).trans h)

/-- CMPXCHG8B on a plain quadword, which is written in both cases (R622). -/
theorem cmpxchg8bOp_ok {m : Mem} {pas : List Nat} (hm : memAddrs m 8 8 .write s = .ok pas s1) (hp : s1.plain pas) :
    cmpxchg8bOp m s = .ok () (
      if s1.gpr.edx.toNat * 2 ^ 32 + s1.gpr.eax.toNat = s1.valueAt pas then
        (s1.storeAt pas (s1.gpr.ecx.toNat * 2 ^ 32 + s1.gpr.ebx.toNat)).withFlags { s1.eflags with zf := true }
      else
        ({ s1.storeAt pas (s1.valueAt pas) with
          gpr := { s1.gpr with
            edx := BitVec.ofNat 32 (s1.valueAt pas / 2 ^ 32), eax := BitVec.ofNat 32 (s1.valueAt pas) } } : State).withFlags
              { s1.eflags with zf := false }) := by
  unfold cmpxchg8bOp
  rw [run_bind_ok hm, run_get_bind, run_bind_ok (lockCheck_plain (p := .mem pas) _ hp), run_bind_ok (phRead_plain hp),
    run_get_bind, run_bind_ok (phWrite_plain _ hp), run_modify]
  by_cases heq : s1.gpr.edx.toNat * 2 ^ 32 + s1.gpr.eax.toNat = s1.valueAt pas
  · rw [if_pos heq, beq_iff_eq.mpr heq]
    simp [State.withFlags]
  · rw [if_neg heq, beq_eq_false_iff_ne.mpr heq]
    simp [State.withFlags]

/-- Settles O12: the accumulator and the source are read at the values before the checks, which change no register. -/
theorem cmpxchgCompletes : Obligations.CmpxchgCompletes := by
  refine ⟨fun dst r s s1 p hf hd hp hl => ?_, fun dst r s s1 p hf hd hp hl => ?_, fun m s s1 pas h3 h4 hm hp => ?_⟩
  · have hw := walks_of_place8 hd
    have hbody := cmpxchgOp_ok (z := .b) (acc := .reg8 .al) (src := .reg8 r) hd hp (fun _ => trivial) fun _ => trivial
    rw [hw.value_reg8, hw.value_reg8, hw.eflags] at hbody
    exact completes_of (runInsn_done hl ((run_bind_ok (run_from486_ok hf)).trans hbody)) hw
      (memFrame_cmpxchg p _ _ rfl rfl rfl rfl)
  · have hw := walks_of_place hd
    have hbody := cmpxchgOp_ok (z := s.osz) (acc := .reg s.osz .eax) (src := .reg s.osz r) hd hp (fun _ => trivial)
      fun _ => trivial
    rw [hw.value_reg, hw.value_reg, hw.eflags] at hbody
    exact completes_of (runInsn_done hl ((run_bind_ok (run_from486_ok hf)).trans hbody)) hw
      (memFrame_cmpxchg p _ _ rfl rfl rfl rfl)
  · have hw := walks_of_memAddrs hm
    have hbody := cmpxchg8bOp_ok hm hp
    rw [hw.gpr, hw.eflags] at hbody
    intro t
    by_cases heq : s.gpr.edx.toNat * 2 ^ 32 + s.gpr.eax.toNat = t
    · rw [if_pos heq] at hbody ⊢
      exact completes_of (exec_cmpxchg8b h3 h4 hbody) hw (memFrame_storeAt pas _ rfl rfl rfl (storeAt_cfg s1 pas _))
    · rw [if_neg heq] at hbody ⊢
      exact completes_of (exec_cmpxchg8b h3 h4 hbody) hw (memFrame_storeAt pas _ rfl rfl rfl (storeAt_cfg s1 pas _))

end Sys2Proof.Machine
end

section
/-! PROOFS. The bit instructions: the operand after each, the unit that a bit offset selects, and the body of both forms. -/
namespace Sys2Proof.Machine

variable {s s1 : State} {p : Place}

/-! ## The selected bit -/

/-- Bit `k` alone, at the width of a word. -/
theorem getLsbD_oneBit (k i : Nat) : (1#32 <<< k).getLsbD i = decide (i < 32 ∧ i = k) := by
  show (BitVec.twoPow 32 k).getLsbD i = _
  rw [BitVec.getLsbD_twoPow]
  by_cases h : k = i
  · simp [h]
  · simp [h, Ne.symm h]

/-- To complement a bit is to write what it is not (R623). -/
theorem setBit_not_bit (v : Word) (k : Nat) : setBit v k (!bit v k) = v ^^^ (1#32 <<< k) := by
  refine BitVec.eq_of_getLsbD_eq fun i hi => ?_
  have hone : (1#32 <<< k).getLsbD i = decide (i = k) := by
    rw [getLsbD_oneBit]
    simp [hi]
  unfold setBit bit
  by_cases hik : i = k
  · subst hik
    cases hv : v.getLsbD i
    · simp only [Bool.not_false, if_true, BitVec.getLsbD_or, BitVec.getLsbD_xor, hv, hone, Bool.false_or, Bool.false_xor]
    · simp only [Bool.not_true, Bool.false_eq_true, if_false, BitVec.getLsbD_and, BitVec.getLsbD_not, BitVec.getLsbD_xor, hv,
        hone, decide_true, Bool.and_false, Bool.true_xor]
  · split
    · simp only [BitVec.getLsbD_or, BitVec.getLsbD_xor, hone, hik, decide_false, Bool.or_false, Bool.xor_false]
    · simp only [BitVec.getLsbD_and, BitVec.getLsbD_not, BitVec.getLsbD_xor, hone, hi, hik, decide_false, decide_true,
        Bool.not_false, Bool.and_true, Bool.xor_false]

theorem BitOp.result_eq_after (o : BitOp) (v : Word) (k : Nat) : o.result v k = o.after v k := by
  cases o with
  | btc => exact setBit_not_bit v k
  | _ => rfl

/-! ## The unit of a bit string -/

/-- The signed offset in a register selects a unit of operand size, by floor division (R623). -/
theorem bitUnit_eq (s : State) (r : Reg) : bitUnit s.osz (s.gpr.read s.osz r) =
    s.osz.signed (s.gpr.read s.osz r) / s.osz.bits * s.osz.bytes := by
  obtain h | h := osz_eq_w_or_d s <;> rw [h, Gprs.read]
  · have hlow : (Sz.w.trunc (s.gpr.get r)).setWidth 16 = (s.gpr.get r).setWidth 16 := by
      rw [trunc_w_eq_setWidth, BitVec.setWidth_setWidth_of_le _ (by decide), BitVec.setWidth_eq]
    rw [signed_trunc_w, ← hlow]
    rfl
  · rw [signed_trunc_d, trunc_d]
    rfl

/-! ## The instructions -/

/-- The flags of a bit instruction with the free values that follow a given use (R623, log 10). -/
def bitFlagsAt (c : Bool) (k : Nat) (f : Eflags) : Eflags :=
  bitFlags c (Config.freeBit k) (Config.freeBit (k + 1)) (Config.freeBit (k + 2)) (Config.freeBit (k + 3)) f

theorem run_bitFlags (c : Bool) (t : State) :
    (do setFlags (bitFlags c (← freshBit) (← freshBit) (← freshBit) (← freshBit)) : M Unit) t =
      .ok () ((t.used 4).withFlags (bitFlagsAt c t.free t.eflags)) := rfl

/-- A bit instruction on a plain operand; BT only reads it (R623). -/
theorem bitOp_ok {o : BitOp} {dst : M Place} {k : Nat} (hd : dst s = .ok p s1) (hp : p.plain s1) :
    bitOp o dst k s = .ok () (((if o = .bt then s1 else p.put s1 (o.after (p.value s1) k)).used 4).withFlags
      (bitFlagsAt (bit (p.value s1) k) s1.free s1.eflags)) := by
  unfold bitOp
  rw [run_bind_ok hd, run_get_bind, run_bind_ok (lockCheck_plain _ hp), run_bind_ok (place_get hp)]
  by_cases h : o = .bt
  · rw [if_pos h, h]
    rfl
  · rw [if_neg h, if_pos (bne_iff_ne.mpr h), run_bind_ok (place_set _ hp), o.result_eq_after]
    exact (run_bitFlags _ _).trans (by rw [put_free, put_eflags])

/-- The operation that a form runs, as the model's instructions name it (R623). -/
def BitForm.body (o : BitOp) : BitForm → M Unit
  | .imm d k => bitImm o d k
  | .byReg d r => bitReg o d r

theorem BitForm.body_eq (o : BitOp) (f : BitForm) (s : State) :
    f.body o s = bitOp o (f.dst s o.access) (f.index s) s := by
  cases f with
  | imm d k => rfl
  | byReg d r =>
    cases d with
    | reg q => rfl
    | mem m =>
      rw [BitForm.dst, ← bitUnit_eq]
      rfl

/-- LOCK may precede all but BT, in the forms with an operand in memory (R351). -/
theorem exec_bitForm (o : BitOp) (f : BitForm) (s : State) :
    exec (f.instr o) s = runInsn (f.isMem && o != .bt) (f.body o) s := by
  have hlock : (f.isMem && o != .bt) = if o = .bt then false else f.isMem := by
    by_cases h : o = .bt <;> simp [h]
  rw [hlock]
  cases o <;> cases f <;> rfl

theorem BitForm.walks_dst {f : BitForm} {k : Access} (h : f.dst s k s = .ok p s1) : SameButWalk s s1 := by
  cases f with
  | imm d _ => exact walks_of_place h
  | byReg d r =>
    cases d with
    | reg q => exact walks_of_place (k := k) (o := .reg q) h
    | mem m => exact (Walks.bind (walks_memAddrsAt s ..) fun _ t _ _ => walks_pure t _).of_ok h

/-- Settles O19: one body for both forms, its operand written by all but BT. -/
theorem bitInstructionsComplete : Obligations.BitInstructionsComplete := by
  intro o f s s1 p hl hd hp
  have hw := BitForm.walks_dst hd
  have hacc : o.access = if o = .bt then .read else .write := by cases o <;> rfl
  have hbody := bitOp_ok (o := o) (k := f.index s) hd hp
  rw [← hacc, ← f.body_eq, hw.eflags] at hbody
  refine completes_of ((exec_bitForm o f s).trans (runInsn_done hl hbody)) hw ?_
  by_cases h : o = .bt
  · rw [if_pos h, if_pos h]
    exact memFrame_same rfl rfl
  · rw [if_neg h, if_neg h]
    exact memFrame_put p _ rfl rfl rfl (put_cfg p s1 _)

end Sys2Proof.Machine
end

section
/-! PROOFS. The stack: PUSH and PUSHF, a push on a flat stack byte by byte, POP and POPF. -/
namespace Sys2Proof.Machine

variable {s s1 s2 : State}

/-! ## Pushes -/

/-- One value is pushed: it is stored below the stack pointer, then ESP moves (R607). -/
theorem push_ok {z : Sz} {pas : List Nat} {esp : Word} (v : Word) (h : pushPrep z 1 s = .ok ([pas], esp) s1)
    (hp : s1.plain pas) : push z v s = .ok () ((s1.storeAt pas v.toNat).withEsp esp) := by
  unfold push
  rw [run_bind_ok h]
  exact run_bind_ok (pushValues_ok (ps := [pas]) (vs := [v]) fun q hq => List.mem_singleton.mp hq ▸ hp)

theorem memFrame_push (s : State) (pas : List Nat) (v : Nat) (esp : Word) :
    MemFrame s ((s.storeAt pas v).withEsp esp).done pas :=
  memFrame_storeAt (u := s) pas v rfl rfl rfl (storeAt_cfg s pas v)

theorem walks_of_pushPrep {z : Sz} {n : Nat} {r : List (List Nat) × Word} (h : pushPrep z n s = .ok r s1) :
    SameButWalk s s1 := (walks_pushPrep s z n).of_ok h

theorem ofBool_and_one (b : Bool) : BitVec.ofBool b &&& 1#1 = BitVec.ofBool b := by cases b <;> rfl

/-- The mask of PUSHF leaves every flag but VM and RF, field by field of the image (R310). -/
theorem pushfImage_eq (f : Eflags) : pushfImage f = { f with vm := false, rf := false }.toWord := by
  have hmask : 0x00FCFFFF#32 = 3#10 ++ 1#1 ++ 1#1 ++ 1#1 ++ 1#1 ++ 0#1 ++ 0#1 ++ 1#1 ++ 1#1 ++ 3#2 ++ 1#1 ++ 1#1 ++ 1#1 ++
    1#1 ++ 1#1 ++ 1#1 ++ 1#1 ++ 1#1 ++ 1#1 ++ 1#1 ++ 1#1 ++ 1#1 := rfl
  have hiopl : f.iopl &&& 3#2 = f.iopl := BitVec.and_allOnes
  rw [pushfImage, hmask, Eflags.toWord]
  refine BitVec.and_append.trans ?_
  simp only [BitVec.and_append, ofBool_and_one, hiopl, BitVec.and_zero]
  rfl

/-- A form of PUSH, or PUSHF, pushes its value with the operand size (R607, R310). -/
theorem exec_pushForm {f : PushForm} {t : State} (hl : s.lockOk false) (h : push s.osz (f.value s) s = .ok () t) :
    exec f.instr s = .next t.done := by
  cases f with
  | sreg x => cases x <;> exact runInsn_done hl h
  | flags =>
    have hbody : (do let u ← get; push u.osz (pushfImage u.eflags) : M Unit) s = .ok () t := by
      rw [run_get_bind, pushfImage_eq]
      exact h
    exact runInsn_done hl hbody
  | _ => exact runInsn_done hl h

/-- PUSH of an r/m operand reads it before the checks of the push (R607). -/
theorem exec_pushRm {src : RM Reg} {v : Word} {t : State} (hl : s.lockOk false) (hr : readRM s.osz src s = .ok v s1)
    (h : push s.osz v s1 = .ok () t) : exec (.pushRm src) s = .next t.done :=
  runInsn_done hl (show (do push s.osz (← readRM s.osz src) : M Unit) s = .ok () t from (run_bind_ok hr).trans h)

/-- Settles O16: every form pushes a value read in the state before its checks. -/
theorem pushCompletes : Obligations.PushCompletes := by
  refine ⟨fun f s s1 pas esp hl h hp => ?_, fun src s s1 s2 p pas esp hl hs hp h hpas => ?_⟩
  · exact completes_of (exec_pushForm hl (push_ok _ h hp)) (walks_of_pushPrep h) (memFrame_push s1 pas _ esp)
  · exact completes_of (exec_pushRm hl (readRM_ok hs hp) (push_ok _ h hpas))
      ((walks_of_place hs).trans (walks_of_pushPrep h)) (memFrame_push s2 pas _ esp)

/-! ## A flat stack -/

/-- Without paging a linear address is a physical one, in protected mode (R165, R470). -/
theorem translate_flat (hpg : s.pg = false) (hpe : s.pe = true) (lin : Word) (k : Access) (user : Bool) :
    translate lin k user s = .ok lin.toNat s := by
  have ha20 : s.a20 lin.toNat = lin.toNat := by
    rw [State.a20, hpe, Bool.not_true, Bool.and_false, Bool.false_and, if_neg Bool.false_ne_true]
  unfold translate
  rw [run_get_bind, hpg, Bool.not_false, if_pos rfl, ha20]
  rfl

theorem addrsFrom_append (a n m : Nat) : addrsFrom a n ++ addrsFrom (a + n) m = addrsFrom a (n + m) := by
  unfold addrsFrom
  rw [List.range_add, List.map_append, List.map_map]
  congr 1
  exact List.map_congr_left fun k _ => Nat.add_assoc a n k

/-- Without paging the bytes at a linear address that does not wrap follow each other, on one page or on two. -/
theorem linAddrs_flat (hpg : s.pg = false) (hpe : s.pe = true) {lin : Word} {n : Nat} (hn : lin.toNat + n ≤ 2 ^ 32)
    (k : Access) (user : Bool) : linAddrs lin n k user s = .ok (addrsFrom lin.toNat n) s := by
  unfold linAddrs
  rw [run_bind_ok (translate_flat hpg hpe lin k user)]
  split
  · rfl
  · have hroom : (lin + BitVec.ofNat 32 (4096 - lin.toNat % 4096)).toNat = lin.toNat + (4096 - lin.toNat % 4096) := by
      rw [BitVec.toNat_add, BitVec.toNat_ofNat]
      omega
    rw [run_bind_ok (translate_flat hpg hpe _ k user), hroom, run_pure, addrsFrom_append, Nat.add_sub_cancel' (by omega)]

/-- On a 32-bit stack a push of a doubleword moves ESP down by 4 (R607). -/
theorem stackMove_neg_four {ss : SegReg} (hdb : ss.attr.db = true) (esp : Word) :
    ss.stackMove esp (-(Sz.d.bytes : Int)) = esp - 4#32 := by
  rw [SegReg.stackMove, if_pos hdb, BitVec.sub_eq_add_neg]
  rfl

/-- The segment check of a push of a doubleword on a 32-bit stack that expands up (R141). -/
theorem pushLins_flat {ss : SegReg} {esp : Word} (hdb : ss.attr.db = true) (hw : ss.canWrite = true)
    (hx : ss.expandDown = false) (hlim : (esp - 4#32).toNat + 3 ≤ ss.limit.toNat) (e : Exc) (s : State) :
    pushLins ss e .d 1 esp s = .ok ([ss.base + (esp - 4#32)], esp - 4#32) s := by
  have hoff : ss.stackOff (esp - 4#32) = esp - 4#32 := if_pos hdb
  have hok : (ss.typeOk .write && ss.limitOk (esp - 4#32) 4) = true := by
    rw [SegReg.typeOk, hw, SegReg.limitOk, hx, Bool.true_and]
    exact decide_eq_true hlim
  have hcheck : segCheckReg ss (esp - 4#32) Sz.d.bytes .write e s = .ok (ss.base + (esp - 4#32)) s := by
    unfold segCheckReg
    rw [Sz.bytes, hok]
    rfl
  rw [pushLins, stackMove_neg_four hdb, hoff, run_bind_ok hcheck]
  rfl

/-- An aligned address passes, and any address where alignment is not checked (R88). -/
theorem alignCheck_ok {lin : Word} {n : Nat}
    (h : bit s.sys.cr0 18 = true → s.eflags.ac = true → s.cpl = 3 → lin.toNat % n = 0) : alignCheck lin n s = .ok () s := by
  have hok : (!(bit s.sys.cr0 18 && s.eflags.ac && s.cpl == 3 && lin.toNat % n != 0)) = true := by
    rw [Bool.not_eq_true', Bool.eq_false_iff]
    intro hc
    simp only [Bool.and_eq_true, beq_iff_eq, bne_iff_ne] at hc
    obtain ⟨⟨⟨ham, hac⟩, hcpl⟩, hne⟩ := hc
    exact hne (h ham hac hcpl)
  unfold alignCheck
  rw [run_get_bind, hok, run_require_true]

/-- The place of one push on a 32-bit stack with paging off. -/
theorem pushPrep_flat (hpe : s.pe = true) (hpg : s.pg = false) (hdb : s.segs.ss.attr.db = true)
    (hw : s.segs.ss.canWrite = true) (hx : s.segs.ss.expandDown = false)
    (hlim : (s.gpr.esp - 4#32).toNat + 3 ≤ s.segs.ss.limit.toNat)
    (hwrap : (s.segs.ss.base + (s.gpr.esp - 4#32)).toNat + 4 ≤ 2 ^ 32)
    (hal : bit s.sys.cr0 18 = true → s.eflags.ac = true → s.cpl = 3 →
      (s.segs.ss.base + (s.gpr.esp - 4#32)).toNat % 4 = 0) :
    pushPrep .d 1 s = .ok ([addrsFrom (s.segs.ss.base + (s.gpr.esp - 4#32)).toNat 4], s.gpr.esp - 4#32) s := by
  have hpas : pushPas (s.cpl == 3) .d [s.segs.ss.base + (s.gpr.esp - 4#32)] s =
      .ok [addrsFrom (s.segs.ss.base + (s.gpr.esp - 4#32)).toNat 4] s := by
    rw [pushPas, run_bind_ok (linAddrs_flat (n := Sz.d.bytes) hpg hpe hwrap .write _)]
    cases s.cpl == 3 with
    | false => rfl
    | true => exact (run_bind_ok (alignCheck_ok hal)).trans rfl
  unfold pushPrep pushPlaces
  rw [run_get_bind, run_bind_ok (pushLins_flat hdb hw hx hlim _ s)]
  exact run_bind_ok hpas

/-- The bytes of a number are its digits to the base 256, least significant first (R83). -/
theorem getElem_leBytes (n v k : Nat) (h : k < (leBytes n v).length) :
    (leBytes n v)[k] = BitVec.ofNat 8 (v / 2 ^ (8 * k)) := by
  induction n generalizing v k with
  | zero => exact absurd h (Nat.not_lt_zero k)
  | succ n ih =>
    cases k with
    | zero => simp [leBytes]
    | succ k =>
      have hk : v / 256 / 2 ^ (8 * k) = v / 2 ^ (8 * (k + 1)) := by
        rw [Nat.div_div_eq_div_mul, Nat.mul_add, Nat.pow_add, Nat.mul_comm]
      simp only [leBytes, List.getElem_cons_succ, ih, hk]

/-- A byte of a stored number reads back where there is memory (R80, R83). -/
theorem physByte_storeAt (s : State) (a n v k : Nat) (hk : k < n) (hr : inRam s (a + k) = true) :
    (s.storeAt (addrsFrom a n) v).physByte (a + k) = BitVec.ofNat 8 (v / 2 ^ (8 * k)) := by
  have hn := addrsFrom_length a n
  refine physByte_physWrite_mem s _ ?_ ?_ hr
  · rw [List.map_fst_zip (by simp)]
    exact addrsFrom_nodup a n
  · have hget : k < ((addrsFrom a n).zip (leBytes (addrsFrom a n).length v)).length := by simpa [hn] using hk
    refine List.mem_of_getElem (h := hget) ?_
    rw [List.getElem_zip, getElem_leBytes]
    simp [addrsFrom]

/-- Settles O17: the four places follow each other, so that a byte of the register is one byte of memory. -/
theorem pushOnFlatStack : Obligations.PushOnFlatStack := by
  intro r s hl hosz hpe hpg a lin hdb hw hx hlim hwrap hal hplain
  have hpas : [lin.toNat, lin.toNat + 1, lin.toNat + 2, lin.toNat + 3] = addrsFrom lin.toNat 4 := rfl
  have hval : PushForm.value s (.reg r) = s.gpr.get r := by
    rw [PushForm.value, hosz]
    exact trunc_d _
  have hprep : pushPrep s.osz 1 s = .ok ([addrsFrom lin.toNat 4], a) s := by
    rw [hosz]
    exact pushPrep_flat hpe hpg hdb hw hx hlim hwrap hal
  rw [hpas] at hplain ⊢
  have hpush := exec_pushForm (f := .reg r) hl (push_ok _ hprep hplain)
  rw [hval] at hpush
  refine ⟨completes_of hpush (.refl s) (memFrame_push s _ _ a), _, hpush, rfl, fun k hk hr => ?_⟩
  have hbyte := physByte_storeAt s lin.toNat 4 (s.gpr.get r).toNat k hk hr
  refine Eq.trans hbyte (BitVec.eq_of_toNat_eq ?_)
  rw [BitVec.toNat_ofNat, BitVec.extractLsb'_toNat, Nat.shiftRight_eq_div_pow]

/-! ## Pops -/

/-- POP into a plain place: its checks follow the change of ESP (R607). -/
theorem popRmOp_ok {dst : RM Reg} {v : Word} {p : Place} (h : StackItem s s.osz 0 v s1)
    (hd : place s.osz .write dst (s1.withEsp (s.popped s.osz.bytes)) = .ok p s2) (hp : p.plain s2) :
    popRmOp dst s = .ok () (p.put s2 v) := by
  unfold popRmOp
  rw [run_get_bind, run_bind_ok (peek_ok h)]
  refine (run_bind_ok (t := s1.withEsp (s.popped s.osz.bytes)) rfl).trans ?_
  rw [run_bind_ok hd]
  exact place_set v hp

/-- POPF restores the flags as the filter of R308 lets it (log 11). -/
theorem restoreFlags_popf (is16 : Bool) (cpl : Nat) (f : Eflags) (image : Word) :
    restoreFlags false is16 cpl f image = popfFlags is16 cpl f image := rfl

theorem popfBody_ok {v : Word} (h : StackItem s s.osz 0 v s1) : popfBody s = .ok ()
    ((s1.withEsp (s.popped s.osz.bytes)).withFlags (popfFlags (s.osz == .w) s.cpl s1.eflags v)) := by
  unfold popfBody
  rw [run_get_bind, run_bind_ok (peek_ok h), run_bind_ok (run_setFlags _ s1), restoreFlags_popf]
  rfl

/-- Settles O18: an item is read, ESP moves, and then the destination is checked and written. -/
theorem popCompletes : Obligations.PopCompletes := by
  refine ⟨fun dst s s1 s2 v p hl h hd hp => ?_, fun r s s1 v hl h => ?_, fun s s1 v hl h => ?_⟩
  · have hw := walks_of_place hd
    have hframe : MemFrame (s1.withEsp (s.popped s.osz.bytes)) (p.put s2 v).done p.bytes :=
      MemFrame.after_walk hw (memFrame_put p v rfl rfl rfl (put_cfg p s2 v))
    exact ⟨runInsn_done hl (popRmOp_ok h hd hp), h.walks, hw, MemFrame.after_walk h.walks hframe⟩
  · exact completes_of (runInsn_done hl (popRmOp_ok (p := .reg s.osz r) h rfl trivial)) h.walks (memFrame_same rfl rfl)
  · have hbody := popfBody_ok h
    rw [h.walks.eflags] at hbody
    exact completes_of (runInsn_done hl hbody) h.walks (memFrame_same rfl rfl)

end Sys2Proof.Machine
end

section
/-! PROOFS. Near transfers: the check of a target, jumps taken or not, near CALL and RET. -/
namespace Sys2Proof.Machine

variable {s s1 s2 : State}

/-! ## Targets -/

/-- A target within the code segment passes (R630). -/
theorem nearTarget_ok {v : Word} (h : s.inCode (s.target v)) : nearTarget v s = .ok (s.target v) s := by
  unfold nearTarget
  rw [run_get_bind]
  exact run_bind_ok ((run_require _ _ s).trans (if_pos h))

/-- A target beyond the limit is #GP(0) (R630). -/
theorem nearTarget_raise {v : Word} (h : ¬ s.inCode (s.target v)) :
    nearTarget v s = .error (.raise (.gp 0#16)) s := by
  unfold nearTarget
  rw [run_get_bind]
  exact run_bind_error ((run_require _ _ s).trans (if_neg h))

/-- The checks of an operand leave targets and the code segment. -/
theorem SameButWalk.target (h : SameButWalk s s1) (v : Word) : s1.target v = s.target v := by
  unfold State.target State.eipMask
  rw [h.segs, h.osz]

theorem SameButWalk.inCode (h : SameButWalk s s1) (v : Word) : s1.inCode v ↔ s.inCode v := by
  unfold State.inCode
  rw [h.segs]

/-- A displacement of operand size (R205, R630). -/
theorem relZ_osz (s : State) (rel : Word) : relZ s.osz rel = s.rel rel := by
  unfold relZ State.rel sext16
  simp only [beq_iff_eq]

/-! ## Jumps -/

theorem jumpRel_ok {d : Word} (h : s.inCode (s.target (s.ctx.nextEip + d))) :
    jumpRel d s = .ok () (s.goto (s.target (s.ctx.nextEip + d))) := by
  unfold jumpRel
  rw [run_get_bind, run_bind_ok (nearTarget_ok h)]
  rfl

theorem jumpRel_raise {d : Word} (h : ¬ s.inCode (s.target (s.ctx.nextEip + d))) :
    jumpRel d s = .error (.raise (.gp 0#16)) s := by
  unfold jumpRel
  rw [run_get_bind]
  exact run_bind_error (nearTarget_raise h)

/-- An instruction jumps by a displacement when a condition holds, else goes on to the next one; a target beyond the limit is
#GP(0) (R630, R631). -/
def JumpsWhen (s : State) (i : Instr) (taken : Prop) (d : Word) : Prop :=
  let t := s.target (s.ctx.nextEip + d)
  (taken → s.inCode t → exec i s = .next (s.goto t)) ∧
  (taken → ¬ s.inCode t → exec i s = takeException (.gp 0#16) s) ∧
  (¬ taken → exec i s = .next s.done)

/-- A body that tests a condition, then jumps or advances. -/
theorem jumpsWhen_of {i : Instr} {taken : Prop} {d : Word} {c : Bool} {body : M Unit} (hl : s.lockOk false)
    (hi : exec i s = runJump false body s) (hc : c = true ↔ taken)
    (hb : body s = if c = true then jumpRel d s else advance s) : JumpsWhen s i taken d := by
  refine ⟨fun ht hin => ?_, fun ht hout => ?_, fun ht => ?_⟩
  · rw [if_pos (hc.mpr ht), jumpRel_ok hin] at hb
    exact hi.trans (runJump_ok hl hb)
  · rw [if_pos (hc.mpr ht), jumpRel_raise hout] at hb
    exact hi.trans (runJump_raise hl hb)
  · rw [if_neg fun h => ht (hc.mp h)] at hb
    exact hi.trans (runJump_ok hl hb)

/-- The conditions of Jcc on the flags (R631). -/
theorem Cc.holds_iff (c : Cc) (f : Eflags) : c.holds f = true ↔ c.when f := by
  cases c <;> simp [Cc.holds, Cc.when]

theorem jccRel_eq (c : Cc) (d : Sz → Word) (s : State) :
    jccRel c d s = if c.holds s.eflags = true then jumpRel (d s.osz) s else advance s := by
  unfold jccRel
  rw [run_get_bind, run_ite]

theorem exec_jcc8 (c : Cc) (b : Byte) (s : State) :
    exec (Cc.jcc8 c b) s = runJump false (jccRel c fun _ => sext8 b) s := by
  cases c <;> rfl

theorem exec_jcc32 (c : Cc) (w : Word) (s : State) :
    exec (Cc.jcc32 c w) s = runJump false (jccRel c fun z => relZ z w) s := by
  cases c <;> rfl

/-- JECXZ tests CX with a 16-bit address size (R631). -/
theorem jecxz_iff (s : State) : ((if s.dctx.asz16 then Sz.w.trunc s.gpr.ecx else s.gpr.ecx) == 0#32) = true ↔
    (if s.dctx.asz16 then s.gpr.ecx &&& 0xFFFF#32 else s.gpr.ecx) = 0#32 := by
  rw [beq_iff_eq, trunc_w]

/-- JMP to the value of an r/m operand (R630). -/
theorem exec_jmpRm32_ok {src : RM Reg} {v : Word} (hl : s.lockOk false) (hr : readRM s.osz src s = .ok v s1)
    (h : s1.inCode (s1.target v)) : exec (.jmpRm32 src) s = .next (s1.goto (s1.target v)) :=
  runJump_ok hl (show (do jumpTo (← nearTarget (← readRM s.osz src)) : M Unit) s = .ok () (s1.goto (s1.target v)) from
    (run_bind_ok hr).trans ((run_bind_ok (nearTarget_ok h)).trans rfl))

theorem exec_jmpRm32_raise {src : RM Reg} {v : Word} (hl : s.lockOk false) (hr : readRM s.osz src s = .ok v s1)
    (h : ¬ s1.inCode (s1.target v)) : exec (.jmpRm32 src) s = takeException (.gp 0#16) (rollback s s1) :=
  runJump_raise hl (show (do jumpTo (← nearTarget (← readRM s.osz src)) : M Unit) s = .error (.raise (.gp 0#16)) s1 from
    (run_bind_ok hr).trans (run_bind_error (nearTarget_raise h)))

/-- Settles O20: one lemma for the relative jumps; JMP r/m checks the target after its operand. -/
theorem nearJumpsComplete : Obligations.NearJumpsComplete := by
  intro s hl jumps
  have hjump {i : Instr} {taken : Prop} {d : Word} (h : JumpsWhen s i taken d) : jumps i taken d := h
  refine ⟨fun b => ?_, fun w => ?_, fun c b => ?_, fun c w => ?_, fun b => ?_, fun src s1 p hs hp => ?_⟩
  · exact hjump (jumpsWhen_of (c := true) hl rfl (iff_of_true rfl trivial) rfl)
  · rw [← relZ_osz]
    exact hjump (jumpsWhen_of (c := true) hl rfl (iff_of_true rfl trivial) rfl)
  · exact hjump (jumpsWhen_of hl (exec_jcc8 c b s) (c.holds_iff _) (jccRel_eq c _ s))
  · rw [← relZ_osz]
    exact hjump (jumpsWhen_of hl (exec_jcc32 c w s) (c.holds_iff _) (jccRel_eq c _ s))
  · exact hjump (jumpsWhen_of hl rfl (jecxz_iff s) (run_ite _ _ _ s))
  · have hw := walks_of_place hs
    rw [← hw.target, ← hw.inCode]
    exact ⟨fun h => completes_of (exec_jmpRm32_ok hl (readRM_ok hs hp) h) hw (memFrame_same rfl rfl),
      exec_jmpRm32_raise hl (readRM_ok hs hp)⟩

/-! ## CALL and RET -/

/-- A near CALL checks its target, then pushes the address of the next instruction (R632). -/
theorem callNear_ok {v : Word} {pas : List Nat} {esp : Word} (ht : s.inCode (s.target v))
    (h : pushPrep s.osz 1 s = .ok ([pas], esp) s1) (hp : s1.plain pas) :
    callNear v s = .ok () (((s1.storeAt pas s.ctx.nextEip.toNat).withEsp esp).goto (s.target v)) := by
  unfold callNear
  rw [run_get_bind, run_bind_ok (nearTarget_ok ht), run_bind_ok (push_ok _ h hp)]
  rfl

/-- A near RET takes its target from the stack and releases bytes above it (R633). -/
theorem retNear_ok {v : Word} (n : Nat) (h : StackItem s s.osz 0 v s1) (ht : s.inCode (s.target v)) :
    retNear n s = .ok () ((s1.withEsp (s.popped (s.osz.bytes + n))).goto (s.target v)) := by
  have hw := h.walks
  have htarget : nearTarget v s1 = .ok (s.target v) s1 := by
    rw [← hw.target] at ht ⊢
    exact nearTarget_ok ((hw.inCode _).mpr ht)
  unfold retNear
  rw [run_get_bind, run_bind_ok (peek_ok h), run_bind_ok htarget]
  rfl

theorem memFrame_call (s : State) (pas : List Nat) (v : Nat) (esp t : Word) :
    MemFrame s (((s.storeAt pas v).withEsp esp).goto t) pas :=
  memFrame_storeAt (u := s) pas v rfl rfl rfl (storeAt_cfg s pas v)

theorem exec_callRel32_ok {w : Word} {t : State} (hl : s.lockOk false)
    (h : callNear (s.ctx.nextEip + s.rel w) s = .ok () t) : exec (.callRel32 w) s = .next t := by
  have hbody : (do let u ← get; callNear (u.ctx.nextEip + relZ u.osz w) : M Unit) s = .ok () t := by
    rw [run_get_bind, relZ_osz]
    exact h
  exact runJump_ok hl hbody

theorem exec_callRm32_ok {src : RM Reg} {v : Word} {t : State} (hl : s.lockOk false) (hr : readRM s.osz src s = .ok v s1)
    (h : callNear v s1 = .ok () t) : exec (.callRm32 src) s = .next t :=
  runJump_ok hl (show (do callNear (← readRM s.osz src) : M Unit) s = .ok () t from (run_bind_ok hr).trans h)

/-- Settles O21: the target is that of the state before the checks, which change no register. -/
theorem nearCallsAndReturnsComplete : Obligations.NearCallsAndReturnsComplete := by
  refine ⟨fun w s s1 pas esp hl ht h hp => ?_, fun src s s1 s2 p pas esp hl hs hp ht h hpas => ?_,
    fun n s s1 v hl h ht => ⟨?_, ?_⟩⟩
  · exact completes_of (exec_callRel32_ok hl (callNear_ok ht h hp)) (walks_of_pushPrep h) (memFrame_call s1 pas _ esp _)
  · have hw := walks_of_place hs
    have hin : s1.inCode (s1.target (p.value s1)) := by
      rw [hw.target, hw.inCode]
      exact ht
    rw [← hw.osz] at h
    have hbody := callNear_ok hin h hpas
    rw [hw.target, hw.ctx] at hbody
    exact completes_of (exec_callRm32_ok hl (readRM_ok hs hp) hbody) (hw.trans (walks_of_pushPrep h))
      (memFrame_call s2 pas _ esp _)
  · exact completes_of (runJump_ok hl (retNear_ok 0 h ht)) h.walks (memFrame_same rfl rfl)
  · exact completes_of (runJump_ok hl (retNear_ok n.toNat h ht)) h.walks (memFrame_same rfl rfl)

end Sys2Proof.Machine
end

section
/-! PROOFS. NOP, PAUSE, the fences and CLFLUSH: bodies that change nothing, and the line that CLFLUSH writes back. -/
namespace Sys2Proof.Machine

variable {s : State}

theorem run_fromP4_ok (h : s.cfg.family = .p4Xeon) : fromP4 s = .ok () s := by
  unfold fromP4
  rw [run_get_bind, beq_iff_eq.mpr h, run_require_true]

/-- After bytes at distinct addresses are written back, those addresses read as memory does, others as before (R366). -/
theorem read_writes_map (m mem : Memory) {pas : List Nat} (hd : pas.Nodup) (a : Nat) :
    (m.writes (pas.map fun x => (x, mem.read x))).read a = if a ∈ pas then mem.read a else m.read a := by
  split
  next h =>
    refine Memory.read_writes_mem _ m ?_ (List.mem_map.mpr ⟨a, h, rfl⟩)
    rw [List.map_map]
    exact (List.map_id pas).symm ▸ hd
  next h =>
    refine Memory.read_writes_other _ m a fun w hw he => h ?_
    obtain ⟨x, hx, rfl⟩ := List.mem_map.mp hw
    exact he ▸ hx

/-- The line of 64 bytes that holds an address (R368, log 14). -/
theorem mem_line_iff (p a : Nat) : a ∈ addrsFrom (p / 64 * 64) 64 ↔ a / 64 = p / 64 := by
  rw [mem_addrsFrom]
  omega

theorem writeBack_line_read (s : State) (p a : Nat) : (s.writeBack (addrsFrom (p / 64 * 64) 64)).memWb.read a =
    if a / 64 = p / 64 then s.mem.read a else s.memWb.read a := by
  simp only [← mem_line_iff]
  exact read_writes_map s.memWb s.mem (addrsFrom_nodup _ _) a

/-- The linear address of CLFLUSH's operand is translated without exception or trace (R368). -/
theorem clflushBody_ok {m : Mem} {p : Nat} {t : State}
    (h : translate ((s.segs.get (s.memSeg m)).base + effAddr s.gpr m) .read false s = .ok p t) :
    clflushBody m s = .ok () (s.writeBack (addrsFrom (p / 64 * 64) 64)) := by
  unfold clflushBody
  rw [run_get_bind, h]
  rfl

theorem clflushBody_none {m : Mem} {e : Stop} {t : State}
    (h : translate ((s.segs.get (s.memSeg m)).base + effAddr s.gpr m) .read false s = .error e t) :
    clflushBody m s = .ok () s := by
  unfold clflushBody
  rw [run_get_bind, h]
  rfl

/-- Settles O22: CLFLUSH goes by the translation of its operand; the other bodies change nothing. -/
theorem noEffectCompletes : Obligations.NoEffectCompletes := by
  intro s m hl
  refine ⟨runInsn_done hl rfl, runInsn_done hl rfl, fun h => ?_, fun h => ?_⟩
  · have hcheck : (do require (← get).cfg.hasSse .ud : M Unit) s = .ok () s := by
      rw [run_get_bind, h, run_require_true]
    exact runInsn_done hl hcheck
  · have hcheck := run_fromP4_ok h
    refine ⟨runInsn_done hl hcheck, runInsn_done hl hcheck, fun p t hp => ?_, fun e t he => ?_⟩
    · exact ⟨_, runInsn_done hl ((run_bind_ok hcheck).trans (clflushBody_ok hp)), writeBack_line_read s p⟩
    · exact runInsn_done hl ((run_bind_ok hcheck).trans (clflushBody_none he))

end Sys2Proof.Machine
end

section
/-! PROOFS. IN and OUT: the permission check by level or by the bit map, then the access. -/
namespace Sys2Proof.Machine

variable {s s1 : State} {port n : Nat}

/-- The bit map allows an access whose bits lie within the TSS limit and are 0 (R608, R322). -/
theorem ioMapAllows_ok {base v : Nat} {s2 : State} (h32 : s.sys.tr.attr.typ.getLsbD 3 = true)
    (hfield : 103 ≤ s.sys.tr.limit.toNat) (hb : SysItem s (s.sys.tr.base + 102#32) 2 base s1)
    (hbase : base < s.sys.tr.limit.toNat) (hend : base + (port + n - 1) / 8 ≤ s.sys.tr.limit.toNat)
    (hv : SysItem s1 (s.sys.tr.base + BitVec.ofNat 32 (base + port / 8)) ((port + n - 1) / 8 - port / 8 + 1) v s2)
    (hz : v / 2 ^ (port % 8) % 2 ^ n = 0) : ioMapAllows port n s = .ok true s2 := by
  have hmap : (!s.sys.tr.attr.typ.getLsbD 3 || decide (s.sys.tr.limit.toNat < 103)) = false := by
    rw [h32, decide_eq_false (Nat.not_lt.mpr hfield)]
    rfl
  have hlim : ¬ (s.sys.tr.limit.toNat ≤ base ∨ s.sys.tr.limit.toNat < base + (port + n - 1) / 8) := by omega
  unfold ioMapAllows
  rw [run_get_bind]
  dsimp only
  rw [if_neg (ne_true_of_eq_false hmap), run_bind_ok (sysRead_ok hb), if_neg hlim, run_bind_ok (sysRead_ok hv), hz]
  rfl

/-- An allowed access passes the check of IN and OUT (R608). -/
theorem ioCheck_ok (h : IoAllowed s port n s1) : ioCheck port n s = .ok () s1 := by
  unfold ioCheck
  rw [run_get_bind]
  cases h with
  | level hlev =>
    have hc : (s.prot && decide (s.iopl < s.cpl)) = false := by
      cases hp : s.prot with
      | false => rfl
      | true => exact decide_eq_false (Nat.not_lt.mpr (hlev hp))
    rw [hc]
    rfl
  | map base v s' _ hp hlev h32 hfield hb hbase hend hv hz =>
    rw [hp, decide_eq_true hlev, Bool.and_self, if_pos rfl, run_bind_ok (ioMapAllows_ok h32 hfield hb hbase hend hv hz),
      run_require_true]

theorem IoAllowed.walks (h : IoAllowed s port n s1) : SameButWalk s s1 := by
  cases h with
  | level => exact .refl s
  | map base v s' _ _ _ _ _ hb _ _ hv => exact hb.walks.trans hv.walks

/-- IN of a width at an allowed port (R608). -/
theorem inOp_ok {z : Sz} {dst : Place} (h : IoAllowed s port z.bytes s1) (hd : ∀ t, dst.plain t) : inOp z dst port s =
    .ok () (dst.put (s1.used 1) (z.trunc (Config.ioRead port z.bytes s1.free))) := by
  unfold inOp
  rw [run_bind_ok (ioCheck_ok h), run_fresh_bind]
  exact place_set _ (hd _)

/-- OUT of a width at an allowed port (R608). -/
theorem outOp_ok {z : Sz} {src : Place} (h : IoAllowed s port z.bytes s1) (hp : ∀ t, src.plain t) : outOp z src port s =
    .ok () { s1 with bus := s1.bus ++ [.ioWrite port z.bytes (src.value s1)] } := by
  unfold outOp
  rw [run_bind_ok (ioCheck_ok h), run_bind_ok (place_get (hp s1))]
  rfl

/-- IN and OUT with AL complete (R608). -/
theorem completes_io8 {i o : Instr} (hl : s.lockOk false) (h : IoAllowed s port 1 s1)
    (hi : exec i s = runInsn false (inOp .b (.reg8 .al) port) s)
    (ho : exec o s = runInsn false (outOp .b (.reg8 .al) port) s) :
    Completes i s s1 ((s1.used 1).setReg8 .al (Sz.b.trunc (Config.ioRead port 1 s1.free))).done [] ∧
    Completes o s s1 (State.done { s1 with bus := s1.bus ++ [.ioWrite port 1 (s.gpr.read8 .al)] }) [] := by
  have hout := outOp_ok (z := .b) (src := .reg8 .al) h fun _ => trivial
  rw [h.walks.value_reg8] at hout
  exact ⟨completes_of (hi.trans (runInsn_done hl (inOp_ok (z := .b) (dst := .reg8 .al) h fun _ => trivial))) h.walks
      (memFrame_same rfl rfl),
    completes_of (ho.trans (runInsn_done hl hout)) h.walks (memFrame_same rfl rfl)⟩

/-- IN and OUT with eAX complete. -/
theorem completes_ioZ {i o : Instr} (hl : s.lockOk false) (h : IoAllowed s port s.osz.bytes s1)
    (hi : exec i s = runInsn false (atOsz fun z => inOp z (.reg z .eax) port) s)
    (ho : exec o s = runInsn false (atOsz fun z => outOp z (.reg z .eax) port) s) :
    Completes i s s1
      ((s1.used 1).setReg s.osz .eax (s.osz.trunc (Config.ioRead port s.osz.bytes s1.free))).done [] ∧
    Completes o s s1
      (State.done { s1 with bus := s1.bus ++ [.ioWrite port s.osz.bytes (s.gpr.read s.osz .eax)] }) [] := by
  have hout := outOp_ok (z := s.osz) (src := .reg s.osz .eax) h fun _ => trivial
  rw [h.walks.value_reg] at hout
  exact ⟨completes_of (hi.trans (runInsn_done hl (inOp_ok (z := s.osz) (dst := .reg s.osz .eax) h fun _ => trivial))) h.walks
      (memFrame_same rfl rfl),
    completes_of (ho.trans (runInsn_done hl hout)) h.walks (memFrame_same rfl rfl)⟩

/-- Settles O47: one lemma for each width, at the port of the immediate or of DX. -/
theorem portAccess : Obligations.PortAccess := by
  intro k s s1 hl
  exact ⟨fun h => completes_io8 hl h rfl rfl, fun h => completes_ioZ hl h rfl rfl, fun h => completes_io8 hl h rfl rfl,
    fun h => completes_ioZ hl h rfl rfl⟩

end Sys2Proof.Machine
end

section
/-! PROOFS. A step without a pending event: the fetch on one page, the items run from where the next address is known, and the
single-step trap after them. -/
namespace Sys2Proof.Machine

variable {s t u : State} {p n len : Nat} {is : List Instr}

/-! ## The fetch -/

/-- Bytes outside the local APIC's page are read as they stand (R484). -/
theorem fetchBytes_plain {pas : List Nat} (h : s.plain pas) : fetchBytes pas s = .ok (pas.map s.physByte) s := by
  unfold State.plain at h
  unfold fetchBytes
  rw [run_get_bind, h]
  rfl

/-- An instruction that ends on its first page is fetched by one translation (R207). -/
theorem fetchInsn_items (hroom : s.fetchRoom ≠ 0) (hn : n = min s.fetchRoom (4096 - s.fetchLin.toNat % 4096))
    (ht : translate s.fetchLin .exec (s.cpl == 3) s = .ok p u) (hpl : u.plain (addrsFrom p n))
    (hd : decodeInsn s.segs.cs.attr.db ((addrsFrom p n).map u.physByte) = .items is len) :
    fetchInsn s = .ok (is, len) u := by
  subst hn
  unfold fetchInsn
  rw [run_get_bind, bne_iff_ne.mpr hroom, run_require_true_bind, run_bind_ok ht, run_bind_ok (fetchBytes_plain hpl), hd]
  rfl

/-- The page walk of the fetch leaves the address at which the instruction begins, and the next one's (R23). -/
theorem beginInsn_of_walk (h : SameButWalk s u) (len : Nat) : beginInsn len u =
    { u with eip := s.eipMask s.eip, ctx := ⟨s.eipMask (s.eip + BitVec.ofNat 32 len), Pfx.none, false⟩ } := by
  unfold beginInsn State.eipMask
  rw [h.eip, h.segs]

/-! ## The instruction -/

/-- One item runs as the instruction that it is. -/
theorem runItems_singleton (i : Instr) (s : State) : runItems [i] s = exec i s := by
  unfold runItems
  cases exec i s <;> rfl

/-- Without single-stepping no trap is left (R431). -/
theorem singleStep_off (r : Result) : singleStep false r = r := by cases r <;> rfl

/-- An instruction that is single-stepped and completes leaves a trap (R431). -/
theorem singleStep_completed {w : State} (h : w.ctx.delivered = false) :
    singleStep true (.next w) = .next { w with pend := { w.pend with stepTrap := true } } := by
  refine congrArg Host.Outcome.next (if_pos ?_)
  rw [h]
  rfl

/-- An instruction that is fetched runs (R413). -/
theorem runInstruction_fetched (hv : s.v86 = false) (hf : fetchInsn s = .ok (is, len) u) :
    runInstruction s = singleStep s.stepping (runItems is (beginInsn len u)) := by
  unfold runInstruction
  rw [hv, hf]
  rfl

/-- At a boundary at which nothing is pending an instruction runs, the shadow over (R408, R413). -/
theorem step_runInstruction (hb : boundary s = .ok () t) (hdel : t.pend.delivering = none) (hsipi : t.act.waitSipi = false)
    (hre : t.pend.reattempt = none) (htask : t.pend.taskTrap = false) (hinit : t.pend.init = false)
    (hsmi : t.pend.smi = false) (hstop : t.stopped = false) (htrap : t.pend.stepTrap = false) (hreq : t.request = none)
    (hidle : t.idle = false) : step s = runInstruction t.clearShadow := by
  have hstep : step s = afterBoundary t := by
    unfold step
    rw [hb]
  rw [hstep]
  unfold afterBoundary
  simp only [hdel, hsipi, hre, htask, hinit, hsmi, hstop, htrap, hreq, hidle, Bool.false_and, Bool.false_eq_true, if_false]

/-- Settles O58: the boundary leads to the fetch, the fetch to the items, and what follows them is the single-step trap. -/
theorem stepRunsInstruction : Obligations.StepRunsInstruction := by
  intro s t u p n len is hb hdel hsipi hre htask hinit hsmi hstop htrap hreq hidle hv ip hn hroom ht hpl hd start
  have hfetch : fetchInsn t.clearShadow = .ok (is, len) u := fetchInsn_items hroom hn ht hpl hd
  have hreal : t.clearShadow.v86 = false := hv
  have hwalk : SameButWalk t.clearShadow u := (walks_translate _ _ _ _).of_ok ht
  have hbegin : beginInsn len u = start := beginInsn_of_walk hwalk len
  have hrun : step s = singleStep t.stepping (runItems is start) := by
    rw [step_runInstruction hb hdel hsipi hre htask hinit hsmi hstop htrap hreq hidle,
      runInstruction_fetched hreal hfetch, hbegin]
    rfl
  refine ⟨fun hs => ?_, fun hs w hw hcomp => ?_⟩
  · have hitems : step s = runItems is start := by rw [hrun, hs, singleStep_off]
    exact ⟨hitems, fun i hi => by rw [hitems, hi, runItems_singleton]⟩
  · rw [hrun, hs, hw, singleStep_completed hcomp]

end Sys2Proof.Machine
end

section
/-! PROOFS. Deliveries of events, and the exception met in one: the bytes that a task gate's delivery stores to, and how the
classes of R409 decide what is delivered next. -/
namespace Sys2Proof.Machine

variable {s s1 t u : State} {ev : Event} {e : Exc} {bytes : List Nat}

/-! ## Delivery -/

/-- What follows a delivery changes no byte. -/
theorem Touches.awakened (h : Touches s t bytes) (k : EventKind) : Touches s (t.awakened k) bytes := h.congr rfl rfl rfl

theorem Touches.taken (h : Touches s t bytes) (k : EventKind) : Touches s (t.taken k) bytes := h.congr rfl rfl rfl

theorem TaskGateFor.walks {g : Desc} (h : TaskGateFor ev s g s1) : SameButWalk s s1 := by
  obtain ⟨v, -, -, hv, -⟩ := h
  exact hv.walks

/-- An error code on the new task's stack stores to its place after the switch's bytes (R428). -/
theorem Touches.pushCode {ss : SegReg} {user : Bool} {z : Sz} {esp0 esp : Word} {pas : List Nat} (h : Touches s t bytes)
    (hp : pushPlaces ss e user z 1 esp0 t = .ok ([pas], esp) u) (v : Nat) :
    Touches s ((u.storeAt pas v).withEsp esp) (bytes ++ pas) :=
  ((h.andWalk (walks_of_pushPlaces hp)).trans (.storeAt u pas v)).congr rfl rfl rfl

/-- Settles O28: a delivery that meets no exception ends the loop at once; the task gate's is a switch, then the error code. -/
theorem eventDelivery : Obligations.EventDelivery := by
  refine ⟨fun ev s t bytes h => ⟨takeEvent_delivers h, (h.touches.taken ev.kind).frame⟩, fun ev g s s1 t bytes hg hs => ?_⟩
  obtain ⟨hnone, hcode⟩ := deliverTask_ok hg hs
  have switch : Touches s t bytes := hs.touches.after hg.walks
  refine ⟨fun hc => ⟨takeEvent_ok (hnone hc), (switch.awakened ev.kind).frame⟩, fun c pas esp u hc hp hpl => ⟨?_, ?_⟩⟩
  · exact takeEvent_ok (hcode c pas esp u hc hp hpl)
  · exact ((switch.pushCode hp c.toNat).awakened ev.kind).frame

/-! ## The classes of R409 -/

theorem vectorClass_pageFault_iff (v : Byte) : vectorClass v = .pageFault ↔ v = 14#8 := by
  unfold vectorClass
  split
  · simp_all
  · split <;> simp_all

theorem vectorClass_contributory_iff (v : Byte) : vectorClass v = .contributory ↔ contributory v := by
  unfold vectorClass contributory
  split
  · rename_i h
    rw [beq_iff_eq.mp h]
    decide
  · split <;> simp_all [or_assoc]

theorem doubleFaults_iff (a b : ExcClass) : doubleFaults a b = true ↔
    a = .contributory ∧ b = .contributory ∨ a = .pageFault ∧ (b = .contributory ∨ b = .pageFault) := by
  cases a <;> cases b <;> decide

/-- The table of R409 for an event and an exception. -/
theorem doubleFaults_iff_toDoubleFault : doubleFaults ev.class (vectorClass e.vector) = true ↔ toDoubleFault ev e := by
  unfold Event.class toDoubleFault
  by_cases hk : ev.kind = .exception
  · rw [if_pos (beq_iff_eq.mpr hk), doubleFaults_iff]
    simp only [vectorClass_contributory_iff, vectorClass_pageFault_iff, hk, true_and]
  · rw [if_neg fun h => hk (beq_iff_eq.mp h), doubleFaults_iff]
    simp [hk]

/-- #DF is neither contributory nor a page fault. -/
theorem toDoubleFault.not_df (h : toDoubleFault ev e) : ev.vector ≠ 8#8 := by
  obtain ⟨-, ⟨hv, -⟩ | ⟨hv, -⟩⟩ := h
  · intro h8
    rw [h8] at hv
    exact absurd hv (by unfold contributory; decide)
  · rw [hv]
    decide

/-! ## The second exception -/

section
variable {k : Event → State → Result} {hold : State → State}

/-- While #DF is delivered an exception shuts the processor down. -/
theorem nestedException_df (hk : ev.kind = .exception) (hv : ev.vector = 8#8) :
    nestedException k hold ev e s = .next (shutDown s) := by
  unfold nestedException
  rw [hk, hv]
  rfl

theorem nestedException_double (h : toDoubleFault ev e) :
    nestedException k hold ev e s = k (doubleFaultEvent s) { s with free := s.free + 2 } := by
  have h8 : (ev.kind == .exception && ev.vector == 8#8) = false := by rw [beq_eq_false_iff_ne.mpr h.not_df, Bool.and_false]
  unfold nestedException
  rw [h8, doubleFaults_iff_toDoubleFault.mpr h]
  rfl

theorem nestedException_serial (h : ¬ toDoubleFault ev e) (h8 : ¬ (ev.kind = .exception ∧ ev.vector = 8#8)) :
    nestedException k hold ev e s = k (e.event s) (hold s) := by
  unfold nestedException
  rw [if_neg (by simpa using h8), if_neg (doubleFaults_iff_toDoubleFault.not.mpr h)]

end

/-- A delivery that meets no exception ends the loop, whatever fuel is left. -/
theorem deliverLoop_delivers (h : Delivers ev s t bytes) (fuel : Nat) (again : Bool) :
    deliverLoop (fuel + 1) again ev s = .next (t.taken ev.kind) := by
  rw [deliverLoop, deliver_ok h]
  rfl

/-- An exception met in the first delivery: the instruction's restart raises the event again, so nothing is held (R409). -/
theorem takeEvent_raise (h : deliverOnce ev s = .error (.raise e) s1) :
    takeEvent ev s = nestedException (deliverLoop 15 false) (fun t => t.holdException false ev) ev e (rollback s s1) := by
  unfold takeEvent deliverFuel
  rw [deliverLoop, h]

/-- The event of an exception, its flag RF read as a condition (R404, R426). -/
theorem event_eq (e : Exc) (s : State) :
    e.event s = ⟨e.vector, .exception, e.code, ⟨s.segs.cs.sel, s.eip, if e = .db then s.eflags.rf else true⟩⟩ := by
  unfold Exc.event State.resumeHere
  simp only [beq_iff_eq]

/-- Settles O50: the first delivery ends in the exception, R409's table picks what follows, and its delivery meets none. -/
theorem doubleFaultRule : Obligations.DoubleFaultRule := by
  intro ev e s s1 hraise u
  rw [takeEvent_raise hraise]
  refine ⟨fun hk hv => ?_, fun hdf t bytes hd => ?_, fun hdf h8 t bytes hd => ?_⟩
  · rw [nestedException_df hk hv]
    rfl
  · rw [nestedException_double hdf]
    exact deliverLoop_delivers (ev := doubleFaultEvent u) hd 14 false
  · rw [nestedException_serial hdf h8]
    rw [← event_eq] at hd
    exact deliverLoop_delivers hd 14 false

end Sys2Proof.Machine
end

section
/-! PROOFS. The 256-bit vector registers of the local APIC: what a bit is after a change, which vector is the highest, which one is
offered; and that bits 0 to 15 stay clear. -/
namespace Sys2Proof.Machine

/-! ## Bits of a register -/

/-- Setting or clearing a bit changes that bit alone; a number beyond the width has none. -/
theorem getLsbD_setOrClear {n : Nat} (x : BitVec n) (v : Nat) (b : Bool) (k : Nat) :
    (if b then x ||| (1#n <<< v) else x &&& ~~~(1#n <<< v)).getLsbD k = if k = v ∧ k < n then b else x.getLsbD k := by
  have hone : (1#n <<< v).getLsbD k = decide (k = v ∧ k < n) := by
    show (BitVec.twoPow n v).getLsbD k = _
    rw [BitVec.getLsbD_twoPow, ← Bool.decide_and]
    exact decide_eq_decide.mpr (by omega)
  by_cases h : k = v ∧ k < n
  · rw [if_pos h]
    cases b with
    | true => rw [if_pos rfl, BitVec.getLsbD_or, hone, decide_eq_true h, Bool.or_true]
    | false =>
      rw [if_neg Bool.false_ne_true, BitVec.getLsbD_and, BitVec.getLsbD_not, hone, decide_eq_true h, Bool.not_true,
        Bool.and_false, Bool.and_false]
  · rw [if_neg h]
    cases b with
    | true => rw [if_pos rfl, BitVec.getLsbD_or, hone, decide_eq_false h, Bool.or_false]
    | false =>
      rw [if_neg Bool.false_ne_true, BitVec.getLsbD_and, BitVec.getLsbD_not, hone, decide_eq_false h, Bool.not_false,
        Bool.and_true]
      cases hx : x.getLsbD k with
      | true => exact decide_eq_true (BitVec.lt_of_getLsbD hx)
      | false => rfl

/-- A vector register when one vector is set or cleared (R543). -/
theorem getLsbD_setVec (x : BitVec 256) (v : Nat) (b : Bool) (k : Nat) :
    (setVec x v b).getLsbD k = if k = v ∧ k < 256 then b else x.getLsbD k := getLsbD_setOrClear x v b k

theorem getLsbD_setVec_self {x : BitVec 256} {v : Nat} {b : Bool} (h : v < 256) : (setVec x v b).getLsbD v = b := by
  rw [getLsbD_setVec, if_pos ⟨rfl, h⟩]

theorem getLsbD_setVec_ne {x : BitVec 256} {v k : Nat} {b : Bool} (h : k ≠ v) : (setVec x v b).getLsbD k = x.getLsbD k := by
  rw [getLsbD_setVec, if_neg fun hk => h hk.1]

/-! ## The highest vector -/

theorem topBit_eq_none_iff {x : BitVec 256} {n : Nat} : topBit x n = none ↔ ∀ w, w < n → x.getLsbD w = false := by
  induction n with
  | zero => simp [topBit]
  | succ n ih =>
    rw [topBit, Nat.forall_lt_succ_right, ← ih]
    cases x.getLsbD n <;> simp

theorem topBit_eq_some_iff {x : BitVec 256} {n v : Nat} :
    topBit x n = some v ↔ v < n ∧ x.getLsbD v = true ∧ ∀ w, v < w → w < n → x.getLsbD w = false := by
  induction n with
  | zero => simp [topBit]
  | succ n ih =>
    rw [topBit]
    cases hn : x.getLsbD n with
    | true =>
      simp only [if_true, Option.some.injEq]
      constructor
      · rintro rfl
        exact ⟨by omega, hn, fun w h1 h2 => by omega⟩
      · rintro ⟨h1, -, h3⟩
        by_contra hne
        exact absurd hn (by simp [h3 n (by omega) (by omega)])
    | false =>
      rw [if_neg Bool.false_ne_true, ih]
      constructor
      · rintro ⟨h1, h2, h3⟩
        refine ⟨by omega, h2, fun w hw hlt => ?_⟩
        rcases Nat.lt_succ_iff_lt_or_eq.mp hlt with h | rfl
        exacts [h3 w hw h, hn]
      · rintro ⟨h1, h2, h3⟩
        have hne : v ≠ n := fun h => by simp [← h, h2] at hn
        exact ⟨by omega, h2, fun w hw hlt => h3 w hw (by omega)⟩

/-- No vector is the highest exactly if none is set (R543). -/
theorem highest_eq_none_iff {x : BitVec 256} : highest x = none ↔ ∀ w, x.getLsbD w = false := by
  unfold highest
  split
  · rename_i h
    rw [eq_of_beq h]
    simp
  · rw [topBit_eq_none_iff]
    refine ⟨fun h w => ?_, fun h w _ => h w⟩
    by_cases hw : w < 256
    exacts [h w hw, BitVec.getLsbD_of_ge x w (Nat.le_of_not_lt hw)]

/-- The highest vector is set, and none above it (R543). -/
theorem highest_eq_some_iff {x : BitVec 256} {v : Nat} :
    highest x = some v ↔ x.getLsbD v = true ∧ ∀ w, v < w → x.getLsbD w = false := by
  unfold highest
  split
  · rename_i h
    rw [eq_of_beq h]
    simp
  · rw [topBit_eq_some_iff]
    constructor
    · rintro ⟨-, h2, h3⟩
      refine ⟨h2, fun w hw => ?_⟩
      by_cases hlt : w < 256
      exacts [h3 w hw hlt, BitVec.getLsbD_of_ge x w (Nat.le_of_not_lt hlt)]
    · exact fun ⟨h2, h3⟩ => ⟨BitVec.lt_of_getLsbD h2, h2, fun w hw _ => h3 w hw⟩

/-! ## Priorities and the offered vector -/

/-- The processor priority's class is the higher of the task priority's and that of the highest vector in service (R542). -/
theorem ppr_class (a : Apic) : a.ppr / 16 = max (a.tpr.toNat / 16) (highestOr0 a.isr / 16) := by
  unfold Apic.ppr
  split <;> omega

/-- A class is above that of the highest vector exactly if it is above that of every vector, where 0 is below it. -/
theorem highestOr0_class_lt {x : BitVec 256} {c : Nat} (hc : 0 < c) :
    highestOr0 x / 16 < c ↔ ∀ w, x.getLsbD w = true → w / 16 < c := by
  unfold highestOr0
  cases h : highest x with
  | none =>
    rw [highest_eq_none_iff] at h
    simpa [h] using hc
  | some v =>
    rw [highest_eq_some_iff] at h
    obtain ⟨hv, habove⟩ := h
    refine ⟨fun hlt w hw => ?_, fun hall => hall v hv⟩
    have hle : w ≤ v := by
      by_contra hgt
      simp [habove w (by omega)] at hw
    have hlt : v / 16 < c := hlt
    omega

/-- The APIC offers the highest vector of the IRR, if its class is above the processor priority's (R544). -/
theorem offer_eq_some_iff {a : Apic} {v : Nat} :
    a.offer = some v ↔ highest a.irr = some v ∧ a.ppr / 16 < v / 16 := by
  unfold Apic.offer
  cases highest a.irr with
  | none => simp
  | some w =>
    simp only [Option.ite_none_right_eq_some, Option.some.injEq]
    constructor
    · rintro ⟨h, rfl⟩
      exact ⟨rfl, h⟩
    · rintro ⟨rfl, h⟩
      exact ⟨h, rfl⟩

theorem offer_lt {a : Apic} {v : Nat} (h : a.offer = some v) : v < 256 := by
  obtain ⟨hirr, -⟩ := offer_eq_some_iff.mp h
  exact BitVec.lt_of_getLsbD (highest_eq_some_iff.mp hirr).1

/-- The vectors of class 0 are never above the processor priority (R518, R544). -/
theorem le_of_offer {a : Apic} {v : Nat} (h : a.offer = some v) : 16 ≤ v := by
  obtain ⟨-, hclass⟩ := offer_eq_some_iff.mp h
  omega

/-- A vector that the core accepts from the local APIC is the one offered (R412, R544). -/
theorem offer_of_request {s : State} {b : Byte} (h : s.request = some (.apic b)) : s.apic.offer = some b.toNat := by
  have hreq : s.apicRequest = some (.apic b) := by
    unfold State.request State.maskableRequest at h
    split at h
    · cases h
    split at h
    · dsimp only at h
      split at h
      · split at h <;> cases h
      · rename_i r hr
        split at h
        · cases h
        · cases h
          exact (Option.filter_eq_some_iff.mp hr).1
    · cases h
  unfold State.apicRequest at hreq
  split at hreq
  · cases hreq
  split at hreq
  · rename_i v hv
    cases hreq
    rw [hv, BitVec.toNat_ofNat, Nat.mod_eq_of_lt (offer_lt hv)]
  · cases hreq
  · cases hreq

/-! ## Vectors 0 to 15 -/

/-- No vector of class 0 is set (R543). -/
def ClassZeroClear (x : BitVec 256) : Prop := ∀ k, k < 16 → x.getLsbD k = false

theorem vectorsOk_iff (s : State) :
    s.vectorsOk ↔ ClassZeroClear s.apic.irr ∧ ClassZeroClear s.apic.isr ∧ ClassZeroClear s.apic.tmr :=
  ⟨fun h => ⟨fun k hk => (h k hk).1, fun k hk => (h k hk).2.1, fun k hk => (h k hk).2.2⟩,
    fun ⟨hirr, hisr, htmr⟩ k hk => ⟨hirr k hk, hisr k hk, htmr k hk⟩⟩

theorem ClassZeroClear.zero : ClassZeroClear 0#256 := fun _ _ => BitVec.getLsbD_zero

/-- A vector from 16 on may be set and cleared. -/
theorem ClassZeroClear.setVec {x : BitVec 256} {v : Nat} (h : ClassZeroClear x) (hv : 16 ≤ v) (b : Bool) :
    ClassZeroClear (setVec x v b) := fun k hk => by
  rw [getLsbD_setVec_ne (by omega)]
  exact h k hk

/-- Any vector may be cleared. -/
theorem ClassZeroClear.clear {x : BitVec 256} (h : ClassZeroClear x) (v : Nat) : ClassZeroClear (Machine.setVec x v false) :=
  fun k hk => by
    rw [getLsbD_setVec]
    split
    exacts [rfl, h k hk]

/-- The invariant depends on the three vector registers alone. -/
theorem vectorsOk_congr {s t : State} (h : s.vectorsOk) (hirr : t.apic.irr = s.apic.irr) (hisr : t.apic.isr = s.apic.isr)
    (htmr : t.apic.tmr = s.apic.tmr) : t.vectorsOk := by
  rw [vectorsOk_iff] at h ⊢
  rwa [hirr, hisr, htmr]

theorem vectorsOk_of_apic {s t : State} (h : s.vectorsOk) (hapic : t.apic = s.apic) : t.vectorsOk :=
  vectorsOk_congr h (by rw [hapic]) (by rw [hapic]) (by rw [hapic])

/-- RESET and INIT clear the vector registers (R552, R553). -/
theorem vectorsOk_of_zero {t : State} (hirr : t.apic.irr = 0#256) (hisr : t.apic.isr = 0#256) (htmr : t.apic.tmr = 0#256) :
    t.vectorsOk := by
  rw [vectorsOk_iff, hirr, hisr, htmr]
  exact ⟨.zero, .zero, .zero⟩

/-- An interrupt is logged in IRR and TMR (R538). -/
theorem vectorsOk_log {s : State} {v : Nat} (l : Bool) (hv : 16 ≤ v) (h : s.vectorsOk) :
    State.vectorsOk { s with apic := s.apic.log v l } := by
  rw [vectorsOk_iff] at h ⊢
  obtain ⟨hirr, hisr, htmr⟩ := h
  exact ⟨hirr.setVec hv true, hisr, htmr.setVec hv l⟩

/-- The EOI clears a bit of the ISR (R546). -/
theorem vectorsOk_eoi {s : State} (v : Nat) (h : s.vectorsOk) :
    State.vectorsOk { s with apic := { s.apic with isr := setVec s.apic.isr v false } } := by
  rw [vectorsOk_iff] at h ⊢
  obtain ⟨hirr, hisr, htmr⟩ := h
  exact ⟨hirr, hisr.clear v, htmr⟩

/-- The acknowledge moves the offered vector, which is not one of class 0, from IRR to ISR (R544). -/
theorem vectorsOk_acknowledge {s : State} {r : Request} (hr : s.request = some r) (h : s.vectorsOk) :
    (s.acknowledge r).vectorsOk := by
  cases r with
  | apic b =>
    have hb : 16 ≤ b.toNat := le_of_offer (offer_of_request hr)
    rw [vectorsOk_iff] at h ⊢
    obtain ⟨hirr, hisr, htmr⟩ := h
    exact ⟨hirr.clear _, hisr.setVec hb true, htmr⟩
  | _ => exact vectorsOk_congr h rfl rfl rfl

theorem vectorsOk_leaveSmm {s : State} (h : s.vectorsOk) : s.leaveSmm.vectorsOk := by
  unfold State.leaveSmm
  split
  · exact vectorsOk_of_apic h rfl
  · exact h

theorem vectorsOk_lmswWrite {s : State} (v : Word) (h : s.vectorsOk) : (lmswWrite s v).vectorsOk := by
  unfold lmswWrite
  dsimp only
  split <;> exact vectorsOk_of_apic h rfl

/-- The updates that every computation is made of keep the reserved vectors clear. -/
theorem stable_vectorsOk : Stable State.vectorsOk where
  soft _ _ h _ _ _ _ _ hirr hisr htmr := vectorsOk_congr h hirr hisr htmr
  write s ws h := vectorsOk_of_apic h (physWrite_apic s ws)
  ts _ h := vectorsOk_of_apic h rfl
  log _ _ l hv h := vectorsOk_log l hv h
  mix _ _ hs _ := vectorsOk_of_apic hs rfl
  eoi _ v h := vectorsOk_eoi v h

/-- The updates of single instructions and events keep the reserved vectors clear. -/
theorem stepStable_vectorsOk : StepStable State.vectorsOk where
  toStable := stable_vectorsOk
  cr0 _ _ _ _ ht _ _ := vectorsOk_of_apic ht rfl
  cr4 _ _ h _ := vectorsOk_of_apic h rfl
  lmsw _ v h := vectorsOk_lmswWrite v h
  clts _ h := vectorsOk_of_apic h rfl
  enterSmm _ h := vectorsOk_congr h rfl rfl rfl
  leaveSmm _ h := vectorsOk_leaveSmm h
  afterInit _ _ := vectorsOk_of_zero rfl rfl rfl
  afterReset _ _ := vectorsOk_of_zero rfl rfl rfl
  wbinvd _ h := vectorsOk_of_apic h rfl
  writeBack _ _ h := vectorsOk_of_apic h rfl
  invd _ _ _ h := vectorsOk_of_apic h rfl
  agentWrite s _ h := vectorsOk_of_apic h (physWrite_apic s _)
  acknowledge _ _ hr h := vectorsOk_acknowledge hr h
  putBack _ _ _ hs _ := vectorsOk_of_apic hs rfl

/-- Settles O56: the elementary updates of the state keep the reserved vectors clear, and so does every step. -/
theorem apicVectorsStayLegal : Obligations.ApicVectorsStayLegal :=
  fun _ _ hs h => stepStable_vectorsOk.next hs h

end Sys2Proof.Machine
end

section
/-! PROOFS. The request of the local APIC: the offered vector and what its acceptance, a write to the TPR and an EOI change. -/
namespace Sys2Proof.Machine

variable {s : State}

/-! ## Offer and acceptance -/

/-- A vector is offered exactly if it is the highest requested and its class is above the task priority's and that of every
vector in service (R542, R544). -/
theorem offer_eq_some_iff_classes {a : Apic} {v : Nat} :
    a.offer = some v ↔
      v < 256 ∧ a.irr.getLsbD v = true ∧ (∀ w, v < w → a.irr.getLsbD w = false) ∧
      a.tpr.toNat / 16 < v / 16 ∧ (∀ w, a.isr.getLsbD w = true → w / 16 < v / 16) := by
  rw [offer_eq_some_iff, highest_eq_some_iff, ppr_class, Nat.max_lt]
  constructor
  · rintro ⟨⟨hv, habove⟩, htpr, hisr⟩
    exact ⟨BitVec.lt_of_getLsbD hv, hv, habove, htpr, (highestOr0_class_lt (by omega)).mp hisr⟩
  · rintro ⟨-, hv, habove, htpr, hisr⟩
    exact ⟨⟨hv, habove⟩, htpr, (highestOr0_class_lt (by omega)).mpr hisr⟩

/-- Dispensing a vector moves its bit from IRR to ISR and leaves the others (R544). -/
theorem dispense_moves (a : Apic) (v : Nat) :
    (v < 256 → (a.dispense v).irr.getLsbD v = false ∧ (a.dispense v).isr.getLsbD v = true) ∧
      ∀ w, w ≠ v → (a.dispense v).irr.getLsbD w = a.irr.getLsbD w ∧ (a.dispense v).isr.getLsbD w = a.isr.getLsbD w :=
  ⟨fun h => ⟨getLsbD_setVec_self h, getLsbD_setVec_self h⟩, fun _ h => ⟨getLsbD_setVec_ne h, getLsbD_setVec_ne h⟩⟩

theorem apicRequest_of_offer {v : Nat} (hon : s.apicOn = true) (ho : s.apic.offer = some v) :
    s.apicRequest = some (.apic (BitVec.ofNat 8 v)) := by
  simp [State.apicRequest, hon, ho]

/-- A request is open if it is held back under no number of handlers (R409). -/
theorem requestOpen_of_not_held {r : Request} (h : ∀ n, (Held.request r, n) ∉ s.pend.held) : s.requestOpen r = true := by
  rw [State.requestOpen, Bool.not_eq_true', List.any_eq_false]
  rintro ⟨e, n⟩ hmem heq
  exact h n (eq_of_beq heq ▸ hmem)

/-- Without an NMI, a shadow and a request of the 8259A the core accepts the APIC's request if IF = 1 (R407, R412). -/
theorem request_of_offer {v : Nat} (hon : s.apicOn = true) (ho : s.apic.offer = some v) (hnmi : s.pend.nmi = false)
    (hsh : s.act.shadow = .none) (hext : s.intrLine = false)
    (hheld : ∀ n, (Held.request (.apic (BitVec.ofNat 8 v)), n) ∉ s.pend.held) :
    s.request = if s.eflags.intf then some (.apic (BitVec.ofNat 8 v)) else none := by
  have hmask : s.maskableRequest = some (.apic (BitVec.ofNat 8 v)) := by
    have hfilter : s.apicRequest.filter s.requestOpen = some (.apic (BitVec.ofNat 8 v)) :=
      Option.filter_eq_some_iff.mpr ⟨apicRequest_of_offer hon ho, requestOpen_of_not_held hheld⟩
    simp [State.maskableRequest, hfilter, hext]
  simp [State.request, hnmi, hsh, hmask]

/-- The acknowledge of the APIC's request dispenses the offered vector (R544). -/
theorem acknowledge_of_offer {v : Nat} (ho : s.apic.offer = some v) :
    (s.acknowledge (.apic (BitVec.ofNat 8 v))).apic = s.apic.dispense v :=
  congrArg s.apic.dispense (Nat.mod_eq_of_lt (offer_lt ho))

/-! ## TPR and EOI -/

/-- A write to the TPR, when the APIC asserts no request, sets the task priority (R541). -/
theorem apicWrite_tpr (x : Word) (h : s.apic.intr = none) :
    apicWrite 0x80 x s = .ok () { s with apic := { s.apic with tpr := x.setWidth 8 } } := by
  show writeTpr x s = _
  unfold writeTpr
  rw [run_get_bind, h]
  rfl

theorem apicWrite_eoi (x : Word) (s : State) : apicWrite 0xB0 x s = .ok () (writeEoi s) := rfl

/-- With no vector in service an EOI changes nothing (R546). -/
theorem writeEoi_of_idle (h : ∀ v, s.apic.isr.getLsbD v = false) : writeEoi s = s := by
  unfold writeEoi
  rw [highest_eq_none_iff.mpr h]

/-- The local APIC after the EOI of a vector. -/
def State.endService (s : State) (v : Nat) : State :=
  { s with apic := { s.apic with isr := setVec s.apic.isr v false }.endRemote v }

/-- The EOI ends the highest vector in service, and an EOI message leaves for a level-triggered one (R546). -/
theorem writeEoi_of_highest {v : Nat} (h : highest s.apic.isr = some v) :
    writeEoi s = if s.apic.tmr.getLsbD v then (s.endService v).send (.eoi (BitVec.ofNat 8 v)) else s.endService v := by
  have htmr : (s.endService v).apic.tmr = s.apic.tmr := endRemote_tmr _ _
  unfold writeEoi
  rw [h, ← htmr]
  rfl

@[simp] theorem endRemote_tpr (a : Apic) (v : Nat) : (a.endRemote v).tpr = a.tpr := by
  unfold Apic.endRemote
  split <;> rfl

/-- What the EOI of the highest vector in service changes of the vector registers, the task priority and the bus (R546). -/
theorem writeEoi_registers {v : Nat} (h : highest s.apic.isr = some v) :
    (writeEoi s).apic.isr = setVec s.apic.isr v false ∧ (writeEoi s).apic.irr = s.apic.irr ∧
      (writeEoi s).apic.tmr = s.apic.tmr ∧ (writeEoi s).apic.tpr = s.apic.tpr ∧
      (writeEoi s).bus = if s.apic.tmr.getLsbD v then s.bus ++ [.eoi (BitVec.ofNat 8 v)] else s.bus := by
  rw [writeEoi_of_highest h]
  split <;> simp [State.endService, State.send]

/-- Settles O59: the offer by the highest vector and the classes, its acceptance by the request, TPR and EOI by the registers
after the write. -/
theorem apicOffersHighest : Obligations.ApicOffersHighest := by
  refine ⟨fun a v => ⟨offer_eq_some_iff_classes, dispense_moves a v⟩, fun s v hon ho hnmi hsh hext hheld =>
    ⟨request_of_offer hon ho hnmi hsh hext hheld, acknowledge_of_offer ho⟩, fun s x => ⟨apicWrite_tpr x, fun h => ?_,
    fun v hv habove => ?_⟩⟩
  · rw [apicWrite_eoi, writeEoi_of_idle h]
  · obtain ⟨hisr, hirr, htmr, htpr, hbus⟩ := writeEoi_registers (highest_eq_some_iff.mpr ⟨hv, habove⟩)
    refine ⟨writeEoi s, apicWrite_eoi x s, ?_, fun w hw => ?_, hirr, htmr, htpr, hbus⟩
    · rw [hisr, getLsbD_setVec_self (BitVec.lt_of_getLsbD hv)]
    · rw [hisr, getLsbD_setVec_ne hw]

end Sys2Proof.Machine
end

section
/-! PROOFS. MOV in the local APIC's register page: an aligned 32-bit load or store is the register's own access, any other is
refused. -/
namespace Sys2Proof.Machine

variable {s s1 t : State} {pas : List Nat}

/-! ## Accesses to the page -/

theorem any_inApic_of_not_plain (h : ¬ s.plain pas) : pas.any s.inApic = true := eq_true_of_ne_false h

/-- A store to a register's slot writes the register (R485). -/
theorem phWrite_slot (v : Word) (h : ¬ s.plain pas) (hs : isApicSlot pas = true) :
    phWrite pas v.toNat s = apicWrite (pas.headD 0 % 4096) v s := by
  unfold phWrite
  rw [run_get_bind, any_inApic_of_not_plain h, if_pos rfl, hs, if_pos rfl, BitVec.ofNat_toNat, BitVec.setWidth_eq]

/-- Any other store to the page is refused (R484). -/
theorem phWrite_notSlot (v : Nat) (h : ¬ s.plain pas) (hs : isApicSlot pas = false) :
    phWrite pas v s = .error (.refuse .apicAccess) s := by
  unfold phWrite
  rw [run_get_bind, any_inApic_of_not_plain h, if_pos rfl, hs, if_neg Bool.false_ne_true, run_refuse]

/-- A load from a register's slot gives the register's value (R485). -/
theorem place_get_slot {v : Word} (h : ¬ s.plain pas) (hs : isApicSlot pas = true)
    (hr : apicRead (pas.headD 0 % 4096) s = .ok v t) : (Place.mem pas).get s = .ok v t := by
  have hread : phRead pas s = .ok v.toNat t := by
    unfold phRead
    rw [run_get_bind, any_inApic_of_not_plain h, if_pos rfl, hs, if_pos rfl, run_bind_ok hr]
    rfl
  refine (run_bind_ok hread).trans ?_
  rw [run_pure, BitVec.ofNat_toNat, BitVec.setWidth_eq]

/-- A load from a register's slot stops as the register's access does (R546). -/
theorem place_get_slot_error {e : Stop} (h : ¬ s.plain pas) (hs : isApicSlot pas = true)
    (hr : apicRead (pas.headD 0 % 4096) s = .error e t) : (Place.mem pas).get s = .error e t := by
  refine run_bind_error ?_
  unfold phRead
  rw [run_get_bind, any_inApic_of_not_plain h, if_pos rfl, hs, if_pos rfl, run_bind_error hr]

/-- Any other load from the page is refused (R484). -/
theorem place_get_notSlot (h : ¬ s.plain pas) (hs : isApicSlot pas = false) :
    (Place.mem pas).get s = .error (.refuse .apicAccess) s := by
  refine run_bind_error ?_
  unfold phRead
  rw [run_get_bind, any_inApic_of_not_plain h, if_pos rfl, hs, if_neg Bool.false_ne_true, run_refuse]

/-- One byte is no register's slot (R484). -/
theorem isApicSlot_of_byte (h : pas.length = 1) : isApicSlot pas = false := by
  obtain ⟨a, rfl⟩ := List.length_eq_one_iff.mp h
  rfl

theorem place8_mem_length {k : Access} {o : RM Reg8} (h : place8 k o s = .ok (.mem pas) s1) : pas.length = 1 := by
  cases o with
  | reg r => cases h
  | mem m =>
    obtain ⟨pas', u, hm, h⟩ := ok_of_bind_ok h
    cases h
    exact memAddrs_length hm

/-! ## Stores -/

/-- MOV to memory stores the source where the destination's checks put it (R601, R603). -/
theorem movOp_mem {dst : M Place} {src : M Word} {v : Word} (hd : dst s = .ok (.mem pas) s1) (hs : src s1 = .ok v s1) :
    movOp dst src s = phWrite pas v.toNat s1 := by
  unfold movOp
  rw [run_bind_ok hd, run_bind_ok hs]
  rfl

/-- MOV and MOVNTI are refused as their move is, MOVNTI where it is there (R603, R604). -/
theorem exec_movForm_refuse {f : MovForm} {r : Refusal} (hp : f.present s) (hl : s.lockOk false)
    (h : movOp (f.dst s) (f.source s) s = .error (.refuse r) t) : exec f.instr s = .refused r := by
  cases f with
  | nti m d =>
    have hcheck : (do require (← get).cfg.hasSse2 .ud : M Unit) s = .ok () s := by
      rw [run_get_bind, show s.cfg.hasSse2 = true from hp, run_require_true]
    exact runInsn_refuse hl ((run_bind_ok hcheck).trans h)
  | _ => exact runInsn_refuse hl h

theorem movForm_body {f : MovForm} (hd : f.dst s s = .ok (.mem pas) s1) :
    movOp (f.dst s) (f.source s) s = phWrite pas (f.src s).toNat s1 :=
  movOp_mem hd (f.run_source (MovForm.walks_dst hd).gpr)

/-- A store in the page: to a slot it is the register's write, else it is refused (R484, R485). -/
theorem movForm_apicPage {f : MovForm} (hp : f.present s) (hl : s.lockOk false) (hd : f.dst s s = .ok (.mem pas) s1)
    (ha : ¬ s1.plain pas) :
    (isApicSlot pas = true →
      (∀ t, apicWrite (pas.headD 0 % 4096) (f.src s) s1 = .ok () t → exec f.instr s = .next t.done) ∧
      (∀ r t, apicWrite (pas.headD 0 % 4096) (f.src s) s1 = .error (.refuse r) t → exec f.instr s = .refused r)) ∧
    (isApicSlot pas = false → exec f.instr s = .refused .apicAccess) := by
  have hbody := movForm_body hd
  refine ⟨fun hs => ?_, fun hs => ?_⟩
  · rw [phWrite_slot _ ha hs] at hbody
    exact ⟨fun t hw => exec_movForm hp hl (hbody.trans hw), fun r t hw => exec_movForm_refuse hp hl (hbody.trans hw)⟩
  · rw [phWrite_notSlot _ ha hs] at hbody
    exact exec_movForm_refuse hp hl hbody

/-! ## Loads -/

/-- A load whose operand cannot be read stops as the read does. -/
theorem movOp_load_error {q p : Place} {src : M Place} {e : Stop} (hs : src s = .ok p s1) (hg : p.get s1 = .error e t) :
    movOp (pure q) (do (← src).get) s = .error e t := by
  unfold movOp
  rw [run_pure_bind]
  exact run_bind_error ((run_bind_ok hs).trans hg)

/-- A load of operand size in the page: from a slot it is the register's read, else it is refused (R484, R485). -/
theorem movR_apicPage {i : Instr} {r : Reg} {src : RM Reg}
    (hi : exec i s = runInsn false (atOsz fun z => movOp (pure (.reg z r)) (readRM z src)) s) (hl : s.lockOk false)
    (hp : place s.osz .read src s = .ok (.mem pas) s1) (ha : ¬ s1.plain pas) :
    (isApicSlot pas = true →
      (∀ v t, apicRead (pas.headD 0 % 4096) s1 = .ok v t → exec i s = .next (t.setReg s.osz r v).done) ∧
      (∀ e t, apicRead (pas.headD 0 % 4096) s1 = .error (.refuse e) t → exec i s = .refused e)) ∧
    (isApicSlot pas = false → exec i s = .refused .apicAccess) := by
  refine ⟨fun hs => ⟨fun v t hr => ?_, fun e t hr => ?_⟩, fun hs => ?_⟩
  · have hread : readRM s.osz src s = .ok v t := (run_bind_ok hp).trans (place_get_slot ha hs hr)
    exact hi.trans (runInsn_done hl (movOp_ok (p := .reg s.osz r) rfl hread trivial))
  · exact hi.trans (runInsn_refuse hl (movOp_load_error (q := .reg s.osz r) hp (place_get_slot_error ha hs hr)))
  · exact hi.trans (runInsn_refuse hl (movOp_load_error (q := .reg s.osz r) hp (place_get_notSlot ha hs)))

/-- A load of a byte in the page is refused (R484). -/
theorem movR8_apicPage {i : Instr} {r : Reg8} {src : RM Reg8}
    (hi : exec i s = runInsn false (movOp (pure (.reg8 r)) (readRM8 src)) s) (hl : s.lockOk false)
    (hp : place8 .read src s = .ok (.mem pas) s1) (ha : ¬ s1.plain pas) : exec i s = .refused .apicAccess :=
  hi.trans (runInsn_refuse hl (movOp_load_error (q := .reg8 r) hp
    (place_get_notSlot ha (isApicSlot_of_byte (place8_mem_length hp)))))

end Sys2Proof.Machine
end

section
/-! PROOFS. The registers of the local APIC: what a write leaves in them and what a read answers. -/
namespace Sys2Proof.Machine

variable {s : State}

/-! ## Bits and fields of a register -/

theorem bit_setBit_ne {w : Word} {i k : Nat} {b : Bool} (h : k ≠ i) : bit (setBit w i b) k = bit w k := by
  have hbit : bit (setBit w i b) k = if k = i ∧ k < 32 then b else bit w k := getLsbD_setOrClear w i b k
  rw [hbit, if_neg fun hk => h hk.1]

/-- A field of the bits that a mask keeps. -/
theorem field_and_of_ones {w m : Word} {lo n : Nat} (h : m.extractLsb' lo n = BitVec.allOnes n) :
    field (w &&& m) lo n = field w lo n := by
  rw [field_eq, field_eq, BitVec.extractLsb'_and, h, BitVec.and_allOnes]

theorem bit_and_of_one {w m : Word} {i : Nat} (h : m.getLsbD i = true) : bit (w &&& m) i = bit w i := by
  rw [bit, bit, BitVec.getLsbD_and, h, Bool.and_true]

theorem field_zero_eight (w : Word) : field w 0 8 = w.toNat % 256 := by
  show w.toNat / 1 % 256 = _
  rw [Nat.div_one]

/-- The vector of an entry or of a command, as a byte. -/
theorem toNat_vector (w : Word) : (w.setWidth 8 : Byte).toNat = field w 0 8 := by
  rw [field_zero_eight]
  exact BitVec.toNat_setWidth 8 w

/-! ## Registers that are written and read -/

/-- Of the registers that software only reads, these ignore a write (log 24). -/
theorem apicWrite_readOnly {off : Nat} (v : Word) (s : State) (h : off ∈ [0x30, 0xA0, 0x100, 0x180, 0x200, 0x390]) :
    apicWrite off v s = .ok () s := by
  simp only [List.mem_cons, List.not_mem_nil, or_false] at h
  rcases h with rfl | rfl | rfl | rfl | rfl | rfl <;> rfl

/-- The SVR keeps its enable flag from the value written (R548). -/
theorem bit_svrValue (s : State) (v : Word) :
    bit (if s.isXapic then v &&& 0x1FF#32 else (v &&& 0x3FF#32) ||| 0xF#32) 8 = bit v 8 := by
  split
  · exact bit_and_of_one rfl
  · rw [bit_or_of_zero rfl]
    exact bit_and_of_one rfl

theorem apicWrite_svr_enabled {v : Word} (h : bit v 8 = true) :
    apicWrite 0xF0 v s = .ok () { s with apic := { s.apic with
      svr := if s.isXapic then v &&& 0x1FF#32 else (v &&& 0x3FF#32) ||| 0xF#32 } } := by
  show EStateM.Result.ok () (writeSvr s v) = _
  rw [writeSvr, bit_svrValue, if_pos h]

/-- Clearing the SVR's enable flag masks every LVT entry (R551). -/
theorem apicWrite_svr_disabled {v : Word} (h : bit v 8 = false) :
    apicWrite 0xF0 v s = .ok () { s with apic := { s.apic with
      svr := if s.isXapic then v &&& 0x1FF#32 else (v &&& 0x3FF#32) ||| 0xF#32
      lvtTimer := s.apic.lvtTimer ||| 0x10000#32, lvtThermal := s.apic.lvtThermal ||| 0x10000#32
      lvtPerf := s.apic.lvtPerf ||| 0x10000#32, lvtLint0 := s.apic.lvtLint0 ||| 0x10000#32
      lvtLint1 := s.apic.lvtLint1 ||| 0x10000#32, lvtError := s.apic.lvtError ||| 0x10000#32 } } := by
  show EStateM.Result.ok () (writeSvr s v) = _
  rw [writeSvr, bit_svrValue, if_neg (by rw [h]; exact Bool.false_ne_true)]
  rfl

/-! ## ISR, TMR and IRR -/

/-- Slot `k` of a vector register holds the vectors from 32 `k` on (R543). -/
theorem getLsbD_slot (x : BitVec 256) {k j : Nat} (hj : j < 32) : (slot x k).getLsbD j = x.getLsbD (32 * k + j) := by
  have hx : slot x k = x.extractLsb' (32 * k) 32 := by
    refine BitVec.eq_of_toNat_eq ?_
    rw [slot, BitVec.toNat_ofNat, BitVec.extractLsb'_toNat, Nat.shiftRight_eq_div_pow]
  rw [hx, BitVec.getLsbD_extractLsb']
  simp [hj]

/-- The eight slots of each vector register (R485, R543). -/
theorem apicRead_slots (s : State) {k : Nat} (hk : k < 8) :
    apicRead (0x100 + 16 * k) s = .ok (slot s.apic.isr k) s ∧ apicRead (0x180 + 16 * k) s = .ok (slot s.apic.tmr k) s ∧
      apicRead (0x200 + 16 * k) s = .ok (slot s.apic.irr k) s := by
  interval_cases k <;> exact ⟨rfl, rfl, rfl⟩

/-! ## The local vector table -/

/-- An LVT entry after a write: the delivery status stays, the writable bits are taken (R508 to R512). -/
def lvtEntry (e : Lvt) (old v : Word) : Word := (old &&& 0x1000#32) ||| (v &&& lvtMask e)

/-- The vector is writable in every entry. -/
theorem field_lvtEntry_vector (e : Lvt) (old v : Word) : field (lvtEntry e old v) 0 8 = v.toNat % 256 := by
  have hones : (lvtMask e).extractLsb' 0 8 = BitVec.allOnes 8 := by cases e <;> rfl
  rw [lvtEntry, field_eq, BitVec.extractLsb'_or, BitVec.extractLsb'_and, BitVec.extractLsb'_and, hones, BitVec.and_allOnes,
    show (0x1000#32).extractLsb' 0 8 = 0#8 from rfl, BitVec.and_zero, BitVec.zero_or, ← field_eq, field_zero_eight]

/-- The offset of an LVT entry's register (R485). -/
def lvtOffset : Lvt → Nat
  | .timer => 0x320 | .thermal => 0x330 | .perf => 0x340 | .lint0 => 0x350 | .lint1 => 0x360 | .error => 0x370

/-- A store to an implemented entry's register writes the entry (R485). -/
theorem apicWrite_lvtOffset {e : Lvt} (v : Word) (h : s.apicImplemented (lvtOffset e) = true) :
    apicWrite (lvtOffset e) v s = writeLvt e v s := by
  unfold apicWrite
  rw [run_get_bind, h]
  cases e <;> rfl

/-- The thermal entry is there on the Pentium 4 and Intel Xeon (R508). -/
theorem thermal_implemented (h : s.cfg.family = .p4Xeon) : s.apicImplemented (lvtOffset .thermal) = true := by
  show (s.cfg.family == .p4Xeon) = true
  rw [h]
  rfl

/-- The performance entry is there from the P6 family on (R508). -/
theorem perf_implemented (h : s.cfg.family = .p4Xeon ∨ s.cfg.family = .p6) :
    s.apicImplemented (lvtOffset .perf) = true := by
  show (s.cfg.family == .p6 || s.cfg.family == .p4Xeon) = true
  rcases h with h | h <;> rw [h] <;> rfl

/-- A vector from 16 on is legal, so no error can follow (R518). -/
theorem run_illegalVector {w : Word} (h : 16 ≤ field w 0 8) (s : State) :
    (if (field w 0 8 < 16 && field w 8 3 == 0) = true then do
        if ← freshBit then modify fun s => s.apicError 6
      else pure () : M Unit) s = .ok () s := by
  rw [if_neg (by simp only [Bool.and_eq_true, decide_eq_true_eq]; omega), run_pure]

/-- A write to the timer, thermal, performance or error entry, while the APIC is software enabled, of a vector from 16 on. -/
theorem writeLvt_ok {e : Lvt} {v : Word} (he : (e == .lint0 || e == .lint1) = false) (hsvr : bit s.apic.svr 8 = true)
    (hv : 16 ≤ v.toNat % 256) :
    writeLvt e v s = .ok () { s with apic := s.apic.setLvt e (lvtEntry e (s.apic.lvt e) v) } := by
  rw [← field_lvtEntry_vector e (s.apic.lvt e)] at hv
  unfold writeLvt
  rw [run_get_bind]
  simp only [hsvr, if_true, he, Bool.false_eq_true, if_false]
  rw [run_pure_bind, run_modify_bind]
  exact run_illegalVector hv _

theorem field_setBit14_vector (w : Word) (b : Bool) : field (setBit w 14 b) 0 8 = field w 0 8 := by
  cases b with
  | true => exact field_or_of_zero rfl
  | false => exact field_and_of_ones rfl

/-- A write to a LINT entry under the same conditions: bit 14 is the remote IRR flag, or free (R508). -/
theorem writeLvt_lint_ok {e : Lvt} {v : Word} (he : (e == .lint0 || e == .lint1) = true) (hsvr : bit s.apic.svr 8 = true)
    (hv : 16 ≤ v.toNat % 256) :
    ∃ r n, writeLvt e v s =
      .ok () { s with free := n, apic := s.apic.setLvt e (setBit (lvtEntry e (s.apic.lvt e) v) 14 r) } := by
  have hvec : ∀ r, 16 ≤ field (setBit (lvtEntry e (s.apic.lvt e) v) 14 r) 0 8 := fun r => by
    rwa [field_setBit14_vector, field_lvtEntry_vector]
  unfold writeLvt
  rw [run_get_bind]
  simp only [hsvr, if_true, he]
  split
  · exact ⟨s.remoteIrrDefined e (s.apic.lvt e) && bit (s.apic.lvt e) 14, s.free, run_illegalVector (hvec _) _⟩
  · exact ⟨Config.freeBit s.free, s.free + 1, run_illegalVector (hvec _) _⟩

/-- A store to an entry's register under these conditions (R509 to R512). -/
theorem apicWrite_lvt_ok {e : Lvt} {v : Word} (hi : s.apicImplemented (lvtOffset e) = true)
    (he : (e == .lint0 || e == .lint1) = false) (hsvr : bit s.apic.svr 8 = true) (hv : 16 ≤ v.toNat % 256) :
    apicWrite (lvtOffset e) v s = .ok () { s with apic := s.apic.setLvt e (lvtEntry e (s.apic.lvt e) v) } := by
  rw [apicWrite_lvtOffset v hi, writeLvt_ok he hsvr hv]

theorem apicWrite_lint_ok {e : Lvt} {v : Word} (hi : s.apicImplemented (lvtOffset e) = true)
    (he : (e == .lint0 || e == .lint1) = true) (hsvr : bit s.apic.svr 8 = true) (hv : 16 ≤ v.toNat % 256) :
    ∃ r n, apicWrite (lvtOffset e) v s =
      .ok () { s with free := n, apic := s.apic.setLvt e (setBit (lvtEntry e (s.apic.lvt e) v) 14 r) } := by
  rw [apicWrite_lvtOffset v hi]
  exact writeLvt_lint_ok he hsvr hv

/-- An entry reads as it is but for its delivery status (R508). -/
theorem bit_lvtRead (s : State) (e : Lvt) {k : Nat} (h : k ≠ 12) : bit (s.lvtRead e) k = bit (s.apic.lvt e) k :=
  bit_setBit_ne h

end Sys2Proof.Machine
end

section
/-! PROOFS. The interrupts that the local APIC sends itself or others: the IPI that a write to the ICR sends, a tick of the timer;
and the statement on its register page. -/
namespace Sys2Proof.Machine

variable {s : State}

/-! ## Interrupts accepted at once -/

/-- On the system bus there is always a slot (R545). -/
theorem slotFree_of_xapic (hx : s.isXapic = true) (v : Nat) : s.slotFree v = true := by rw [State.slotFree, hx, Bool.true_or]

theorem setVec_true (x : BitVec 256) (v : Nat) : setVec x v true = x ||| (1#256 <<< v) := if_pos rfl

theorem setVec_false (x : BitVec 256) (v : Nat) : setVec x v false = x &&& ~~~(1#256 <<< v) := if_neg Bool.false_ne_true

/-- The vector registers when an edge-triggered interrupt is logged (R538). -/
theorem log_edge (a : Apic) (v : Nat) :
    a.log v false = { a with irr := a.irr ||| (1#256 <<< v), tmr := a.tmr &&& ~~~(1#256 <<< v) } := by
  rw [Apic.log, setVec_true, setVec_false]

/-- A fixed interrupt with a legal vector is logged in IRR and TMR (R538). -/
theorem acceptFixed_of_xapic {b : Byte} (hx : s.isXapic = true) (hb : 16 ≤ b.toNat) (l o : Bool) :
    s.acceptFixed b l o = { s with apic := s.apic.log b.toNat l } := by
  rw [State.acceptFixed, if_neg (by omega), slotFree_of_xapic hx, if_pos rfl]

/-- The same for the interrupt of an LVT entry that is not level triggered; it no longer waits (R519). -/
theorem localFixed_of_xapic {e : Lvt} (hx : s.isXapic = true) (hv : 16 ≤ field (s.apic.lvt e) 0 8) :
    s.localFixed e false =
      { s with apic := (s.apic.log (field (s.apic.lvt e) 0 8) false).setLvt e (setBit (s.apic.lvt e) 12 false) } := by
  rw [State.localFixed, if_neg (by omega), slotFree_of_xapic hx, if_pos rfl]
  rfl

/-! ## Sending -/

/-- On the system bus delivery mode 000 is fixed, whatever level and trigger mode say (R520). -/
theorem icrMode_fixed {w : Word} (h : field w 8 3 = 0) : icrMode true w = some .fixed := by
  rw [icrMode, h]
  rfl

/-- A vector from 16 on may be sent (R513). -/
theorem legal_ipi {w : Word} (hv : 16 ≤ field w 0 8) :
    ((DelMode.fixed == .fixed || DelMode.fixed == .lowest) && decide ((w.setWidth 8 : Byte).toNat < 16)) = false := by
  rw [toNat_vector, decide_eq_false (by omega), Bool.and_false]

/-- A fixed IPI with the shorthand "self" is logged as edge triggered, with no bus event (R524, R538, log 43). -/
theorem sendIpi_self (hx : s.isXapic = true) (hmode : field s.apic.icrLo 8 3 = 0) (hv : 16 ≤ field s.apic.icrLo 0 8)
    (hsh : field s.apic.icrLo 18 2 = 1) (hsoft : s.apicSoft = true) :
    sendIpi s = .ok () { s with apic := s.apic.log (field s.apic.icrLo 0 8) false } := by
  have htake : takeMessage .fixed (s.apic.icrLo.setWidth 8) false true true s =
      .ok () { s with apic := s.apic.log (field s.apic.icrLo 0 8) false } := by
    rw [takeMessage, run_modify]
    dsimp only
    rw [hsoft, if_pos rfl, acceptFixed_of_xapic hx (by rwa [toNat_vector]), toNat_vector]
  unfold sendIpi
  rw [run_get_bind]
  simp only [hx, icrMode_fixed hmode, hsh, legal_ipi hv]
  exact htake

/-- A physical destination that is neither this processor's ID nor the broadcast is another processor's (R525, R527). -/
theorem isDestination_other {d : Nat} (hx : s.isXapic = true) (hid : d ≠ s.apicId) (hall : d ≠ 255) :
    isDestination d false s = .ok false s := by
  unfold isDestination State.broadcastId
  rw [run_get_bind, hx]
  simp [hid, hall]

/-- The high byte of a register, put back in its place. -/
theorem highByte_shift (w : Word) : BitVec.ofNat 32 (field w 24 8) <<< 24 = w &&& 0xFF000000#32 := by
  have hbyte : BitVec.ofNat 32 (field w 24 8) = w >>> 24 := by
    refine BitVec.eq_of_toNat_eq ?_
    rw [BitVec.toNat_ofNat, BitVec.toNat_ushiftRight, Nat.shiftRight_eq_div_pow, field]
    omega
  rw [hbyte, BitVec.shiftLeft_ushiftRight]
  rfl

/-- On the system bus the message of an IPI without a shorthand, to a physical destination, has level 1 and trigger mode 0 (R520,
R524). -/
theorem ipiMessage_xapic {w : Word} (hx : s.isXapic = true) (hsh : field w 18 2 = 0) :
    s.ipiMessage w = .ipi (s.apic.icrHi &&& 0xFF000000#32) ((w ||| 0x4000#32) &&& 0xFFFF7FFF#32) := by
  have hflags : setBit (setBit w 14 true) 15 false = (w ||| 0x4000#32) &&& 0xFFFF7FFF#32 := rfl
  unfold State.ipiMessage State.ipiDest
  rw [hsh, hx, ← highByte_shift, ← hflags]
  rfl

theorem send_xapic (hx : s.isXapic = true) (e : BusEvent) : s.send e = { s with bus := s.bus ++ [e] } := by
  rw [State.send, hx]
  rfl

/-- A fixed IPI to another processor leaves on the bus, and its acceptance is awaited (R520, R524). -/
theorem sendIpi_other (hx : s.isXapic = true) (hmode : field s.apic.icrLo 8 3 = 0) (hv : 16 ≤ field s.apic.icrLo 0 8)
    (hsh : field s.apic.icrLo 18 2 = 0) (hphys : bit s.apic.icrLo 11 = false)
    (hid : field s.apic.icrHi 24 8 ≠ s.apicId) (hall : field s.apic.icrHi 24 8 ≠ 255) :
    sendIpi s = .ok () { s with
      apic := { s.apic with busWait := true }
      bus := s.bus ++ [.ipi (s.apic.icrHi &&& 0xFF000000#32) ((s.apic.icrLo ||| 0x4000#32) &&& 0xFFFF7FFF#32)] } := by
  have hdest : s.ipiDest 0 false = field s.apic.icrHi 24 8 := by
    rw [State.ipiDest, hx]
    rfl
  have hself : ipiToSelf .fixed 0 (field s.apic.icrHi 24 8) false s = .ok false s := isDestination_other hx hid hall
  unfold sendIpi
  rw [run_get_bind]
  simp only [hx, icrMode_fixed hmode, hsh, legal_ipi hv, hphys, Bool.false_and, hdest]
  refine (run_bind_ok hself).trans ?_
  show EStateM.Result.ok () { s.send (s.ipiMessage s.apic.icrLo) with
    apic := { (s.send (s.ipiMessage s.apic.icrLo)).apic with busWait := true } } = _
  rw [send_xapic hx, ipiMessage_xapic hx hsh]

/-- What the ICR's low half holds of a command (R520). -/
def icrCommand (v : Word) : Word := v &&& 0x000CCFFF#32

theorem apicWrite_icr (v : Word) (s : State) :
    apicWrite 0x300 v s = sendIpi { s with apic := { s.apic with icrLo := icrCommand v } } := rfl

theorem field_icrCommand_vector (v : Word) : field (icrCommand v) 0 8 = v.toNat % 256 := by
  rw [icrCommand, field_and_of_ones rfl, field_zero_eight]

theorem field_icrCommand_mode (v : Word) : field (icrCommand v) 8 3 = field v 8 3 := field_and_of_ones rfl

theorem field_icrCommand_shorthand (v : Word) : field (icrCommand v) 18 2 = field v 18 2 := field_and_of_ones rfl

theorem bit_icrCommand_logical (v : Word) : bit (icrCommand v) 11 = bit v 11 := bit_and_of_one rfl

/-- A write to the ICR that sends a fixed IPI to this processor by the shorthand "self" (R520, R524). -/
theorem apicWrite_icr_self {v : Word} (hx : s.isXapic = true) (hv : 16 ≤ v.toNat % 256) (hmode : field v 8 3 = 0)
    (hsh : field v 18 2 = 1) (hsoft : s.apicSoft = true) :
    apicWrite 0x300 v s = .ok () { s with apic := { s.apic with
      icrLo := icrCommand v, irr := s.apic.irr ||| (1#256 <<< (v.toNat % 256))
      tmr := s.apic.tmr &&& ~~~(1#256 <<< (v.toNat % 256)) } } := by
  rw [← field_icrCommand_vector] at hv ⊢
  rw [← field_icrCommand_mode] at hmode
  rw [← field_icrCommand_shorthand] at hsh
  rw [apicWrite_icr, sendIpi_self (s := { s with apic := { s.apic with icrLo := icrCommand v } }) hx hmode hv hsh hsoft,
    log_edge]

/-- A write to the ICR that sends a fixed IPI to another processor by its physical ID (R520, R525). -/
theorem apicWrite_icr_other {v : Word} (hx : s.isXapic = true) (hv : 16 ≤ v.toNat % 256) (hmode : field v 8 3 = 0)
    (hsh : field v 18 2 = 0) (hphys : bit v 11 = false) (hid : field s.apic.icrHi 24 8 ≠ s.apicId)
    (hall : field s.apic.icrHi 24 8 ≠ 255) :
    apicWrite 0x300 v s = .ok () { s with
      apic := { s.apic with icrLo := icrCommand v, busWait := true }
      bus := s.bus ++ [.ipi (s.apic.icrHi &&& 0xFF000000#32) ((icrCommand v ||| 0x4000#32) &&& 0xFFFF7FFF#32)] } := by
  rw [← field_icrCommand_vector] at hv
  rw [← field_icrCommand_mode] at hmode
  rw [← field_icrCommand_shorthand] at hsh
  rw [← bit_icrCommand_logical] at hphys
  exact (apicWrite_icr v s).trans
    (sendIpi_other (s := { s with apic := { s.apic with icrLo := icrCommand v } }) hx hmode hv hsh hphys hid hall)

/-! ## The timer -/

/-- The interrupt of an unmasked timer entry is logged as edge triggered (R517, R538). -/
theorem localDeliver_timer (hx : s.isXapic = true) (hm : bit s.apic.lvtTimer 16 = false)
    (hv : 16 ≤ field s.apic.lvtTimer 0 8) :
    localDeliver .timer s = .ok () { s with apic := { s.apic with
      irr := s.apic.irr ||| (1#256 <<< field s.apic.lvtTimer 0 8)
      tmr := s.apic.tmr &&& ~~~(1#256 <<< field s.apic.lvtTimer 0 8)
      lvtTimer := s.apic.lvtTimer &&& 0xFFFFEFFF#32 } } := by
  have hopen : ¬ bit (s.apic.lvt .timer) 16 = true := by
    show ¬ bit s.apic.lvtTimer 16 = true
    rw [hm]
    exact Bool.false_ne_true
  have hlocal : s.localFixed .timer false = _ := localFixed_of_xapic hx hv
  rw [log_edge] at hlocal
  unfold localDeliver
  rw [run_get_bind]
  dsimp only
  rw [if_neg hopen]
  exact congrArg (EStateM.Result.ok ()) hlocal

theorem localDeliver_masked {e : Lvt} (hm : bit (s.apic.lvt e) 16 = true) : localDeliver e s = .ok () s := by
  unfold localDeliver
  rw [run_get_bind]
  dsimp only
  rw [if_pos hm, run_pure]

/-- A timer that has stopped ignores a tick (R517). -/
theorem timerTick_stopped (hc : s.apic.curCount = 0#32) : timerTick s = .ok () s := by
  unfold timerTick
  rw [run_get_bind, hc, if_neg (by simp), run_pure]

/-- A count above 1 goes down by 1 (R517). -/
theorem timerTick_counts (hon : s.apicOn = true) (hc : 1 < s.apic.curCount.toNat) :
    timerTick s = .ok () { s with apic := { s.apic with curCount := s.apic.curCount - 1#32 } } := by
  have hne : (s.apic.curCount != 0#32) = true := by
    rw [bne_iff_ne]
    intro h
    simp [h] at hc
  have hpred : (s.apic.curCount - 1#32 == 0#32) = false := by
    rw [beq_eq_false_iff_ne]
    intro h
    bv_omega
  unfold timerTick
  rw [run_get_bind, hon, hne, Bool.true_and, if_pos rfl]
  dsimp only
  rw [hpred, if_neg Bool.false_ne_true, run_set]

/-- At 0 the count is reloaded in periodic mode, and the entry's interrupt is delivered (R517). -/
theorem timerTick_expires (hon : s.apicOn = true) (hc : s.apic.curCount = 1#32) :
    timerTick s = localDeliver .timer { s with apic := { s.apic with
      curCount := if bit s.apic.lvtTimer 17 then s.apic.initCount else 0#32 } } := by
  unfold timerTick
  rw [run_get_bind, hon, hc]
  rfl

/-- In fixed mode, on the system bus, an unmasked entry's interrupt is logged (R517, R538). -/
theorem timerTick_interrupts (hon : s.apicOn = true) (hc : s.apic.curCount = 1#32) (hx : s.isXapic = true)
    (hm : bit s.apic.lvtTimer 16 = false) (hv : 16 ≤ s.apic.lvtTimer.toNat % 256) :
    timerTick s = .ok () { s with apic := { s.apic with
      curCount := if bit s.apic.lvtTimer 17 then s.apic.initCount else 0#32
      irr := s.apic.irr ||| (1#256 <<< (s.apic.lvtTimer.toNat % 256))
      tmr := s.apic.tmr &&& ~~~(1#256 <<< (s.apic.lvtTimer.toNat % 256))
      lvtTimer := s.apic.lvtTimer &&& 0xFFFFEFFF#32 } } := by
  rw [← field_zero_eight] at hv ⊢
  exact (timerTick_expires hon hc).trans (localDeliver_timer hx hm hv)

/-! ## The statement -/

/-- Settles O8: the accesses by the move's own checks, then the registers one by one, the IPIs and the timer. -/
theorem movApicPage : Obligations.MovApicPage := by
  refine ⟨fun f s s1 pas hp hl hd ha => movForm_apicPage hp hl hd ha, fun i r src s s1 pas hl hi hp ha => ?loads,
    fun i src s s1 pas hl hi hp ha => ?bytes, fun s v => ?registers⟩
  case loads =>
    rcases hi with rfl | ⟨off, rfl, rfl, rfl⟩
    all_goals exact movR_apicPage rfl hl hp ha
  case bytes =>
    rcases hi with ⟨r, rfl⟩ | ⟨off, rfl, rfl⟩
    all_goals exact movR8_apicPage rfl hl hp ha
  case registers =>
    intro a vec reads writes svr entry
    refine ⟨fun off h => apicWrite_readOnly v s h, rfl, rfl, rfl, rfl, rfl, rfl, apicWrite_svr_enabled, rfl,
      apicWrite_svr_disabled, rfl, rfl, rfl, rfl, rfl, rfl, rfl, rfl, rfl, rfl, fun k hk => ?slots, fun hsvr hv => ?entries,
      ⟨_, _, _, _, rfl, rfl, rfl, rfl, fun k hk => ⟨bit_lvtRead s .timer hk, bit_lvtRead s .lint0 hk,
        bit_lvtRead s .lint1 hk, bit_lvtRead s .error hk⟩⟩,
      fun hx hv hmode => ⟨apicWrite_icr_self hx hv hmode, apicWrite_icr_other hx hv hmode⟩,
      fun hon => ⟨timerTick_stopped, timerTick_counts hon, fun hc => ⟨fun hm => ?masked, fun hm hx hv => ?interrupt⟩⟩⟩
    case slots =>
      obtain ⟨hisr, htmr, hirr⟩ := apicRead_slots s hk
      exact ⟨slot s.apic.isr k, slot s.apic.irr k, slot s.apic.tmr k, hisr, htmr, hirr, fun j hj =>
        ⟨getLsbD_slot s.apic.isr hj, getLsbD_slot s.apic.tmr hj, getLsbD_slot s.apic.irr hj⟩⟩
    case entries =>
      exact ⟨apicWrite_lvt_ok (e := .timer) rfl rfl hsvr hv,
        fun h => apicWrite_lvt_ok (thermal_implemented h) rfl hsvr hv,
        fun h => apicWrite_lvt_ok (perf_implemented h) rfl hsvr hv, apicWrite_lint_ok (e := .lint0) rfl rfl hsvr hv,
        apicWrite_lint_ok (e := .lint1) rfl rfl hsvr hv, apicWrite_lvt_ok (e := .error) rfl rfl hsvr hv⟩
    case masked => exact (timerTick_expires hon hc).trans (localDeliver_masked hm)
    case interrupt => exact timerTick_interrupts hon hc hx hm hv

end Sys2Proof.Machine
end

section
/-! PROOFS. The machine right after power-up or RESET: it meets the three invariants, and its registers hold R571's values. -/
namespace Sys2Proof.Machine

/-! ## The invariants -/

/-- Power-up and RESET give the same state (R571): a machine fresh from power-up is left as it is by RESET. -/
theorem afterReset_resetWith (c : Config.Params) : (State.resetWith c).afterReset = State.resetWith c := rfl

/-- Memory that nothing has written lists no byte, and so does its written-back copy (R571, log 1). -/
theorem memoryOk_resetWith (c : Config.Params) : (State.resetWith c).memoryOk :=
  memoryOk_of_same (m := []) rfl rfl rfl

theorem legal_resetWith (c : Config.Params) : (State.resetWith c).legal :=
  afterReset_resetWith c ▸ legal_afterReset (State.resetWith c)

/-- The local APIC comes up with IRR, ISR and TMR clear (R552). -/
theorem vectorsOk_resetWith (c : Config.Params) : (State.resetWith c).vectorsOk := vectorsOk_of_zero rfl rfl rfl

/-- Settles O57: the invariants hold at reset with any parameters, the default ones among them. -/
theorem invariantsAtReset : Obligations.InvariantsAtReset :=
  ⟨memoryOk_resetWith Config.default, legal_resetWith Config.default, vectorsOk_resetWith Config.default⟩

/-! ## The registers -/

/-- Every flag is clear, so the image holds reserved bit 1 alone (R571). -/
theorem toWord_resetWith (c : Config.Params) : (State.resetWith c).eflags.toWord = 2#32 := by
  show (Proc.reset 0#32 0#32).eflags.toWord = 2#32
  decide

/-- The five segment registers beside CS come up alike (R571). -/
theorem segs_get_resetWith (c : Config.Params) {x : Seg} (h : x ≠ .cs) : (State.resetWith c).segs.get x = SegReg.reset := by
  cases x with
  | cs => exact absurd rfl h
  | es | ss | ds | fs | gs => rfl

/-- The first fetch is 16 bytes below the top of the address space (R570). -/
theorem fetchAddr_resetWith (c : Config.Params) :
    (State.resetWith c).segs.cs.base + (State.resetWith c).eip = 0xFFFFFFF0#32 := by
  show 0xFFFF0000#32 + 0xFFF0#32 = 0xFFFFFFF0#32
  decide

/-- Settles O60: each register is a field of the reset state, but for the image of EFLAGS, the data segments and the address of
the first fetch. -/
theorem resetValues : Obligations.ResetValues := by
  intro c s
  have hseg : ∀ x, x ≠ .cs → (s.segs.get x).sel = 0#16 ∧ (s.segs.get x).base = 0#32 ∧ (s.segs.get x).limit = 0xFFFF#32 := by
    intro x hx
    rw [segs_get_resetWith c hx]
    exact ⟨rfl, rfl, rfl⟩
  exact ⟨toWord_resetWith c,
    -- EIP, CR0 to CR4, CS
    rfl, rfl, rfl, rfl, rfl, rfl, rfl, rfl, hseg,
    -- the general registers
    rfl, rfl, rfl, rfl, rfl, rfl, rfl, rfl,
    -- GDTR, IDTR, LDTR, TR
    rfl, rfl, rfl, rfl, rfl, rfl, rfl, rfl,
    -- DR0 to DR3, DR6, DR7, the MSRs
    rfl, rfl, rfl, rfl, rfl, rfl, rfl, rfl, rfl, rfl, rfl,
    -- the activity state and the TLB
    rfl, rfl, rfl, rfl, rfl, fetchAddr_resetWith c⟩

end Sys2Proof.Machine
end
